-- ==== Sys2Proof/Word.lean ====
section
/-! DEFINITION. The word types of the SC12 and their plainest arithmetic (00_scope.md, Numbers and notation; Store words). -/

namespace Sys2Proof

/-- One byte of the common store, or the eight value bits of a link character. -/
abbrev Byte := BitVec 8

/-- One 16-bit store word or port register. -/
abbrev Word := BitVec 16

/-- One 32-bit wrapping number (event, record and trace numbers, head period sequence). -/
abbrev DWord := BitVec 32

/-- An energy sum: a register 72 bits wide (R12). -/
abbrev EnergySum := BitVec 72

/-- A level code in hundredths of a decibel, or absent (R1; 0xFFFF in the store). -/
abbrev Level := Option Nat

end Sys2Proof
end

