-- ==== Sys2Proof/Syntax.lean ====
section
/-! DEFINITION. The commands the SC12 takes: one constructor per row of spec/opcode_table.json, in its order.
The table gives the rows no operand fields; the operands are the ones the governing rules name. -/

namespace Sys2Proof

/-- One character as it goes on the pair (R18, R183): the levels of its eleven bit times, the first in bit 0. A character
begins with a low start bit, then come the data bits 0 to 7, the wake bit as the ninth, and a stop bit, which is high. -/
abbrev PairChar := BitVec 11

/-- The port registers that a REGISTER_WRITE names (R78): WADR at A2,A1 = 0 and WCTL at A2,A1 = 2. -/
inductive PortReg where
  | wadr
  | wctl
  deriving DecidableEq, Repr

/-- What happens on RESET# (R98): it goes low, or it goes high while the BW strap stands at `wide`
(true: BW high, 16-bit port). -/
inductive ResetPin where
  | low
  | high (wide : Bool)
  deriving DecidableEq, Repr

/-- The commands of opcode_table.json. In port writes `a0` is the level of A0, which selects the byte in 8-bit mode
and is ignored in 16-bit mode, and `data` stands on D15..D0 (only D7..D0 count in 8-bit mode) (R78). -/
inductive Instr where
  | pinReset (pin : ResetPin)
  | endOfStarting
  | restart (data : Word)
  | registerWrite (reg : PortReg) (a0 : Bool) (data : Word)
  | ntcWrite (a0 : Bool) (data : Word)
  | wdatRead
  | wdatWrite (data : Word)
  | tickEvent
  | frame (chars : List PairChar)
  | joinComplete (head : Fin 12)
  | headLost (head : Fin 12)
  | calibrationComplete (head : Fin 12)
  | captureComplete
  | secondClose
  | periodEnd
  | start
  | stop
  | park
  | unpark
  | setClock
  | adoptLimits
  | calibrate
  | loadTrim
  | snapshot
  | dumpHistogram
  | armTrace
  | disarmTrace
  | traceNow
  | zeroHeadCounters
  | unknownKindRequest
  deriving DecidableEq, Repr

end Sys2Proof
end

