-- ==== Sys2Proof/Decode.lean ====
section
/-! DEFINITION. The command that a word spells by the bits of spec/opcode_table.json. No row of the table gives bits,
so no word spells a command. -/

namespace Sys2Proof

/-- No row of opcode_table.json carries an encoding ("fields" is empty and no bits are given), so every word is refused. -/
def decodeTableWord (_nbits _w : Nat) : Option Instr := none

end Sys2Proof
end

