-- ==== Sys2Proof/Config.lean ====
section
/-! DEFINITION. What is fixed for every SC12: the log table in ROM, the identity and the layout of the common store.
The spec leaves no value of a result or register undefined, so no free value stands here. -/

namespace Sys2Proof.Config

/-- Control block word 0 (R98). -/
def partCode : Word := 0x5C12

/-- Control block word 1 (R98). -/
def revision : Word := 1

/-- The log table G of R4, entries 0 to 127. -/
def logTableLow : List Nat :=
  [0, 1, 3, 4, 6, 7, 9, 10, 11, 13, 14, 16, 17, 18, 20, 21] ++
  [22, 24, 25, 26, 28, 29, 30, 32, 33, 34, 36, 37, 38, 40, 41, 42] ++
  [44, 45, 46, 47, 49, 50, 51, 52, 54, 55, 56, 57, 59, 60, 61, 62] ++
  [63, 65, 66, 67, 68, 69, 71, 72, 73, 74, 75, 77, 78, 79, 80, 81] ++
  [82, 84, 85, 86, 87, 88, 89, 90, 92, 93, 94, 95, 96, 97, 98, 99] ++
  [100, 102, 103, 104, 105, 106, 107, 108, 109, 110, 111, 112, 113, 114, 116, 117] ++
  [118, 119, 120, 121, 122, 123, 124, 125, 126, 127, 128, 129, 130, 131, 132, 133] ++
  [134, 135, 136, 137, 138, 139, 140, 141, 142, 143, 144, 145, 146, 147, 148, 149]

/-- The log table G of R4, entries 128 to 255. -/
def logTableHigh : List Nat :=
  [150, 151, 152, 153, 154, 155, 155, 156, 157, 158, 159, 160, 161, 162, 163, 164] ++
  [165, 166, 167, 168, 169, 169, 170, 171, 172, 173, 174, 175, 176, 177, 178, 178] ++
  [179, 180, 181, 182, 183, 184, 185, 185, 186, 187, 188, 189, 190, 191, 192, 192] ++
  [193, 194, 195, 196, 197, 198, 198, 199, 200, 201, 202, 203, 203, 204, 205, 206] ++
  [207, 208, 208, 209, 210, 211, 212, 212, 213, 214, 215, 216, 216, 217, 218, 219] ++
  [220, 220, 221, 222, 223, 224, 224, 225, 226, 227, 228, 228, 229, 230, 231, 231] ++
  [232, 233, 234, 234, 235, 236, 237, 238, 238, 239, 240, 241, 241, 242, 243, 244] ++
  [244, 245, 246, 247, 247, 248, 249, 249, 250, 251, 252, 252, 253, 254, 255, 255]

/-- The log table G of R4: entry f is 256 * log2(1 + f/256) rounded half up. -/
def logTable : List Nat := logTableLow ++ logTableHigh

/-- Byte addresses of the areas of the common store (00_scope.md, Common store at a glance; R76). -/
def headSettingsBase : Nat := 0x0100
def stagedBase : Nat := 0x0200
def mirrorBase : Nat := 0x0400
def headTableBase : Nat := 0x0600
def headPageBase : Nat := 0x0800
def receptorPageBase : Nat := 0x0980
def requestBase : Nat := 0x0A00
def eventBase : Nat := 0x0C00
def traceBase : Nat := 0x1000
def recordBase : Nat := 0x3000

/-- Bytes in the common store (00_scope.md). -/
def storeBytes : Nat := 0x10000

/-- Seconds in a day (R41). -/
def daySeconds : Nat := 86400

/-- Ticks in a second (R40). -/
def ticksPerSecond : Nat := 32

end Sys2Proof.Config
end

