-- ==== Sys2Proof/Machine/State.lean ====
section
/-! DEFINITION. The state of the SC12 as plain data, and the state right after a pin reset.
Each field's docstring names the rule of spec/ that gives it and its reset value. -/

namespace Sys2Proof.Machine

open Sys2Proof

/-- A fault would be a stop that the spec gives the part. It gives none: every misuse has a stated outcome
(a dropped write R84, a mispost R85, a refused request R168, a discarded frame R26), so nothing raises a fault. Safe. -/
inductive Fault where
  deriving DecidableEq, Repr

/-- Why a command has no meaning in this model. -/
inductive Refusal where
  /-- Raised by `exec` for a command that has no meaning yet; no arm raises it now. Safe. -/
  | notModelled (mnemonic : String)
  deriving DecidableEq, Repr

/-! ## Run control and clock -/

/-- The four run states (R170), encoded STARTING 0 to PARKED 3 (R180). -/
inductive RunState where
  | starting
  | stopped
  | measuring
  | parked
  deriving DecidableEq, Repr

/-- The site clock (R41, 03 section 3.2): all 0 after a pin reset, kept through RESTART (R52). -/
structure Clock where
  day : Word
  second : Nat
  weekday : Nat
  tick : Nat
  deriving DecidableEq, Repr

/-- The day and second that a second close announcement carries and that pages are stamped with (R42, R60). -/
structure Stamp where
  day : Word
  second : Nat
  deriving DecidableEq, Repr

/-- The current period record (03 section 3.3, R44); the fields keep the last period's values while none is open (R51). -/
structure Period where
  isOpen : Bool
  startDay : Word
  startSecond : Nat
  startTick : Nat
  plannedEnd : Nat
  plannedLength : Nat
  short : Bool
  deriving DecidableEq, Repr

/-- How a period ends, and the end kind in an adoption's reply (R105, R180). -/
inductive EndKind where
  | none
  | aligned
  | cut
  deriving DecidableEq, Repr

/-- The pending clock setting (R49) with the request slot it will answer (R166). -/
structure ClockSetting where
  day : Word
  second : Nat
  weekday : Nat
  slot : Fin 8
  deriving DecidableEq, Repr

/-- How far a begun tick event has come. MODEL's own field (log entry 2): the tick event is carried out part by part when
the queue commands its parts, and to its end by TICK_EVENT; other commands finish what of it they may not fall into. DESIGN
CHOICE: safe for whole tick events, unsafe for other commands between their parts, as the log entry says. -/
inductive TickStage where
  /-- No tick event is in progress. -/
  | idle
  /-- The open tick is being closed; the heads listed are not settled yet (R27). -/
  | closing (todo : List (Fin 12))
  /-- Every head is settled and a capture has taken its samples (R155). -/
  | closed
  /-- A capture whose post counter reached 0 has completed (R159). -/
  | captured
  /-- The second close, if there is one, is handled; `replaced` says that a clock setting took the place of the step (R49). -/
  | secondClosed (replaced : Bool)
  /-- The clock has stepped and an ALIGNED end is handled (R45, R47). -/
  | stepped
  /-- The mark is sent (R19, R29); what is left is the completion of calibrations, whose trim no level of this tick event
  uses (R68). -/
  | marked
  deriving DecidableEq, Repr

/-! ## Link and heads -/

/-- What a GOOD frame delivers (R20, R183). -/
structure Frame where
  aEnergy : Nat
  cPeak : Nat
  overFlag : Bool
  underFlag : Bool
  windyFlag : Bool
  faultFlag : Bool
  deriving DecidableEq, Repr

/-- The receiver (02 section 2.2): QUIET, or COLLECTING with the data characters so far and the stop-bit note. -/
inductive Receiver where
  | quiet
  | collecting (head : Fin 12) (chars : List Byte) (lacksStop : Bool)
  deriving DecidableEq, Repr

/-- The link controller. `nextMark` is the mark count modulo 256 (R19); `tickOpen` is the number of the mark that opened
the tick now open, if one is (R19, R27, R28); `badNote` is the bad-frame note (R26, R36). -/
structure Link where
  receiver : Receiver
  buffers : Vector (Option Frame) 12
  nextMark : Byte
  tickOpen : Option Byte
  badNote : Bool
  deriving DecidableEq, Repr

/-- The head states of 02 section 2.4. -/
inductive HeadState where
  | off
  | joining
  | active
  | lost
  deriving DecidableEq, Repr

/-- The frame kinds of R24, with NONE for the last-frame kind before any frame (R37). -/
inductive FrameKind where
  | none
  | good
  | framing
  | short
  | check
  | stale
  | duplicate
  deriving DecidableEq, Repr

/-- One entry of the head table (R37) with the returning flag (02 section 2.4). -/
structure Head where
  state : HeadState
  join : Nat
  miss : Nat
  returning : Bool
  good : Nat
  framing : Nat
  short : Nat
  check : Nat
  stale : Nat
  duplicate : Nat
  last : FrameKind
  errorSeen : Bool
  trim : Int
  deriving DecidableEq, Repr

/-! ## Level channels and calibration -/

/-- The second accumulators of a channel (04 section 4.2). -/
structure SecondAcc where
  sum : EnergySum
  present : Nat
  lafMax : Level
  lcPeak : Level
  overMark : Bool
  deriving DecidableEq, Repr

/-- The period accumulators of a channel (04 section 4.2). -/
structure PeriodAcc where
  sum : EnergySum
  ticksOpen : Nat
  present : Nat
  gap : Nat
  calibration : Nat
  overCount : Nat
  underCount : Nat
  windyCount : Nat
  lafMax : Level
  maxOffset : Nat
  lafMin : Level
  lcPeak : Level
  histogram : Vector Nat 160
  overloadSeen : Bool
  calSeen : Bool
  deriving DecidableEq, Repr

/-- A level channel: open flag and marks (R53, R67), running energies (R8), last present levels (R55), history (R57),
head period sequence (R62) and accumulators. -/
structure Channel where
  isOpen : Bool
  isPartial : Bool
  cutBefore : Bool
  cutNote : Bool
  fast : Nat
  slow : Nat
  lastFast : Level
  lastSlow : Level
  history : List Level
  sequence : DWord
  sec : SecondAcc
  acc : PeriodAcc
  deriving DecidableEq, Repr

/-- A head's calibration record (04 section 4.7), in its five items. -/
structure Calibration where
  inProgress : Bool
  count : Nat
  sum : EnergySum
  expected : Nat
  slot : Fin 8
  deriving DecidableEq, Repr

/-! ## Limit set and evaluator -/

/-- A limit set as its 256 words (R99 to R101, R105). -/
abbrev LimitSet := List Word

/-- The four items the evaluator keeps for a rule (R116). -/
structure RuleState where
  instLatch : Bool
  certLatch : Bool
  lastInst : Level
  lastPeriod : Level
  deriving DecidableEq, Repr

/-! ## Shelves and trace unit -/

/-- The event shelf (07 section 7.7). A slot is FILLED exactly when the list holds it (R90). -/
structure EventShelf where
  list : List (Fin 32)
  withheld : Nat
  number : DWord
  deriving DecidableEq, Repr

/-- The record shelf (R134). A slot is FILLED exactly when the list holds it (R90). -/
structure RecordShelf where
  list : List (Fin 48)
  number : DWord
  lost : Vector Nat 12
  deriving DecidableEq, Repr

/-- Event and trigger kinds, encoded PERIOD 1 to REQUEST 4 (R180); REQUEST is for triggers only. -/
inductive TriggerKind where
  | period
  | instant
  | certain
  | request
  deriving DecidableEq, Repr

/-- Trigger sources of the trace settings (R149, R153). -/
inductive TraceSource where
  | events
  | request
  | both
  deriving DecidableEq, Repr

/-- The trace settings (R149); `repeating` is mode REPEAT, `sweep` is scope SWEEP. -/
structure TraceSettings where
  repeating : Bool
  sweep : Bool
  source : TraceSource
  pre : Nat
  post : Nat
  retrigger : Bool
  deriving DecidableEq, Repr

/-- One head of a capture's scope list with its samples and departed mark (R154, R156). -/
structure ScopeHead where
  head : Nat
  pre : List Level
  post : List Level
  departed : Bool
  deriving DecidableEq, Repr

/-- A capture in progress (R154). -/
structure Capture where
  slot : Fin 2
  kind : TriggerKind
  rule : Word
  receptor : Nat
  day : Word
  second : Nat
  tick : Nat
  preCount : Nat
  scope : List ScopeHead
  postCounter : Nat
  captured : Nat
  retriggers : Nat
  padded : Bool
  headLeft : Bool
  deriving DecidableEq, Repr

/-- The trace state (R149): a capture is present only while CAPTURING. -/
inductive TraceMode where
  | disarmed
  | armed
  | capturing (capture : Capture)
  deriving DecidableEq, Repr

/-- The trace unit (R149). A slot is FILLED when listed, FILLING when it is the capture's, else FREE. -/
structure TraceUnit where
  mode : TraceMode
  settings : TraceSettings
  list : List (Fin 2)
  missed : Nat
  number : DWord
  deriving DecidableEq, Repr

/-! ## Request engine, port and notices -/

/-- The states of a request slot (R163). -/
inductive SlotState where
  | free
  | posted
  | active
  | answered
  deriving DecidableEq, Repr

/-- A request slot's state and post mark (R87, R163); its words are in the store. -/
structure RequestSlot where
  state : SlotState
  postMark : Word
  deriving DecidableEq, Repr

/-- The request engine (10 section 10.2). -/
structure RequestEngine where
  slots : Vector RequestSlot 8
  queue : List (Fin 8)
  inService : Option (Fin 8)
  deriving DecidableEq, Repr

/-- The step modes of WCTL (R80). -/
inductive StepMode where
  | stay
  | upAfter
  | upBefore
  | downAfter
  deriving DecidableEq, Repr

/-- What the port drives on a read: nothing yet, a word on D15..D0, or a byte on D7..D0 with D15..D8 undriven (R78). -/
inductive PortData where
  | none
  | word (value : Word)
  | byte (value : Byte)
  deriving DecidableEq, Repr

/-- What a word read hands back when it releases (R88, R89). -/
inductive Release where
  | answer (slot : Fin 8)
  | event (slot : Fin 32)
  | trace (slot : Fin 2)
  | record (slot : Fin 48)
  deriving DecidableEq, Repr

/-- The write hold of the 8-bit port (R82). -/
structure WriteHold where
  addr : Nat
  low : Byte
  deriving DecidableEq, Repr

/-- The read latch of the 8-bit port (R83); `release` is what the slot's state allowed when the value was taken. -/
structure ReadLatch where
  addr : Nat
  value : Word
  release : Option Release
  deriving DecidableEq, Repr

/-- The window port (05). `wide` is BW as sampled (R78); `readOut` is the data of the last WDAT read (log entry 6). -/
structure Port where
  wide : Bool
  wadr : Word
  step : StepMode
  peek : Bool
  writeHold : Option WriteHold
  readLatch : Option ReadLatch
  dropped : Nat
  lastDropped : Word
  mispost : Nat
  readOut : PortData
  deriving DecidableEq, Repr

/-- The notice unit (05 section 5.6): bit c of `pending` is class c's flag, bit c of `mask` its mask bit. -/
structure Notices where
  pending : BitVec 7
  mask : BitVec 7
  deriving DecidableEq, Repr

/-- The common store as a list of address and byte pairs in one canonical form: addresses rising and below 64 KiB, no byte 0.
An address not listed reads 0, which is what the clearing of R96 and R98 leaves. -/
abbrev Mem := List Host.Cell

/-- The whole part. -/
structure State where
  /-- Waiting commands, first in, first out (host interface). -/
  pending : List Instr
  /-- RESET# is held low (R98). -/
  resetLow : Bool
  run : RunState
  /-- Stamp of the last second closed, 0 when none since a reset (R60, R115). -/
  lastClosed : Stamp
  /-- MODEL's own: see `TickStage`. -/
  stage : TickStage
  clock : Clock
  period : Period
  clockSetting : Option ClockSetting
  link : Link
  heads : Vector Head 12
  channels : Vector Channel 12
  calibrations : Vector Calibration 12
  /-- The live limit set (R105); the mirror at 0x0400 is a view of it. -/
  live : LimitSet
  /-- The pending adoption's request slot (R104). -/
  adoption : Option (Fin 8)
  rules : Vector RuleState 24
  events : EventShelf
  records : RecordShelf
  trace : TraceUnit
  requests : RequestEngine
  store : Mem
  port : Port
  notices : Notices
  deriving DecidableEq, Repr

/-! ## Reset values -/

/-- R52: day, second, weekday and tick are 0 after a pin reset. -/
def Clock.zero : Clock := { day := 0, second := 0, weekday := 0, tick := 0 }

/-- R52: period state NONE and fields 0 after a pin reset or RESTART. -/
def Period.none : Period :=
  { isOpen := false, startDay := 0, startSecond := 0, startTick := 0, plannedEnd := 0, plannedLength := 0, short := false }

/-- R39: the link after a pin reset or RESTART. -/
def Link.reset : Link :=
  { receiver := .quiet, buffers := Vector.replicate 12 none, nextMark := 0, tickOpen := none, badNote := false }

/-- R39: a head table entry after a reset; RESTART keeps the trim. -/
def Head.reset (trim : Int) : Head :=
  { state := .off, join := 0, miss := 0, returning := false, good := 0, framing := 0, short := 0, check := 0, stale := 0,
    duplicate := 0, last := .none, errorSeen := false, trim := trim }

/-- R67: second accumulators cleared. -/
def SecondAcc.cleared : SecondAcc := { sum := 0, present := 0, lafMax := none, lcPeak := none, overMark := false }

/-- R67: period accumulators cleared. -/
def PeriodAcc.cleared : PeriodAcc :=
  { sum := 0, ticksOpen := 0, present := 0, gap := 0, calibration := 0, overCount := 0, underCount := 0, windyCount := 0, lafMax := none,
    maxOffset := 0, lafMin := none, lcPeak := none, histogram := Vector.replicate 160 0, overloadSeen := false,
    calSeen := false }

/-- R75: a channel after a pin reset or RESTART. -/
def Channel.reset : Channel :=
  { isOpen := false, isPartial := false, cutBefore := false, cutNote := false, fast := 0, slow := 0, lastFast := none,
    lastSlow := none, history := [], sequence := 0, sec := SecondAcc.cleared, acc := PeriodAcc.cleared }

/-- R69: no calibration in progress, count 0 and sum 0. The spec gives the expected level and the request slot no reset
value: DESIGN CHOICE 0, unsafe (log entry 19). -/
def Calibration.reset : Calibration := { inProgress := false, count := 0, sum := 0, expected := 0, slot := 0 }

/-- R109: the all-zero limit set. -/
def LimitSet.empty : LimitSet := List.replicate 256 0

/-- R116: a rule's items after a reset or an adoption. -/
def RuleState.clear : RuleState := { instLatch := false, certLatch := false, lastInst := none, lastPeriod := none }

/-- R133: the event shelf after a reset. -/
def EventShelf.reset : EventShelf := { list := [], withheld := 0, number := 0 }

/-- R134: the record shelf after a reset. -/
def RecordShelf.reset : RecordShelf := { list := [], number := 0, lost := Vector.replicate 12 0 }

/-- R149: the trace settings after a reset. -/
def TraceSettings.reset : TraceSettings :=
  { repeating := false, sweep := false, source := .both, pre := 0, post := 1, retrigger := false }

/-- R149: the trace unit after a reset. -/
def TraceUnit.reset : TraceUnit :=
  { mode := .disarmed, settings := TraceSettings.reset, list := [], missed := 0, number := 0 }

/-- R169: the request engine after a reset. -/
def RequestEngine.reset : RequestEngine :=
  { slots := Vector.replicate 8 { state := .free, postMark := 0 }, queue := [], inService := none }

/-- R96: the port after a reset, for a port of the given width. `readOut` has no reset value in the spec: DESIGN CHOICE
nothing driven, unsafe (log entry 6). -/
def Port.reset (wide : Bool) : Port :=
  { wide := wide, wadr := 0, step := .stay, peek := false, writeHold := none, readLatch := none, dropped := 0,
    lastDropped := 0, mispost := 0, readOut := .none }

/-- The machine right after a pin reset: RESET# has gone high, the part is STARTING with the store cleared (R98).
BW was sampled high, a 16-bit port: DESIGN CHOICE, the strap is the board's, unsafe (log entry 5). -/
def State.reset : State :=
  { pending := []
    resetLow := false
    run := .starting
    lastClosed := { day := 0, second := 0 }
    stage := .idle
    clock := Clock.zero
    period := Period.none
    clockSetting := none
    link := Link.reset
    heads := Vector.replicate 12 (Head.reset 0)
    channels := Vector.replicate 12 Channel.reset
    calibrations := Vector.replicate 12 Calibration.reset
    live := LimitSet.empty
    adoption := none
    rules := Vector.replicate 24 RuleState.clear
    events := EventShelf.reset
    records := RecordShelf.reset
    trace := TraceUnit.reset
    requests := RequestEngine.reset
    store := []
    port := Port.reset true
    notices := { pending := 0, mask := 0x7F } }

end Sys2Proof.Machine
end

