-- ==== Sys2Proof/Machine/Memory.lean ====
section
/-! DEFINITION. The common store as a memory of bytes: reading and writing a byte, a word and a run of words
(00_scope.md, Store words; R77). -/

namespace Sys2Proof.Machine

open Sys2Proof

/-- The byte at address `a`; an address not listed reads 0 (R96, R98: the store is cleared to zero). -/
def Mem.read : Mem → Nat → Byte
  | [], _ => 0
  | (k, v) :: rest, a => if k = a then v else Mem.read rest a

/-- Put a cell at its place in the rising order of addresses. -/
def Mem.insertCell (c : Host.Cell) : Mem → Mem
  | [] => [c]
  | (k, v) :: rest => if c.1 < k then c :: (k, v) :: rest else (k, v) :: Mem.insertCell c rest

/-- The memory without address `a`. -/
def Mem.erase (m : Mem) (a : Nat) : Mem := m.filter (fun c => c.1 ≠ a)

/-- Write one byte, keeping the canonical form: a byte 0 is not listed. The store ends at 64 KiB (00_scope.md). -/
def Mem.write (m : Mem) (a : Nat) (v : Byte) : Mem :=
  if a < Config.storeBytes then
    if v = 0 then Mem.erase m a else Mem.insertCell (a, v) (Mem.erase m a)
  else m

/-- The word at byte address `a`: low byte at `a`, high byte at `a + 1` (00_scope.md, Store words). -/
def Mem.readWord (m : Mem) (a : Nat) : Word := m.read (a + 1) ++ m.read a

/-- Write a word little-endian. -/
def Mem.writeWord (m : Mem) (a : Nat) (w : Word) : Mem :=
  (m.write a (w.setWidth 8)).write (a + 1) ((w >>> 8).setWidth 8)

/-- Write words in ascending address order from byte address `a` (R77). -/
def Mem.writeWords (m : Mem) (a : Nat) : List Word → Mem
  | [] => m
  | w :: ws => Mem.writeWords (m.writeWord a w) (a + 2) ws

/-- The memory with every address that `keep` rejects cleared to 0. -/
def Mem.restrict (m : Mem) (keep : Nat → Bool) : Mem := m.filter (fun c => keep c.1)

/-- The canonical form: addresses strictly rising and below 64 KiB, no byte equal to what an unlisted address reads. -/
def Mem.wf (m : Mem) : Bool :=
  decide (m.Pairwise (fun c d => c.1 < d.1)) && m.all (fun c => decide (c.1 < Config.storeBytes) && decide (c.2 ≠ 0))

end Sys2Proof.Machine
end

