-- ==== Sys2Proof/Machine/Operands.lean ====
section
/-! DEFINITION. How values cross the boundary of the part: the encodings of 11_formats.md (R180), the numbers of the code
tables, and the byte lanes of the port registers (R78, R181). -/

namespace Sys2Proof.Machine

open Sys2Proof

/-! ## Field encodings (R180) -/

/-- An unsigned quantity as a store word. -/
def word (n : Nat) : Word := BitVec.ofNat 16 n

/-- A 32-bit quantity as two words, low word first. -/
def words32 (n : Nat) : List Word := [BitVec.ofNat 16 n, BitVec.ofNat 16 (n / 65536)]

/-- A wrapping 32-bit number as two words, low word first. -/
def wordsD (d : DWord) : List Word := [d.setWidth 16, (d >>> 16).setWidth 16]

/-- A level code, or 0xFFFF for absent (R1). -/
def levelWord : Level → Word
  | none => 0xFFFF
  | some n => BitVec.ofNat 16 n

/-- A signed quantity in 16-bit two's complement. -/
def intWord (i : Int) : Word := BitVec.ofInt 16 i

/-- A flag as the word 0 or 1. -/
def flagWord (b : Bool) : Word := if b then 1 else 0

/-- A byte pair word: the first field in the low byte, the second in the high byte. -/
def bytePair (lo hi : Nat) : Word := BitVec.ofNat 16 (lo % 256 + 256 * (hi % 256))

/-- The low byte of a word as a number. -/
def lowByte (w : Word) : Nat := w.toNat % 256

/-- The high byte of a word as a number. -/
def highByte (w : Word) : Nat := w.toNat / 256

/-- A head number, if the word names one (0..11). -/
def headOf (n : Nat) : Option (Fin 12) := if h : n < 12 then some ⟨n, h⟩ else none

/-! ## Code tables (R180) -/

def RunState.code : RunState → Nat
  | .starting => 0
  | .stopped => 1
  | .measuring => 2
  | .parked => 3

def HeadState.code : HeadState → Nat
  | .off => 0
  | .joining => 1
  | .active => 2
  | .lost => 3

def FrameKind.code : FrameKind → Nat
  | .none => 0
  | .good => 1
  | .framing => 2
  | .short => 3
  | .check => 4
  | .stale => 5
  | .duplicate => 6

def EndKind.code : EndKind → Nat
  | .none => 0
  | .aligned => 1
  | .cut => 2

def TriggerKind.code : TriggerKind → Nat
  | .period => 1
  | .instant => 2
  | .certain => 3
  | .request => 4

def TraceMode.code : TraceMode → Nat
  | .disarmed => 0
  | .armed => 1
  | .capturing _ => 2

def TraceSource.code : TraceSource → Nat
  | .events => 1
  | .request => 2
  | .both => 3

def StepMode.code : StepMode → Nat
  | .stay => 0
  | .upAfter => 1
  | .upBefore => 2
  | .downAfter => 3

/-- The step mode that bits 1..0 of WCTL name. -/
def StepMode.ofCode (n : Nat) : StepMode :=
  match n with
  | 0 => .stay
  | 1 => .upAfter
  | 2 => .upBefore
  | _ => .downAfter

/-- The ten answer codes of R168. -/
inductive AnswerCode where
  | done
  | wrongState
  | busy
  | invalid
  | shelfFull
  | notReady
  | outOfRange
  | aborted
  | cancelled
  | unknownKind
  deriving DecidableEq, Repr

def AnswerCode.code : AnswerCode → Nat
  | .done => 1
  | .wrongState => 2
  | .busy => 3
  | .invalid => 4
  | .shelfFull => 5
  | .notReady => 6
  | .outOfRange => 7
  | .aborted => 8
  | .cancelled => 9
  | .unknownKind => 10

/-- The abort reasons of R73. -/
inductive AbortReason where
  | overload
  | headLost
  | stopped
  deriving DecidableEq, Repr

def AbortReason.code : AbortReason → Nat
  | .overload => 1
  | .headLost => 2
  | .stopped => 3

/-- What became of a trigger (R153). -/
inductive TriggerOutcome where
  | started (slot : Fin 2)
  | retriggered
  | missed
  | ignored
  deriving DecidableEq, Repr

def TriggerOutcome.code : TriggerOutcome → Nat
  | .started _ => 1
  | .retriggered => 2
  | .missed => 3
  | .ignored => 4

/-- The fourteen request kinds (10 section 10.6). -/
inductive RequestKind where
  | start
  | stop
  | park
  | unpark
  | setClock
  | adoptLimits
  | calibrate
  | loadTrim
  | snapshot
  | dumpHistogram
  | armTrace
  | disarmTrace
  | traceNow
  | zeroHeadCounters
  deriving DecidableEq, Repr

def RequestKind.code : RequestKind → Nat
  | .start => 1
  | .stop => 2
  | .park => 3
  | .unpark => 4
  | .setClock => 5
  | .adoptLimits => 6
  | .calibrate => 7
  | .loadTrim => 8
  | .snapshot => 9
  | .dumpHistogram => 10
  | .armTrace => 11
  | .disarmTrace => 12
  | .traceNow => 13
  | .zeroHeadCounters => 14

/-- The kind field names one of the fourteen kinds. -/
def isRequestKind (w : Word) : Bool := decide (1 ≤ w.toNat) && decide (w.toNat ≤ 14)

/-- The metrics of a rule (R101), LAEQ 1 to LCPEAK 5. -/
inductive Metric where
  | laeq
  | la10
  | la90
  | lafmax
  | lcpeak
  deriving DecidableEq, Repr

def Metric.code : Metric → Nat
  | .laeq => 1
  | .la10 => 2
  | .la90 => 3
  | .lafmax => 4
  | .lcpeak => 5

def Metric.ofCode (n : Nat) : Option Metric :=
  match n with
  | 1 => some .laeq
  | 2 => some .la10
  | 3 => some .la90
  | 4 => some .lafmax
  | 5 => some .lcpeak
  | _ => none

/-! ## Byte lanes of the port registers (R78, R181) -/

/-- The register value after a host write: the whole word in 16-bit mode, else the byte that A0 selects takes D7..D0
and the other byte keeps its value. -/
def mergeLanes (wide a0 : Bool) (data old : Word) : Word :=
  if wide then data
  else if a0 then (old &&& 0x00FF) ||| (data <<< 8)
  else (old &&& 0xFF00) ||| (data &&& 0x00FF)

/-- The write reaches bits 7..0 of the register. -/
def writesLow (wide a0 : Bool) : Bool := wide || !a0

/-- What a register read drives: the whole word, or the byte that A0 selects. -/
def laneData (wide a0 : Bool) (value : Word) : PortData :=
  if wide then .word value
  else if a0 then .byte ((value >>> 8).setWidth 8)
  else .byte (value.setWidth 8)

end Sys2Proof.Machine
end

