-- ==== Sys2Proof/Machine/Ops.lean ====
section
/-! DEFINITION. The named operations over the state that every block uses: reading and writing entries of the per-head and
per-slot tables, the common store, the notice classes, saturating counters, and answering a request. -/

namespace Sys2Proof.Machine

open Sys2Proof

/-! ## Tables -/

/-- The twelve heads in ascending order. -/
def allHeads : List (Fin 12) := [0, 1, 2, 3, 4, 5, 6, 7, 8, 9, 10, 11]

def State.head (s : State) (h : Fin 12) : Head := s.heads[h]

def State.channel (s : State) (h : Fin 12) : Channel := s.channels[h]

def State.calRecord (s : State) (h : Fin 12) : Calibration := s.calibrations[h]

/-- The calibration in progress for a head, if there is one (R69). -/
def State.calibration (s : State) (h : Fin 12) : Option Calibration :=
  if (s.calRecord h).inProgress then some (s.calRecord h) else none

def State.buffer (s : State) (h : Fin 12) : Option Frame := s.link.buffers[h]

def State.slot (s : State) (n : Fin 8) : RequestSlot := s.requests.slots[n]

def State.rule (s : State) (n : Fin 24) : RuleState := s.rules[n]

def State.setHead (s : State) (h : Fin 12) (x : Head) : State := { s with heads := s.heads.set h.val x h.isLt }

def State.setChannel (s : State) (h : Fin 12) (x : Channel) : State := { s with channels := s.channels.set h.val x h.isLt }

def State.setCalibration (s : State) (h : Fin 12) (x : Calibration) : State :=
  { s with calibrations := s.calibrations.set h.val x h.isLt }

/-- A head's calibration is no longer in progress (R72, R73); its count and sum stand until the next one starts (R12). -/
def State.endCalibration (s : State) (h : Fin 12) : State := s.setCalibration h { s.calRecord h with inProgress := false }

def State.setBuffer (s : State) (h : Fin 12) (x : Option Frame) : State :=
  { s with link := { s.link with buffers := s.link.buffers.set h.val x h.isLt } }

def State.setRule (s : State) (n : Fin 24) (x : RuleState) : State := { s with rules := s.rules.set n.val x n.isLt }

def State.setSlot (s : State) (n : Fin 8) (x : RequestSlot) : State :=
  { s with requests := { s.requests with slots := s.requests.slots.set n.val x n.isLt } }

/-! ## Counters -/

/-- A saturating 16-bit counter raised by one (00_scope.md, Numbers and notation). -/
def saturate (n : Nat) : Nat := min (n + 1) 65535

/-! ## Common store -/

/-- The word the store holds at byte address `a`. -/
def State.peekWord (s : State) (a : Nat) : Word := s.store.readWord a

/-- A part or host write of words in ascending address order (R77). -/
def State.pokeWords (s : State) (a : Nat) (ws : List Word) : State := { s with store := s.store.writeWords a ws }

/-! ## Notices (05 section 5.6) -/

/-- The seven classes of R92. -/
inductive NoticeClass where
  | head
  | event
  | record
  | trace
  | answer
  | link
  | port
  deriving DecidableEq, Repr

/-- Class numbers of R92; 0 has the highest priority. -/
def NoticeClass.number : NoticeClass → Nat
  | .head => 0
  | .event => 1
  | .record => 2
  | .trace => 3
  | .answer => 4
  | .link => 5
  | .port => 6

/-- The bit of a class in NTC and in the mask. -/
def NoticeClass.bit (c : NoticeClass) : BitVec 7 := 1#7 <<< c.number

/-- A class's pending flag. -/
def State.isPending (s : State) (c : NoticeClass) : Bool := s.notices.pending.getLsbD c.number

/-- Raise a class: set its pending flag (R92). -/
def State.raise (s : State) (c : NoticeClass) : State :=
  { s with notices := { s.notices with pending := s.notices.pending ||| c.bit } }

/-- Clear a class: the automatic clearing of R93. -/
def State.unraise (s : State) (c : NoticeClass) : State :=
  { s with notices := { s.notices with pending := s.notices.pending &&& ~~~c.bit } }

/-- The top class of R94: the lowest-numbered class that is pending and not masked, or 7. -/
def Notices.top (n : Notices) : Nat :=
  ((List.range 7).find? (fun c => n.pending.getLsbD c && !n.mask.getLsbD c)).getD 7

/-- NOTICE# is driven low (R94); it is high while RESET# is low (R98). -/
def State.noticeLow (s : State) : Bool := !s.resetLow && decide (s.notices.top ≠ 7)

/-- WAIT# is driven low: never between commands, each of which runs to its end (R77, R97, R98; log entry 14). -/
def State.waitLow (_s : State) : Bool := false

/-! ## Request slots -/

/-- The byte address of word w of request slot n (10 section 10.1). -/
def requestAddr (n : Fin 8) (w : Nat) : Nat := Config.requestBase + 64 * n.val + 2 * w

/-- Word w of request slot n. -/
def State.requestWord (s : State) (n : Fin 8) (w : Nat) : Word := s.peekWord (requestAddr n w)

/-- A parameter word of request slot n as a number (R182). -/
def State.param (s : State) (n : Fin 8) (w : Nat) : Nat := (s.requestWord n w).toNat

/-- Reply words 17 to 29: those a kind defines, then 0 (R167). -/
def replyArea (reply : List Word) : List Word := (reply ++ List.replicate 13 0).take 13

/-- The words an answer leaves in words 16 to 31 of its slot: mark echo, reply words, detail, answer code (R167, R182). -/
def answerWords (mark : Word) (code : AnswerCode) (detail : Nat) (reply : List Word) : List Word :=
  mark :: replyArea reply ++ [word detail, word code.code]

/-- Answer request slot n (R167): its words are written, the slot becomes ANSWERED and ANSWER is raised. -/
def State.answer (s : State) (n : Fin 8) (code : AnswerCode) (detail : Nat) (reply : List Word) : State :=
  ((s.pokeWords (requestAddr n 16) (answerWords (s.slot n).postMark code detail reply)).setSlot n
    { s.slot n with state := .answered }).raise .answer

/-- The reply words of an answer that reports the run state before and the clock (STOP, PARK, UNPARK; R182). -/
def runReply (before : RunState) (c : Clock) : List Word := [word before.code, c.day] ++ words32 c.second

/-! ## Free slots -/

/-- The lowest-numbered FREE slot of a shelf whose FILLED slots are listed (R130, R138). -/
def lowestFree {n : Nat} (filled : List (Fin n)) : Option (Fin n) := (List.finRange n).find? (fun i => !filled.contains i)

/-- The clock steps only in these states: the tick timer runs (R40), and RESET# is high (R98). -/
def State.timerRuns (s : State) : Bool := !s.resetLow && decide (s.run ≠ .starting)

end Sys2Proof.Machine
end

