-- ==== Sys2Proof/Machine/Link.lean ====
section
/-! DEFINITION. The link controller's side of a frame (02_perimeter_link_and_microphone_heads.md): characters and their form
on the pair, the check character, classification and its effects (R18 to R26, R183), and the command FRAME's reception. -/

namespace Sys2Proof.Machine

open Sys2Proof

/-! ## Characters and their form on the pair (R18, R183) -/

/-- One character as the link controller takes it: its eight value bits, its wake bit, and whether its stop bit was high. -/
structure LinkChar where
  value : Byte
  wake : Bool
  stopOk : Bool
  deriving DecidableEq, Repr

/-- A character's eleven bit times on the pair (R183): a low start bit in bit 0, data bits 0 to 7, the wake bit as the ninth
data bit, and the stop bit, which the part and a head send high. -/
def LinkChar.onPair (c : LinkChar) : PairChar := BitVec.ofBool c.stopOk ++ (BitVec.ofBool c.wake ++ (c.value ++ 0#1))

/-- The character that the levels of eleven bit times spell; without a low start bit none has begun (R18, R183). -/
def sampleChar (p : PairChar) : Option LinkChar :=
  if p.getLsbD 0 then none
  else some { value := p.extractLsb' 1 8, wake := p.getLsbD 9, stopOk := p.getLsbD 10 }

/-- The two characters of a tick mark (R19, 11 section 11.10). -/
def tickMark (n : Byte) : List LinkChar :=
  [{ value := 0xF0, wake := true, stopOk := true }, { value := n, wake := false, stopOk := true }]

/-- A tick mark on the pair: its two characters back to back, with no idle bit time between them (R183). -/
def markOnPair (n : Byte) : List PairChar := (tickMark n).map LinkChar.onPair

/-- What the part has driven on the pair for the tick now open: the mark that opened it (R19, R183). -/
def State.markSent (s : State) : List PairChar :=
  match s.link.tickOpen with
  | none => []
  | some n => markOnPair n

/-- LDIR: low between commands; it is high only while a mark is being sent, inside a tick event (R18; log entry 15). -/
def State.ldir (_s : State) : Bool := false

/-- One shift of the check register (R21). -/
def crcShift (c : Byte) : Byte := if c.getLsbD 7 then (c <<< 1) ^^^ 0x07 else c <<< 1

/-- One covered character combined into the check register (R21). -/
def crcStep (c b : Byte) : Byte :=
  crcShift (crcShift (crcShift (crcShift (crcShift (crcShift (crcShift (crcShift (c ^^^ b))))))))

/-- The CRC-8 of R21 over characters, register initially 0. -/
def crc (bs : List Byte) : Byte := bs.foldl crcStep 0

/-- The expected check value of a complete frame: over data characters 2 to 14 (R21). -/
def frameCheck (chars : List Byte) : Byte := crc ((chars.drop 1).take 13)

/-- An energy from six characters, least significant first (R20, R183). -/
def energyOf : List Byte → Nat
  | [] => 0
  | b :: bs => b.toNat + 256 * energyOf bs

/-- The fields of a GOOD frame (R20, R183); status bits 7..4 are ignored. -/
def frameOf (chars : List Byte) : Frame :=
  let status := chars.getD 1 0
  { aEnergy := energyOf ((chars.drop 2).take 6)
    cPeak := energyOf ((chars.drop 8).take 6)
    overFlag := status.getLsbD 0
    underFlag := status.getLsbD 1
    windyFlag := status.getLsbD 2
    faultFlag := status.getLsbD 3 }

/-- The classification of a frame that ends (R24): the first test that applies. -/
def classify (mark : Option Byte) (bufferFull lacksStop : Bool) (chars : List Byte) : FrameKind :=
  if lacksStop then .framing
  else if chars.length < 15 then .short
  else if chars.getD 14 0 ≠ frameCheck chars then .check
  else if some (chars.getD 0 0) ≠ mark then .stale
  else if bufferFull then .duplicate
  else .good

/-- A head entry after a classified frame (R25, R26). -/
def Head.countFrame (x : Head) : FrameKind → Head
  | .none => x
  | .good => { x with good := saturate x.good, last := .good }
  | .framing => { x with framing := saturate x.framing, last := .framing, errorSeen := true }
  | .short => { x with short := saturate x.short, last := .short, errorSeen := true }
  | .check => { x with check := saturate x.check, last := .check, errorSeen := true }
  | .stale => { x with stale := saturate x.stale, last := .stale, errorSeen := true }
  | .duplicate => { x with duplicate := saturate x.duplicate, last := .duplicate, errorSeen := true }

/-- A frame of head h ends and is classified; the receiver becomes QUIET (R24 to R26). -/
def State.endFrame (s : State) (h : Fin 12) (chars : List Byte) (lacksStop : Bool) : State :=
  let kind := classify s.link.tickOpen (s.buffer h).isSome lacksStop chars
  let t := s.setHead h ((s.head h).countFrame kind)
  let t := { t with link := { t.link with receiver := .quiet } }
  if kind = .good then t.setBuffer h (some (frameOf chars))
  else { t with link := { t.link with badNote := true } }

/-- An open collection ends incomplete (R22, R27). -/
def State.endCollection (s : State) : State :=
  match s.link.receiver with
  | .quiet => s
  | .collecting h chars lacksStop => s.endFrame h chars lacksStop

/-- The receiver after a wake character in QUIET (R22). -/
def State.wakeReceiver (s : State) (c : LinkChar) : Receiver :=
  match headOf c.value.toNat with
  | none => .quiet
  | some h => if (s.head h).state = .off then .quiet else .collecting h [] (!c.stopOk)

/-- One character on the link (R22, R23). -/
def State.receive (s : State) (c : LinkChar) : State :=
  if c.wake then
    let t := s.endCollection
    { t with link := { t.link with receiver := t.wakeReceiver c } }
  else
    match s.link.receiver with
    | .quiet => s
    | .collecting h chars lacksStop =>
      let chars := chars ++ [c.value]
      let lacksStop := lacksStop || !c.stopOk
      if 15 ≤ chars.length then s.endFrame h chars lacksStop
      else { s with link := { s.link with receiver := .collecting h chars lacksStop } }

/-- The receiver takes characters while MEASURING, between a mark and the close of the tick it opened (R18). -/
def State.receiverOn (s : State) : Bool := !s.resetLow && decide (s.run = .measuring) && s.link.tickOpen.isSome

/-- What arrives on the pair, character by character (R18, R22, R23, R183). -/
def State.receiveAll (s : State) (chars : List PairChar) : State :=
  if s.receiverOn then (chars.filterMap sampleChar).foldl State.receive s else s

/-- The open tick is abandoned (R28): no classification, no delivery; a set bad-frame note raises LINK (R36). A tick event that
stands before its mark is over, its mark unsent (R178). -/
def State.abandonTick (s : State) : State :=
  let t := if s.link.badNote then s.raise .link else s
  { t with
    stage := .idle
    link := { t.link with receiver := .quiet, buffers := Vector.replicate 12 none, tickOpen := none, badNote := false } }

end Sys2Proof.Machine
end

