-- ==== Sys2Proof/Machine/Flags.lean ====
section
/-! DEFINITION. Every flag the spec computes: comparison flags and conditions (R117, R118), the flag words of pages, records,
events and traces (11_formats.md). -/

namespace Sys2Proof.Machine

open Sys2Proof

/-- A flag word: bit i is the i-th flag, the other bits 0 (R180). -/
def flagBits : List Bool → Nat
  | [] => 0
  | b :: bs => (if b then 1 else 0) + 2 * flagBits bs

/-- The four comparison flags of R117. -/
structure CompareFlags where
  isOver : Bool
  isMeet : Bool
  isNear : Bool
  isRise : Bool
  deriving DecidableEq, Repr

/-- The comparison flags of a present value v against limit L, margin g and the last value of the evaluation's kind (R117). -/
def compareFlags (v limit margin : Nat) (last : Level) : CompareFlags :=
  { isOver := decide (limit < v)
    isMeet := decide (v = limit)
    isNear := decide ((limit : Int) - (margin : Int) ≤ (v : Int))
    isRise := match last with
      | none => false
      | some l => decide (l < v) }

/-- Whether a condition code holds on the comparison flags of a present value (R118). -/
def conditionHolds (code : Nat) (f : CompareFlags) : Bool :=
  match code with
  | 0 => false
  | 1 => f.isOver
  | 2 => f.isOver || f.isMeet
  | 3 => f.isNear
  | 4 => f.isNear && !f.isOver && !f.isMeet
  | 5 => f.isOver && f.isRise
  | 6 => f.isNear && f.isRise
  | 7 => true
  | _ => false

/-- Event record word 5: bit 0 OVER, 1 MEET, 2 NEAR, 3 RISE (11 section 11.7). -/
def eventFlagWord (f : CompareFlags) : Word := word (flagBits [f.isOver, f.isMeet, f.isNear, f.isRise])

/-- Head live page word 10: bit 0 STALE, 1 CAL, 2 OVER (11 section 11.5). -/
def pageFlagWord (stale cal overMark : Bool) : Word := word (flagBits [stale, cal, overMark])

/-- Receptor live page word 4: bit 0 IN_USE, 1 STALE, 2 MISSING (11 section 11.5). -/
def receptorFlagWord (inUse stale missing : Bool) : Word := word (flagBits [inUse, stale, missing])

/-- PERIOD record word 7 (R64; 11 section 11.8). -/
def periodFlagWord (isPartial cut short lowCover overloadSeen calSeen : Bool) : Word :=
  word (flagBits [isPartial, cut, short, lowCover, overloadSeen, calSeen])

/-- Trace header flags: bit 0 PADDED, 1 TRUNCATED, 2 HEAD_LEFT (11 section 11.9). -/
def traceFlagWord (padded truncated headLeft : Bool) : Word := word (flagBits [padded, truncated, headLeft])

/-- LOW_COVER of R64: present * 100 < minimum coverage * 32 * actual length. -/
def lowCover (present minCoverage actual : Nat) : Bool := decide (present * 100 < minCoverage * 32 * actual)

end Sys2Proof.Machine
end

