-- ==== Sys2Proof/Machine/Levels.lean ====
section
/-! DEFINITION. Level arithmetic (01_level_arithmetic.md): energy to level, trim and corrections, the time weightings,
means, histogram, percentiles, floor-Leq and the display word. -/

namespace Sys2Proof.Machine

open Sys2Proof

/-- clamp(x, a, b) of 00_scope.md for a level range 0..top, as a level code. -/
def clampLevel (x : Int) (top : Nat) : Nat := min x.toNat top

/-- Entry f of the log table G (R4). -/
def logEntry (f : Nat) : Nat := Config.logTable.getD f 0

/-- The exponent k of R3: the position of the highest set bit. -/
def exponent (e : Nat) : Nat := Nat.log2 e

/-- The mantissa fraction f of R3. -/
def mantissa (e : Nat) : Nat :=
  if 8 ≤ exponent e then e / 2 ^ (exponent e - 8) - 256 else e * 2 ^ (8 - exponent e) - 256

/-- The raw level lvl(E) of R5. -/
def rawLevel (e : Nat) : Nat :=
  if e = 0 then 0 else ((256 * exponent e + logEntry (mantissa e)) * 30103 + 12800) / 25600

/-- The head level hl(E) of R6 under trim t. -/
def headLevel (e : Nat) (t : Int) : Nat := clampLevel ((rawLevel e : Int) + t) 15000

/-- The corrected value of a member (R7): absent stays absent. -/
def corrected (v : Nat) (o : Int) : Nat := clampLevel ((v : Int) + o) 15000

/-- The Fast and Slow weights of R8. -/
def fastWeight : Nat := 57
def slowWeight : Nat := 8

/-- One weighting step of a running energy R toward E (R8): R + floor((E - R) * w / 256), floor toward minus infinity. -/
def weightStep (w r e : Nat) : Nat := ((r : Int) + (((e : Int) - (r : Int)) * (w : Int)) / 256).toNat

/-- The level of a mean (R13): absent when the count is 0. -/
def meanLevel (sum n : Nat) (t : Int) : Level := if n = 0 then none else some (headLevel (sum / n) t)

/-- The histogram bin of a Fast level (R14): clamp(floor((F - 2500) / 50), 0, 159). -/
def histogramBin (f : Nat) : Nat := min (((f : Int) - 2500) / 50).toNat 159

/-- The scan of R15 over (bin, count) pairs given from the highest bin down: the first bin at which the running count
reaches the threshold. -/
def scanDown (n total : Nat) : List (Nat × Nat) → Nat → Option Nat
  | [], _ => none
  | (b, k) :: rest, c => if n * total ≤ (c + k) * 100 then some b else scanDown n total rest (c + k)

/-- The bins of a histogram with their counts, bin 159 first. -/
def binsDown (h : Vector Nat 160) : List (Nat × Nat) := (List.zip (List.range 160) h.toList).reverse

/-- The percentile level LAN of R15: the lower edge of the bin where the scan stops; absent with no present tick. -/
def percentile (n : Nat) (h : Vector Nat 160) (present : Nat) : Level :=
  if present = 0 then none else (scanDown n present (binsDown h) 0).map (fun b => 2500 + 50 * b)

/-- The floor-Leq of R16. -/
def floorLeq (sum planned : Nat) (t : Int) : Nat := headLevel (sum / planned) t

/-- The display word of R17: tenths of a decibel, half up, in four BCD digits; 0xFFFF for absent. -/
def displayWord : Level → Word
  | none => 0xFFFF
  | some l =>
    let d := (l + 5) / 10
    BitVec.ofNat 16 (d / 1000 % 10 * 4096 + d / 100 % 10 * 256 + d / 10 % 10 * 16 + d % 10)

/-- A maximum that starts absent (R56): the new level replaces an absent or smaller one. -/
def raiseTo (old : Level) (v : Nat) : Level :=
  match old with
  | none => some v
  | some o => if o < v then some v else some o

/-- A minimum that starts absent (R56). -/
def lowerTo (old : Level) (v : Nat) : Level :=
  match old with
  | none => some v
  | some o => if v < o then some v else some o

end Sys2Proof.Machine
end

