-- ==== Sys2Proof/Machine/Limits.lean ====
section
/-! DEFINITION. The limit set (06_receptors_and_the_limit_set.md): its fields (R99 to R101), validation (R102), the window
test (R110) and the receptor value (R113). -/

namespace Sys2Proof.Machine

open Sys2Proof

/-- Word i of a limit set (11 section 11.4). -/
def setWord (l : LimitSet) (i : Nat) : Word := l.getD i 0

/-- Header fields (R99). -/
def setId (l : LimitSet) : Word := setWord l 0
def lengthCode (l : LimitSet) : Nat := (setWord l 1).toNat
def minCoverage (l : LimitSet) : Nat := (setWord l 2).toNat

/-- The period length P of a limit set (R43). A code above 4 stands in no live set (R43, R102). -/
def periodLength (l : LimitSet) : Nat :=
  match lengthCode l with
  | 1 => 300
  | 2 => 600
  | 3 => 1800
  | 4 => 3600
  | _ => 900

/-- Receptor entry r begins at word 16 + 8 r (11 section 11.4). -/
def receptorWord (l : LimitSet) (r i : Nat) : Word := setWord l (16 + 8 * r + i)

/-- Receptor fields (R100). -/
def receptorInUse (l : LimitSet) (r : Nat) : Bool := decide (receptorWord l r 0 ≠ 0)
def memberCount (l : LimitSet) (r : Nat) : Nat := (receptorWord l r 1).toNat
def memberHead (l : LimitSet) (r i : Nat) : Nat :=
  let w := receptorWord l r (2 + i / 2)
  if i % 2 = 0 then lowByte w else highByte w
def memberOffset (l : LimitSet) (r i : Nat) : Int := (receptorWord l r (4 + i)).toInt

/-- The members of a receptor in position order: head and offset (R100); at most the four positions. -/
def members (l : LimitSet) (r : Nat) : List (Nat × Int) :=
  (List.range (min (memberCount l r) 4)).map (fun i => (memberHead l r i, memberOffset l r i))

/-- Rule entry n begins at word 64 + 8 n (11 section 11.4). -/
def ruleWord (l : LimitSet) (n i : Nat) : Word := setWord l (64 + 8 * n + i)

/-- Rule fields (R101). -/
def ruleInUse (l : LimitSet) (n : Nat) : Bool := decide (lowByte (ruleWord l n 0) ≠ 0)
def ruleTraces (l : LimitSet) (n : Nat) : Bool := decide (highByte (ruleWord l n 0) ≠ 0)
def ruleReceptor (l : LimitSet) (n : Nat) : Nat := lowByte (ruleWord l n 1)
def ruleMetricCode (l : LimitSet) (n : Nat) : Nat := highByte (ruleWord l n 1)
def ruleMetric (l : LimitSet) (n : Nat) : Option Metric := Metric.ofCode (ruleMetricCode l n)
def ruleStart (l : LimitSet) (n : Nat) : Nat := (ruleWord l n 2).toNat
def ruleEnd (l : LimitSet) (n : Nat) : Nat := (ruleWord l n 3).toNat
def ruleDays (l : LimitSet) (n : Nat) : Word := ruleWord l n 4
def ruleLimit (l : LimitSet) (n : Nat) : Nat := (ruleWord l n 5).toNat
def ruleMargin (l : LimitSet) (n : Nat) : Nat := (ruleWord l n 6).toNat
def ruleCondition (l : LimitSet) (n : Nat) : Nat := (ruleWord l n 7).toNat

/-- A receptor entry passes its checks (R102, indices 2 to 7). -/
def receptorPasses (l : LimitSet) (r : Nat) : Bool :=
  !receptorInUse l r ||
    (decide (1 ≤ memberCount l r) && decide (memberCount l r ≤ 4) &&
      (members l r).all (fun m => decide (m.1 ≤ 11) && decide (-2000 ≤ m.2) && decide (m.2 ≤ 1000)) &&
      decide ((members l r).map Prod.fst).Nodup)

/-- A rule entry passes its checks (R102, indices 8 to 31). -/
def rulePasses (l : LimitSet) (n : Nat) : Bool :=
  !ruleInUse l n ||
    (decide (ruleReceptor l n ≤ 5) && receptorInUse l (ruleReceptor l n) && (ruleMetric l n).isSome &&
      decide (ruleStart l n ≤ 1439) && decide (1 ≤ ruleEnd l n) && decide (ruleEnd l n ≤ 1440) &&
      decide (ruleStart l n ≠ ruleEnd l n) && decide ((ruleDays l n).toNat % 128 ≠ 0) &&
      decide (ruleLimit l n ≤ 15000) && decide (ruleMargin l n ≤ 1000) && decide (ruleCondition l n ≤ 7))

/-- Item i of the table of R102 passes. -/
def itemPasses (l : LimitSet) (i : Nat) : Bool :=
  if i = 0 then decide (lengthCode l ≤ 4)
  else if i = 1 then decide (minCoverage l ≤ 100)
  else if i < 8 then receptorPasses l (i - 2)
  else rulePasses l (i - 8)

/-- Validation (R102): the index of the first failing item, or none when the set passes. -/
def validate (l : LimitSet) : Option Nat := (List.range 32).find? (fun i => !itemPasses l i)

/-- The staged limit set as its words stand in the store (R103). -/
def State.staged (s : State) : LimitSet := (List.range 256).map (fun i => s.peekWord (Config.stagedBase + 2 * i))

/-- The window test of R110 at minute m of a day whose weekday is w. -/
def windowActive (start stop : Nat) (days : Word) (m w : Nat) : Bool :=
  if start < stop then decide (start ≤ m) && decide (m < stop) && days.getLsbD w
  else (decide (start ≤ m) && days.getLsbD w) || (decide (m < stop) && days.getLsbD ((w + 6) % 7))

/-- The window of rule n is active at minute m, weekday w (R110). -/
def ruleActive (l : LimitSet) (n m w : Nat) : Bool := windowActive (ruleStart l n) (ruleEnd l n) (ruleDays l n) m w

/-- The largest corrected value and the head that gives it, over members in position order (R113): a later member
replaces an earlier one only when its corrected value is strictly larger. -/
def bestMember (value : Nat → Level) : List (Nat × Int) → Option (Nat × Nat) → Option (Nat × Nat)
  | [], best => best
  | (h, o) :: rest, best =>
    match value h with
    | none => bestMember value rest best
    | some v =>
      match best with
      | none => bestMember value rest (some (corrected v o, h))
      | some (b, bh) => bestMember value rest (if b < corrected v o then some (corrected v o, h) else some (b, bh))

/-- The receptor value and its deciding head (R113); `value h` is the member's value when it counts (R112). -/
def receptorValue (l : LimitSet) (r : Nat) (value : Nat → Level) : Option (Nat × Nat) :=
  bestMember value (members l r) none

end Sys2Proof.Machine
end

