-- ==== Sys2Proof/Machine/Clock.lean ====
section
/-! DEFINITION. The site clock and the current period (03_site_clock_and_assessment_periods.md). -/

namespace Sys2Proof.Machine

open Sys2Proof

/-- The clock after a tick event (R41). -/
def Clock.step (c : Clock) : Clock :=
  if c.tick < 31 then { c with tick := c.tick + 1 }
  else if c.second < 86399 then { c with tick := 0, second := c.second + 1 }
  else { day := c.day + 1, second := 0, weekday := (c.weekday + 1) % 7, tick := 0 }

/-- The minute of day of a second (R42). -/
def minuteOf (second : Nat) : Nat := second / 60

/-- The clock that a setting gives: tick in second 0 (R49). -/
def Clock.setTo (day : Word) (second weekday : Nat) : Clock := { day := day, second := second, weekday := weekday, tick := 0 }

/-- The smallest multiple of P greater than a second of day, at most the end of the day (R44). -/
def nextBoundary (p second : Nat) : Nat := min ((second / p + 1) * p) Config.daySeconds

/-- The record of a period that begins at the clock's tick under period length p (R44). `fresh` says that START or UNPARK
began it. -/
def Period.begin (c : Clock) (p : Nat) (fresh : Bool) : Period :=
  { isOpen := true
    startDay := c.day
    startSecond := c.second
    startTick := c.tick
    plannedEnd := nextBoundary p c.second
    plannedLength := nextBoundary p c.second - c.second
    short := fresh || decide (c.second % p ≠ 0) }

/-- n_planned of R16: 32 times the planned length. -/
def Period.plannedTicks (p : Period) : Nat := Config.ticksPerSecond * p.plannedLength

/-- The actual length of R47 when no tick closes now: whole seconds before the clock's second, and that second too when
at least one of its ticks was closed in the period. `c` names a tick that is not closed. -/
def actualLength (p : Period) (c : Clock) : Nat :=
  (c.second - p.startSecond) +
    (if (if c.second = p.startSecond then p.startTick < c.tick else 0 < c.tick) then 1 else 0)

/-- The actual length of R47 through a second that has just closed. -/
def lengthThrough (p : Period) (second : Nat) : Nat := second + 1 - p.startSecond

/-- The second of day after the step is a multiple of P (R45). -/
def atBoundary (c : Clock) (p : Nat) : Bool := decide ((c.step).second % p = 0)

end Sys2Proof.Machine
end

