-- ==== Sys2Proof/Machine/Shelves.lean ====
section
/-! DEFINITION. The record shelf and the event shelf: posting, loss, withholding and release
(R128 to R131, R134 to R141, R147; R89, R90, R93). -/

namespace Sys2Proof.Machine

open Sys2Proof

/-! ## Records -/

/-- Record kinds PERIOD 1, SNAPSHOT 2, HISTOGRAM 3 (R180). -/
inductive RecordKind where
  | period
  | snapshot
  | histogram
  deriving DecidableEq, Repr

def RecordKind.code : RecordKind → Nat
  | .period => 1
  | .snapshot => 2
  | .histogram => 3

/-- The byte address of word w of record slot n (R135). -/
def recordAddr (n : Fin 48) (w : Nat) : Nat := Config.recordBase + 1024 * n.val + 2 * w

/-- The words of a record (R135): common header, the kind's own words, closing word. `body` is what follows the header. -/
def recordImage (kind : RecordKind) (number : DWord) (body : List Word) : List Word :=
  [word kind.code, word (body.length + 5)] ++ wordsD number ++ body ++ [number.setWidth 16]

/-- Post a record in slot n, which the shelf chose (R138, steps 3 to 6). -/
def State.postRecord (s : State) (kind : RecordKind) (body : List Word) (n : Fin 48) : State :=
  let number := s.records.number + 1
  State.raise
    { s.pokeWords (recordAddr n 0) (recordImage kind number body) with
      records := { s.records with number := number, list := s.records.list ++ [n] } }
    .record

/-- Hand a PERIOD record of head h to the shelf: posted with the lost count as its lost-before count, or lost
(R138, R140). -/
def State.handPeriodRecord (s : State) (h : Fin 12) (body : Nat → List Word) : State :=
  match lowestFree s.records.list with
  | none => { s with records := { s.records with lost := s.records.lost.set h.val (saturate s.records.lost[h]) h.isLt } }
  | some n =>
    let t := s.postRecord .period (body s.records.lost[h]) n
    { t with records := { t.records with lost := t.records.lost.set h.val 0 h.isLt } }

/-- A histogram entry (11 section 11.8): count in bits 23..0, bin in bits 31..24. -/
def histogramEntry (b k : Nat) : List Word := words32 (k % 16777216 + 16777216 * b)

/-- The non-empty bins of a histogram in ascending order (R137, R145). -/
def filledBins (h : Vector Nat 160) : List (Nat × Nat) := (List.zip (List.range 160) h.toList).filter (fun p => p.2 ≠ 0)

/-- The entries of a histogram list (R137). -/
def histogramWords (bins : List (Nat × Nat)) : List Word := bins.flatMap (fun p => histogramEntry p.1 p.2)

/-! ## Events -/

/-- The byte address of word w of event slot n (R128). -/
def eventAddr (n : Fin 32) (w : Nat) : Nat := Config.eventBase + 32 * n.val + 2 * w

/-- What an evaluation gives the event shelf (R128). -/
structure EventData where
  kind : TriggerKind
  rule : Nat
  metric : Nat
  condition : Nat
  receptor : Nat
  head : Nat
  value : Nat
  limit : Nat
  flags : CompareFlags
  day : Word
  second : Nat
  periodStart : Nat
  setId : Word
  deriving DecidableEq, Repr

/-- The sixteen words of an event record (11 section 11.7). -/
def eventImage (e : EventData) (withheld : Nat) (number : DWord) : List Word :=
  [bytePair e.kind.code e.rule, bytePair e.metric e.condition, bytePair e.receptor e.head, word e.value, word e.limit,
    eventFlagWord e.flags, e.day] ++ words32 e.second ++ words32 e.periodStart ++ [e.setId, word withheld] ++
    wordsD number ++ [number.setWidth 16]

/-- Post an event in the lowest FREE slot (R130), or count it as withheld (R131). -/
def State.postEvent (s : State) (e : EventData) : State :=
  match lowestFree s.events.list with
  | none => State.raise { s with events := { s.events with withheld := saturate s.events.withheld } } .event
  | some n =>
    let number := s.events.number + 1
    State.raise
      { s.pokeWords (eventAddr n 0) (eventImage e s.events.withheld number) with
        events := { list := s.events.list ++ [n], withheld := 0, number := number } }
      .event

/-! ## Releases (R89, R90, R93) -/

/-- Free an event slot: it leaves the list, and EVENT clears when the list becomes empty (R133). -/
def State.releaseEvent (s : State) (n : Fin 32) : State :=
  let rest := s.events.list.erase n
  let t := { s with events := { s.events with list := rest } }
  if rest = [] then t.unraise .event else t

/-- Free a record slot: it leaves the list, and RECORD clears when the list becomes empty (R141). -/
def State.releaseRecord (s : State) (n : Fin 48) : State :=
  let rest := s.records.list.erase n
  let t := { s with records := { s.records with list := rest } }
  if rest = [] then t.unraise .record else t

/-- Free a trace slot: it leaves the list, and TRACE clears when no slot is FILLED (R161). -/
def State.releaseTrace (s : State) (n : Fin 2) : State :=
  let rest := s.trace.list.erase n
  let t := { s with trace := { s.trace with list := rest } }
  if rest = [] then t.unraise .trace else t

/-- Free an answered request slot, and clear ANSWER when no slot is ANSWERED (R88, R93). -/
def State.releaseAnswer (s : State) (n : Fin 8) : State :=
  let t := s.setSlot n { s.slot n with state := .free }
  if t.requests.slots.toList.any (fun x => decide (x.state = .answered)) then t else t.unraise .answer

/-- Carry out a release (R88, R89). -/
def State.release (s : State) : Release → State
  | .answer n => s.releaseAnswer n
  | .event n => s.releaseEvent n
  | .trace n => s.releaseTrace n
  | .record n => s.releaseRecord n

end Sys2Proof.Machine
end

