-- ==== Sys2Proof/Machine/Trace.lean ====
section
/-! DEFINITION. The trace unit (09_trace_capture.md): triggers, the capture, its samples, completion and truncation. -/

namespace Sys2Proof.Machine

open Sys2Proof

/-- A trigger (R132, R152). -/
structure Trigger where
  kind : TriggerKind
  rule : Word
  receptor : Nat
  head : Nat
  day : Word
  second : Nat
  tick : Nat
  deriving DecidableEq, Repr

/-- The source of the settings admits a trigger of this kind (R153). -/
def TraceSource.admits : TraceSource → TriggerKind → Bool
  | .events, .instant => true
  | .events, .certain => true
  | .request, .request => true
  | .both, .instant => true
  | .both, .certain => true
  | .both, .request => true
  | _, _ => false

/-- The history of a head by number (R57). -/
def State.historyOf (s : State) (h : Nat) : List Level :=
  match headOf h with
  | none => []
  | some f => (s.channel f).history

/-- The pre samples of R154: the newest entries of a history, padded with absent codes at the oldest end. -/
def preSamples (pre : Nat) (history : List Level) : List Level :=
  List.replicate (pre - history.length) none ++ history.drop (history.length - pre)

/-- The scope heads of a capture (R154). -/
def scopeHeads (s : State) (t : Trigger) : List Nat :=
  if s.trace.settings.sweep then (members s.live t.receptor).map Prod.fst else [t.head]

/-- The capture that a trigger begins in slot n (R154). -/
def newCapture (s : State) (t : Trigger) (n : Fin 2) : Capture :=
  let pre := s.trace.settings.pre
  { slot := n
    kind := t.kind
    rule := t.rule
    receptor := t.receptor
    day := t.day
    second := t.second
    tick := t.tick
    preCount := pre
    scope := (scopeHeads s t).map
      (fun h => { head := h, pre := preSamples pre (s.historyOf h), post := [], departed := false })
    postCounter := s.trace.settings.post
    captured := 0
    retriggers := 0
    padded := (scopeHeads s t).any (fun h => decide ((s.historyOf h).length < pre))
    headLeft := false }

/-- A retrigger (R157). -/
def Capture.retriggered (c : Capture) (post : Nat) : Capture :=
  { c with postCounter := min post (440 - c.captured), retriggers := saturate c.retriggers }

/-- A missed trigger (R158). -/
def State.missTrigger (s : State) : State := { s with trace := { s.trace with missed := saturate s.trace.missed } }

def State.setTraceMode (s : State) (m : TraceMode) : State := { s with trace := { s.trace with mode := m } }

/-- What becomes of a trigger in this state (R153). -/
def State.triggerOutcome (s : State) (t : Trigger) : TriggerOutcome :=
  if s.trace.settings.source.admits t.kind then
    match s.trace.mode with
    | .disarmed => .ignored
    | .armed =>
      match lowestFree s.trace.list with
      | some n => .started n
      | none => .missed
    | .capturing c => if s.trace.settings.retrigger && decide (t.receptor = c.receptor) then .retriggered else .missed
  else .ignored

/-- Handle a trigger (R153, R154, R157, R158). -/
def State.trigger (s : State) (t : Trigger) : State :=
  match s.triggerOutcome t with
  | .ignored => s
  | .missed => s.missTrigger
  | .started n => s.setTraceMode (.capturing (newCapture s t n))
  | .retriggered =>
    match s.trace.mode with
    | .capturing c => s.setTraceMode (.capturing (c.retriggered s.trace.settings.post))
    | _ => s

/-- The Fast level that a head's channel formed at the tick just closed, or absent (R155): for an ACTIVE head whose channel is
open the newest history entry, which that tick close appended (R57). -/
def State.tickSample (s : State) (h : Nat) : Level :=
  match headOf h with
  | none => none
  | some f =>
    if (s.head f).state = .active ∧ (s.channel f).isOpen = true then ((s.channel f).history.getLast?).join else none

/-- A scope head with its sample of this tick close; a departed head's sample is absent (R155, R156). -/
def ScopeHead.sampled (x : ScopeHead) (v : Level) : ScopeHead := { x with post := x.post ++ [if x.departed then none else v] }

/-- Every scope head of a capture in progress gains a post sample and the post counter goes down (R155). -/
def State.takeSamples (s : State) : State :=
  match s.trace.mode with
  | .capturing c =>
    s.setTraceMode (.capturing
      { c with
        scope := c.scope.map (fun x => x.sampled (s.tickSample x.head))
        postCounter := c.postCounter - 1
        captured := c.captured + 1 })
  | _ => s

/-- A scope head that leaves ACTIVE gets its departed mark, and the capture HEAD_LEFT (R156). -/
def State.departHead (s : State) (h : Fin 12) : State :=
  match s.trace.mode with
  | .capturing c =>
    if c.scope.any (fun x => x.head = h.val) then
      s.setTraceMode (.capturing
        { c with
          scope := c.scope.map (fun x => if x.head = h.val then { x with departed := true } else x)
          headLeft := true })
    else s
  | _ => s

/-- The byte address of word w of trace slot n (R159). -/
def traceAddr (n : Fin 2) (w : Nat) : Nat := Config.traceBase + 4096 * n.val + 2 * w

/-- The scope list word (11 section 11.9): position i in bits 4i + 3..4i, unused positions 0xF. -/
def scopeWord (c : Capture) : Word :=
  let at_ := fun i => match c.scope[i]? with
    | some x => x.head % 16
    | none => 15
  word (at_ 0 + 16 * at_ 1 + 256 * at_ 2 + 4096 * at_ 3)

/-- The words of a completed trace (R159, steps 2 to 4). -/
def traceImage (c : Capture) (truncated : Bool) (missed : Nat) (number : DWord) : List Word :=
  [word c.kind.code, c.rule, word c.receptor, word c.scope.length, scopeWord c, word c.preCount, word c.captured,
    word c.retriggers, word missed, traceFlagWord c.padded truncated c.headLeft, c.day] ++ words32 c.second ++
    [word c.tick] ++ wordsD number ++ c.scope.flatMap (fun x => (x.pre ++ x.post).map levelWord) ++ [number.setWidth 16]

/-- Complete a capture: number it, write it, list it, clear the missed count, raise TRACE in SINGLE mode
(R159, steps 1 to 7), and leave the trace in `after` (R159 step 8, R160). A completion by truncation clears the missed count as
any other, at STOP and PARK too, where R160 and R173 call it kept: DEDUCED, unsafe, log entry 26. -/
def State.completeCapture (s : State) (c : Capture) (truncated : Bool) (after : TraceMode) : State :=
  let number := s.trace.number + 1
  let t : State :=
    { s.pokeWords (traceAddr c.slot 0) (traceImage c truncated s.trace.missed number) with
      trace := { s.trace with mode := after, list := s.trace.list ++ [c.slot], missed := 0, number := number } }
  if s.trace.settings.repeating then t else t.raise .trace

/-- The trace state after a full completion (R159, step 8). -/
def State.modeAfterCapture (s : State) : TraceMode := if s.trace.settings.repeating then .armed else .disarmed

/-- A capture whose post counter has reached 0 completes (R155, R159). -/
def State.completeIfDue (s : State) : State :=
  match s.trace.mode with
  | .capturing c => if c.postCounter = 0 then s.completeCapture c false s.modeAfterCapture else s
  | _ => s

/-- Truncate a capture in progress and leave the trace in `after` (R160); other states are kept. -/
def State.truncateCapture (s : State) (after : TraceMode) : State :=
  match s.trace.mode with
  | .capturing c => s.completeCapture c true after
  | _ => s

/-- STOP and DISARM TRACE disarm in every state (R151, R160). -/
def State.disarm (s : State) : State := (s.truncateCapture .disarmed).setTraceMode .disarmed

/-- The state of a trace slot (R149): FREE 0, FILLING 1, FILLED 2. -/
def State.traceSlotCode (s : State) (n : Fin 2) : Nat :=
  if n ∈ s.trace.list then 2
  else match s.trace.mode with
    | .capturing c => if c.slot = n then 1 else 0
    | _ => 0

end Sys2Proof.Machine
end

