-- ==== Sys2Proof/Machine/Channels.lean ====
section
/-! DEFINITION. The level channels (04_level_channels_and_calibration.md): tick processing, second values and live pages,
period close and its record, and the calibration unit's ticks and endings. -/

namespace Sys2Proof.Machine

open Sys2Proof

/-! ## Tick processing -/

/-- The categories of R54. -/
inductive TickCategory where
  | present
  | calibration
  | gap
  deriving DecidableEq, Repr

/-- The category of a tick from the head state after the step, the outcome and whether a calibration is in progress (R54). -/
def tickCategory (state : HeadState) (outcome : Option Frame) (calibrating : Bool) : TickCategory :=
  match outcome with
  | none => .gap
  | some f =>
    if state = .active ∧ f.faultFlag = false then (if calibrating then .calibration else .present) else .gap

/-- Append one history entry, dropping the oldest of 64 (R57). -/
def appendHistory (history : List Level) (x : Level) : List Level := (history ++ [x]).drop (history.length + 1 - 64)

/-- A histogram with one more count in a bin (R56). -/
def countBin (h : Vector Nat 160) (b : Nat) : Vector Nat 160 := h.setIfInBounds b (h.toList.getD b 0 + 1)

/-- The second accumulators after a present tick (R55, R56). -/
def SecondAcc.addPresent (a : SecondAcc) (f : Frame) (fastLevel peakLevel : Nat) : SecondAcc :=
  { sum := a.sum + BitVec.ofNat 72 f.aEnergy
    present := a.present + 1
    lafMax := raiseTo a.lafMax fastLevel
    lcPeak := raiseTo a.lcPeak peakLevel
    overMark := a.overMark || f.overFlag }

/-- The tick reaches a new period LAFmax (R56): it was absent or strictly smaller. -/
def newMaximum (old : Level) (v : Nat) : Bool :=
  match old with
  | none => true
  | some o => decide (o < v)

/-- The period accumulators after a present tick at position `offset` (R55, R56). -/
def PeriodAcc.addPresent (a : PeriodAcc) (f : Frame) (fastLevel peakLevel offset : Nat) : PeriodAcc :=
  { sum := a.sum + BitVec.ofNat 72 f.aEnergy
    ticksOpen := a.ticksOpen + 1
    present := a.present + 1
    gap := a.gap
    calibration := a.calibration
    overCount := if f.overFlag then a.overCount + 1 else a.overCount
    underCount := if f.underFlag then a.underCount + 1 else a.underCount
    windyCount := if f.windyFlag then a.windyCount + 1 else a.windyCount
    lafMax := raiseTo a.lafMax fastLevel
    maxOffset := if newMaximum a.lafMax fastLevel then offset else a.maxOffset
    lafMin := lowerTo a.lafMin fastLevel
    lcPeak := raiseTo a.lcPeak peakLevel
    histogram := countBin a.histogram (histogramBin fastLevel)
    overloadSeen := a.overloadSeen || f.overFlag
    calSeen := a.calSeen }

/-- A channel after a present tick (R55 to R57): the running energies step, then levels, sums, extremes and histogram. -/
def Channel.presentTick (ch : Channel) (f : Frame) (trim : Int) (offset : Nat) : Channel :=
  let fast := weightStep fastWeight ch.fast f.aEnergy
  let slow := weightStep slowWeight ch.slow f.aEnergy
  let fastLevel := headLevel fast trim
  let peakLevel := headLevel f.cPeak trim
  { ch with
    fast := fast
    slow := slow
    lastFast := some fastLevel
    lastSlow := some (headLevel slow trim)
    history := appendHistory ch.history (some fastLevel)
    sec := ch.sec.addPresent f fastLevel peakLevel
    acc := ch.acc.addPresent f fastLevel peakLevel offset }

/-- A valid frame with OVER set marks the channel whatever the tick's category (R55). -/
def seesOverload (outcome : Option Frame) : Bool :=
  match outcome with
  | none => false
  | some f => f.overFlag

/-- A channel after a gap tick (R58); an ACTIVE head's history gains an absent entry (R57). -/
def Channel.gapTick (ch : Channel) (outcome : Option Frame) (active : Bool) : Channel :=
  { ch with
    history := if active then appendHistory ch.history none else ch.history
    acc := { ch.acc with
      ticksOpen := ch.acc.ticksOpen + 1
      gap := ch.acc.gap + 1
      overloadSeen := ch.acc.overloadSeen || seesOverload outcome } }

/-- A channel after a calibration tick (R58). -/
def Channel.calibrationTick (ch : Channel) (outcome : Option Frame) : Channel :=
  { ch with
    history := appendHistory ch.history none
    acc := { ch.acc with
      ticksOpen := ch.acc.ticksOpen + 1
      calibration := ch.acc.calibration + 1
      calSeen := true
      overloadSeen := ch.acc.overloadSeen || seesOverload outcome } }

/-- The tick's position in the period (R56). -/
def tickOffset (p : Period) (c : Clock) : Nat := 32 * (c.second - p.startSecond) + c.tick - p.startTick

/-! ## Calibration (04 section 4.7) -/

/-- End a calibration early: ABORTED with a reason, the trim unchanged (R73). -/
def State.abortCalibration (s : State) (h : Fin 12) (reason : AbortReason) : State :=
  match s.calibration h with
  | none => s
  | some c =>
    (s.answer c.slot .aborted reason.code
      [0xFFFF, intWord (s.head h).trim, intWord (s.head h).trim, word c.count]).endCalibration h

/-- A calibration tick feeds the calibration, or ends it when its frame has OVER set (R71, R73). -/
def State.feedCalibration (s : State) (h : Fin 12) (f : Frame) : State :=
  match s.calibration h with
  | none => s
  | some c =>
    if f.overFlag then s.abortCalibration h .overload
    else s.setCalibration h { c with count := c.count + 1, sum := c.sum + BitVec.ofNat 72 f.aEnergy }

/-- A trim change while the channel's period is open sets its calibration-seen mark (R68, R64; log entry 25). -/
def State.setTrim (s : State) (h : Fin 12) (t : Int) : State :=
  let ch := s.channel h
  let s := s.setHead h { s.head h with trim := t }
  if ch.isOpen && s.period.isOpen then s.setChannel h { ch with acc := { ch.acc with calSeen := true } } else s

/-- The measured level of a completed measurement (R72): the raw level of the mean of 128 ticks, no trim. -/
def Calibration.measured (c : Calibration) : Nat := rawLevel (c.sum.toNat / 128)

/-- A calibration of head h has taken its 128th tick, so that its measurement is complete (R72). -/
def State.calibrationDue (s : State) (h : Fin 12) : Bool :=
  match s.calibration h with
  | none => false
  | some c => decide (128 ≤ c.count)

/-- A calibration that has taken its 128th tick completes (R72): the trim is set when the difference is in range. -/
def State.completeCalibration (s : State) (h : Fin 12) : State :=
  match s.calibration h with
  | none => s
  | some c =>
    if 128 ≤ c.count then
      let m := c.measured
      let diff : Int := (c.expected : Int) - (m : Int)
      let before := (s.head h).trim
      if -500 ≤ diff ∧ diff ≤ 500 then
        ((s.setTrim h diff).answer c.slot .done 0 [word m, intWord before, intWord diff, word c.count]).endCalibration h
      else
        (s.answer c.slot .outOfRange 0 [word m, intWord before, intWord before, word c.count]).endCalibration h
    else s

/-- The head's channel handles a tick's outcome (R54 to R58); a closed channel receives none. -/
def State.channelTick (s : State) (h : Fin 12) (outcome : Option Frame) : State :=
  let ch := s.channel h
  if ch.isOpen then
    match outcome, tickCategory (s.head h).state outcome (s.calibration h).isSome with
    | some f, .present => s.setChannel h (ch.presentTick f (s.head h).trim (tickOffset s.period s.clock))
    | some f, .calibration => (s.setChannel h (ch.calibrationTick (some f))).feedCalibration h f
    | _, _ => s.setChannel h (ch.gapTick outcome (decide ((s.head h).state = .active)))
  else s

/-! ## Second values and pages (04 section 4.3, 06 section 6.6) -/

/-- The second values of R59. -/
structure SecondValues where
  lafNow : Level
  lasNow : Level
  stale : Bool
  leqSecond : Level
  maxSecond : Level
  peakSecond : Level
  leqToDate : Level
  maxToDate : Level
  floor : Level
  deriving DecidableEq, Repr

/-- The last present level, as shown only while the head is ACTIVE (R59). -/
def State.lafNow (s : State) (h : Fin 12) : Level := if (s.head h).state = .active then (s.channel h).lastFast else none
def State.lasNow (s : State) (h : Fin 12) : Level := if (s.head h).state = .active then (s.channel h).lastSlow else none

/-- The second values of a head's channel (R59). -/
def State.secondValues (s : State) (h : Fin 12) : SecondValues :=
  let ch := s.channel h
  let t := (s.head h).trim
  { lafNow := s.lafNow h
    lasNow := s.lasNow h
    stale := decide (ch.sec.present = 0)
    leqSecond := meanLevel ch.sec.sum.toNat ch.sec.present t
    maxSecond := ch.sec.lafMax
    peakSecond := ch.sec.lcPeak
    leqToDate := meanLevel ch.acc.sum.toNat ch.acc.present t
    maxToDate := ch.acc.lafMax
    floor := some (floorLeq ch.acc.sum.toNat s.period.plannedTicks t) }

/-- The byte address of a head's live page (R60) and of a receptor's (R114). -/
def headPageAddr (h : Fin 12) : Nat := Config.headPageBase + 32 * h.val
def receptorPageAddr (r : Nat) : Nat := Config.receptorPageBase + 16 * r

/-- A closed head page (R60). -/
def closedHeadPage (st : Stamp) : List Word :=
  [word HeadState.off.code] ++ List.replicate 8 0xFFFF ++ [0, 0, st.day] ++ words32 st.second ++ [0, 0]

/-- The live page of a head at a second close (R60). -/
def State.headPage (s : State) (h : Fin 12) (st : Stamp) : List Word :=
  if (s.channel h).isOpen then
    let v := s.secondValues h
    [word (s.head h).state.code, levelWord v.lafNow, levelWord v.lasNow, levelWord v.leqSecond, levelWord v.maxSecond,
      levelWord v.peakSecond, levelWord v.leqToDate, levelWord v.maxToDate, displayWord v.lafNow,
      word (s.channel h).sec.present, pageFlagWord v.stale (s.calibration h).isSome (s.channel h).sec.overMark, st.day] ++
      words32 st.second ++ [0, 0]
  else closedHeadPage st

/-- A closed receptor page (R115), which is also the page of a receptor not in use (R114). -/
def closedReceptorPage (st : Stamp) : List Word := [0xFFFF, 0xFFFF, 0xFFFF, 0xFFFF, 0, st.day] ++ words32 st.second

/-- A member's LAF now when it counts toward a receptor page (R112). -/
def State.memberLaf (s : State) (h : Nat) : Level :=
  match headOf h with
  | none => none
  | some f => if (s.head f).state = .active ∧ (s.calibration f).isNone then s.lafNow f else none

/-- A member's period-to-date LAeq when it counts (R112). -/
def State.memberLeq (s : State) (h : Nat) : Level :=
  match headOf h with
  | none => none
  | some f => if (s.channel f).isOpen then (s.secondValues f).leqToDate else none

/-- The deciding head had no present tick in the second (R114). -/
def State.heldValue (s : State) (h : Nat) : Bool :=
  match headOf h with
  | none => false
  | some f => decide ((s.channel f).sec.present = 0)

/-- The live page of a receptor at a second close (R114). -/
def State.receptorPage (s : State) (r : Nat) (st : Stamp) : List Word :=
  if receptorInUse s.live r then
    let best := receptorValue s.live r s.memberLaf
    let laf : Level := best.map Prod.fst
    let missing := (members s.live r).any (fun m => (s.memberLaf m.1).isNone)
    let stale := match best with
      | none => false
      | some b => s.heldValue b.2
    [levelWord laf, levelWord (best.map Prod.snd), levelWord ((receptorValue s.live r s.memberLeq).map Prod.fst),
      displayWord laf, receptorFlagWord true stale missing, st.day] ++ words32 st.second
  else closedReceptorPage st

/-- Write every head live page (R60), then every receptor live page (R114). -/
def State.writePages (s : State) (st : Stamp) : State :=
  let s := allHeads.foldl (fun t h => t.pokeWords (headPageAddr h) (t.headPage h st)) s
  (List.range 6).foldl (fun t r => t.pokeWords (receptorPageAddr r) (t.receptorPage r st)) s

/-- Write every page closed (R60, R115). -/
def State.writeClosedPages (s : State) (st : Stamp) : State :=
  let s := allHeads.foldl (fun t h => t.pokeWords (headPageAddr h) (closedHeadPage st)) s
  (List.range 6).foldl (fun t r => t.pokeWords (receptorPageAddr r) (closedReceptorPage st)) s

/-- Every open channel clears its second accumulators after its values are handed over (R61). -/
def State.clearSeconds (s : State) : State :=
  allHeads.foldl
    (fun t h => if (t.channel h).isOpen then t.setChannel h { t.channel h with sec := SecondAcc.cleared } else t) s

/-! ## Period close (04 section 4.5) -/

/-- The byte address of word w of a head's settings (11 section 11.4). -/
def headSettingAddr (h : Fin 12) (w : Nat) : Nat := Config.headSettingsBase + 16 * h.val + 2 * w

/-- The enabled field of a head, as read at a mark or at START and UNPARK (R29). -/
def State.enabled (s : State) (h : Fin 12) : Bool := decide (s.peekWord (headSettingAddr h 0) ≠ 0)

/-- The LOW_COVER flag of a closing channel (R64). -/
def State.closesLow (s : State) (h : Fin 12) (actual : Nat) : Bool :=
  lowCover (s.channel h).acc.present (minCoverage s.live) actual

/-- The histogram list of a PERIOD record (R63, R137): only with the head's histogram option. -/
def State.recordBins (s : State) (h : Fin 12) : List (Nat × Nat) :=
  if s.peekWord (headSettingAddr h 1) ≠ 0 then filledBins (s.channel h).acc.histogram else []

/-- What follows the common header of a PERIOD record (R63, R136; 11 section 11.8). `sequence` is the head period sequence
after its increment. -/
def State.periodBody (s : State) (h : Fin 12) (cut : Bool) (actual : Nat) (sequence : DWord) (lost : Nat) : List Word :=
  let ch := s.channel h
  let a := ch.acc
  let t := (s.head h).trim
  let bins := s.recordBins h
  [word h.val, s.peekWord (headSettingAddr h 2), s.peekWord (headSettingAddr h 3),
    periodFlagWord ch.isPartial cut s.period.short (s.closesLow h actual) a.overloadSeen a.calSeen] ++
    wordsD sequence ++ [s.period.startDay] ++ words32 s.period.startSecond ++
    [word s.period.plannedLength, word actual] ++ words32 a.ticksOpen ++ words32 a.present ++ words32 a.gap ++
    words32 a.calibration ++ words32 a.overCount ++ words32 a.underCount ++ words32 a.windyCount ++
    [levelWord (meanLevel a.sum.toNat a.present t), levelWord a.lafMax] ++ words32 a.maxOffset ++
    [levelWord a.lafMin, levelWord a.lcPeak, levelWord (percentile 10 a.histogram a.present),
      levelWord (percentile 90 a.histogram a.present), intWord t, word lost, setId s.live, word bins.length] ++
    histogramWords bins

/-- A channel closed: accumulators and marks cleared, the rest kept (R67). -/
def Channel.closed (ch : Channel) : Channel :=
  { ch with isOpen := false, isPartial := false, cutBefore := false, sec := SecondAcc.cleared, acc := PeriodAcc.cleared }

/-- A channel's period ends (R62): the sequence goes up, the record is handed over, the accumulators are cleared. -/
def State.closeChannel (s : State) (h : Fin 12) (cut : Bool) (actual : Nat) : State :=
  let sequence := (s.channel h).sequence + 1
  let body := s.periodBody h cut actual sequence
  (s.handPeriodRecord h body).setChannel h { (s.channel h).closed with sequence := sequence }

/-- A channel opened (R53): accumulators cleared, marks as given. -/
def Channel.opened (ch : Channel) (isPartial cutBefore : Bool) : Channel :=
  { ch with
    isOpen := true
    isPartial := isPartial
    cutBefore := cutBefore
    sec := SecondAcc.cleared
    acc := PeriodAcc.cleared }

/-- The period summary a channel hands over (R66). -/
structure Summary where
  laeq : Level
  la10 : Level
  la90 : Level
  covered : Bool
  deriving DecidableEq, Repr

/-- The summary of a head at an announcement, none for a closed channel (R66). -/
def State.summary (s : State) (actual : Nat) (h : Nat) : Option Summary :=
  match headOf h with
  | none => none
  | some f =>
    let a := (s.channel f).acc
    if (s.channel f).isOpen then
      some
        { laeq := meanLevel a.sum.toNat a.present (s.head f).trim
          la10 := percentile 10 a.histogram a.present
          la90 := percentile 90 a.histogram a.present
          covered := !s.closesLow f actual }
    else none

/-- When a period begins, every channel whose head is not OFF takes it with clear accumulators and marks, and the
per-period cut notes are cleared (R53, R67). -/
def State.openForPeriod (s : State) : State :=
  allHeads.foldl
    (fun t h =>
      if (t.head h).state = .off then t.setChannel h { t.channel h with cutNote := false }
      else t.setChannel h { (t.channel h).opened false false with cutNote := false }) s

end Sys2Proof.Machine
end

