-- ==== Sys2Proof/Machine/Evaluate.lean ====
section
/-! DEFINITION. The compliance evaluator (07_compliance_evaluation_and_exceedance_events.md). -/

namespace Sys2Proof.Machine

open Sys2Proof

/-- The twenty-four rules in ascending order (R119). -/
def allRules : List (Fin 24) := List.finRange 24

/-- A member's second maximum for an instant evaluation (R112, R120). -/
def State.memberMaximum (s : State) (m : Metric) (h : Nat) : Level :=
  match headOf h with
  | none => none
  | some f =>
    if (s.channel f).isOpen then
      match m with
      | .lafmax => (s.channel f).sec.lafMax
      | .lcpeak => (s.channel f).sec.lcPeak
      | _ => none
    else none

/-- A member's floor-Leq for a certain evaluation (R112, R122). -/
def State.memberFloor (s : State) (h : Nat) : Level :=
  match headOf h with
  | none => none
  | some f => if (s.channel f).isOpen && !(s.channel f).cutBefore then (s.secondValues f).floor else none

/-- A member's period value for a period evaluation (R112, R125): its summary's value when the coverage is met. -/
def State.memberPeriodValue (s : State) (actual : Nat) (m : Metric) (h : Nat) : Level :=
  match s.summary actual h with
  | none => none
  | some x =>
    if x.covered then
      match m with
      | .laeq => x.laeq
      | .la10 => x.la10
      | .la90 => x.la90
      | _ => none
    else none

/-- The event that an evaluation of rule n raises (R128). `closed` is the clock of the second closed. -/
def State.ruleEvent (s : State) (kind : TriggerKind) (n : Fin 24) (best : Nat × Nat) (flags : CompareFlags)
    (closed : Clock) : EventData :=
  { kind := kind
    rule := n.val
    metric := ruleMetricCode s.live n
    condition := ruleCondition s.live n
    receptor := ruleReceptor s.live n
    head := best.2
    value := best.1
    limit := ruleLimit s.live n
    flags := flags
    day := closed.day
    second := closed.second
    periodStart := s.period.startSecond
    setId := setId s.live }

/-- The trigger that an INSTANT or CERTAIN event of a tracing rule gives (R132). -/
def State.ruleTrigger (s : State) (kind : TriggerKind) (n : Fin 24) (head : Nat) (closed : Clock) : Trigger :=
  { kind := kind
    rule := word n.val
    receptor := ruleReceptor s.live n
    head := head
    day := closed.day
    second := closed.second
    tick := 31 }

/-- Raise the event of a rule, then give its trigger when the rule traces and the event is no PERIOD event (R128, R132). -/
def State.raiseRule (s : State) (kind : TriggerKind) (n : Fin 24) (best : Nat × Nat) (flags : CompareFlags)
    (closed : Clock) : State :=
  let t := s.postEvent (s.ruleEvent kind n best flags closed)
  if ruleTraces s.live n && decide (kind ≠ .period) then t.trigger (s.ruleTrigger kind n best.2 closed) else t

/-- The instant evaluation of rule n under metric m (R120). -/
def State.evalInstant (s : State) (n : Fin 24) (m : Metric) (closed : Clock) : State :=
  let r := s.rule n
  if ruleActive s.live n (minuteOf closed.second) closed.weekday && !r.instLatch then
    match receptorValue s.live (ruleReceptor s.live n) (s.memberMaximum m) with
    | none => s
    | some best =>
      let flags := compareFlags best.1 (ruleLimit s.live n) (ruleMargin s.live n) r.lastInst
      let holds := conditionHolds (ruleCondition s.live n) flags
      let t := s.setRule n { r with lastInst := some best.1, instLatch := r.instLatch || holds }
      if holds then t.raiseRule .instant n best flags closed else t
  else s

/-- The certain evaluation of rule n (R121, R122). -/
def State.evalCertain (s : State) (n : Fin 24) (closed : Clock) : State :=
  let r := s.rule n
  if s.period.isOpen && ruleActive s.live n (minuteOf s.period.startSecond) closed.weekday && !r.certLatch then
    match receptorValue s.live (ruleReceptor s.live n) s.memberFloor with
    | none => s
    | some best =>
      let flags := compareFlags best.1 (ruleLimit s.live n) (ruleMargin s.live n) r.lastPeriod
      if conditionHolds (ruleCondition s.live n) flags then
        (s.setRule n { r with certLatch := true }).raiseRule .certain n best flags closed
      else s
  else s

/-- The evaluation of one rule at a second close (R119). -/
def State.evalAtSecond (closed : Clock) (s : State) (n : Fin 24) : State :=
  if ruleInUse s.live n then
    match ruleMetric s.live n with
    | some .lafmax => s.evalInstant n .lafmax closed
    | some .lcpeak => s.evalInstant n .lcpeak closed
    | some .laeq => if ruleCondition s.live n = 1 ∨ ruleCondition s.live n = 2 then s.evalCertain n closed else s
    | _ => s
  else s

/-- Every rule in ascending order at a second close (R119). -/
def State.evalSecond (s : State) (closed : Clock) : State := allRules.foldl (State.evalAtSecond closed) s

/-- The period evaluation of rule n (R124, R125). `pre` is the state at the announcement, from which the summaries come. -/
def State.evalAtPeriod (pre : State) (actual : Nat) (closed : Clock) (s : State) (n : Fin 24) : State :=
  if ruleInUse s.live n && ruleActive s.live n (minuteOf s.period.startSecond) closed.weekday then
    match ruleMetric s.live n with
    | none => s
    | some m =>
      if m = .laeq ∨ m = .la10 ∨ m = .la90 then
        match receptorValue s.live (ruleReceptor s.live n) (pre.memberPeriodValue actual m) with
        | none => s
        | some best =>
          let r := s.rule n
          let flags := compareFlags best.1 (ruleLimit s.live n) (ruleMargin s.live n) r.lastPeriod
          let t := s.setRule n { r with lastPeriod := some best.1 }
          if conditionHolds (ruleCondition s.live n) flags then t.raiseRule .period n best flags closed else t
      else s
  else s

/-- Every rule in ascending order at an ALIGNED end (R124). -/
def State.evalPeriod (s pre : State) (actual : Nat) (closed : Clock) : State :=
  allRules.foldl (State.evalAtPeriod pre actual closed) s

/-- Every rule's instant and certain latches are cleared (R127). -/
def State.clearLatches (s : State) : State :=
  allRules.foldl (fun t n => t.setRule n { t.rule n with instLatch := false, certLatch := false }) s

/-- Every rule's latches and last values are cleared (R105 step 3, R116). -/
def State.clearRules (s : State) : State := { s with rules := Vector.replicate 24 RuleState.clear }

end Sys2Proof.Machine
end

