-- ==== Sys2Proof/Machine/Heads.lean ====
section
/-! DEFINITION. The head table: the head state machine (R29 to R35) and what a change of head state does to the other
blocks (R34). -/

namespace Sys2Proof.Machine

open Sys2Proof

/-- A head that leaves ACTIVE has its history emptied (R57), its last present levels become absent (R59) and a capture marks
it departed (R156). -/
def State.forgetActive (s : State) (h : Fin 12) : State :=
  (s.setChannel h { s.channel h with history := [], lastFast := none, lastSlow := none }).departHead h

/-- A head leaves ACTIVE (R34): its calibration ends early too (R73). -/
def State.leaveActive (s : State) (h : Fin 12) (reason : AbortReason) : State :=
  (s.abortCalibration h reason).forgetActive h

/-- A head leaves ACTIVE at a mark (R34): its calibration ends early (R73), unless its measurement was complete at the tick
close before the mark and only waits for its trim to be set (R68, R72; log entry 7). -/
def State.leaveAtMark (s : State) (h : Fin 12) : State :=
  if s.calibrationDue h then s.forgetActive h else s.leaveActive h .headLost

/-- A head entry turned OFF or JOINING from OFF (R29, R33): counts 0, returning clear. -/
def Head.restarted (x : Head) (state : HeadState) : Head := { x with state := state, join := 0, miss := 0, returning := false }

/-- A head completes its join with frame f (R30): ACTIVE, both running energies seeded (R10), HEAD raised when returning (R35). -/
def State.joinComplete (s : State) (h : Fin 12) (f : Frame) : State :=
  let x := s.head h
  let t := (s.setHead h { x with state := .active, join := 4, miss := 0, returning := false }).setChannel h
    { s.channel h with fast := f.aEnergy, slow := f.aEnergy }
  if x.returning then t.raise .head else t

/-- A head is lost (R31): LOST with miss count 32, it leaves ACTIVE and HEAD is raised (R35). -/
def State.loseHead (s : State) (h : Fin 12) : State :=
  ((s.setHead h { s.head h with state := .lost, miss := 32, join := 0 }).leaveActive h .headLost).raise .head

/-- The step of the head state machine at a tick close (R30 to R32). -/
def State.headStep (s : State) (h : Fin 12) (outcome : Option Frame) : State :=
  let x := s.head h
  match x.state, outcome with
  | .off, _ => s
  | .joining, none => s.setHead h { x with join := 0 }
  | .joining, some f => if 4 ≤ x.join + 1 then s.joinComplete h f else s.setHead h { x with join := x.join + 1 }
  | .active, none => if 32 ≤ x.miss + 1 then s.loseHead h else s.setHead h { x with miss := x.miss + 1 }
  | .active, some _ => s.setHead h { x with miss := 0 }
  | .lost, none => s
  | .lost, some _ => s.setHead h { x with state := .joining, join := 1, returning := true }

/-- Settle one head at the tick close (R27): its step, then its channel, then its frame buffer is emptied. -/
def State.settleHead (s : State) (h : Fin 12) : State :=
  let outcome := s.buffer h
  ((s.headStep h outcome).channelTick h outcome).setBuffer h none

/-- The mark now being sent opens the period's first tick (R53). -/
def State.atPeriodStart (s : State) : Bool :=
  decide (s.clock.day = s.period.startDay) && decide (s.clock.second = s.period.startSecond) &&
    decide (s.clock.tick = s.period.startTick)

/-- A head enabled at a mark enters JOINING and opens its channel in the open period (R29, R53). -/
def State.enableAtMark (s : State) (h : Fin 12) : State :=
  (s.setHead h ((s.head h).restarted .joining)).setChannel h
    ((s.channel h).opened (!s.atPeriodStart) (s.channel h).cutNote)

/-- A head disabled at a mark goes OFF; its channel's period ends CUT and the cut is noted (R29, R62, R67). -/
def State.disableAtMark (s : State) (h : Fin 12) : State :=
  let s := if (s.head h).state = .active then s.leaveAtMark h else s
  let s := s.setHead h ((s.head h).restarted .off)
  if (s.channel h).isOpen then
    let s := s.closeChannel h true (actualLength s.period s.clock)
    s.setChannel h { s.channel h with cutNote := true }
  else s

/-- What a mark does to one head (R29). -/
def State.markHead (s : State) (h : Fin 12) : State :=
  if (s.head h).state = .off then
    if s.enabled h then s.enableAtMark h else s
  else if s.enabled h then s
  else s.disableAtMark h

/-- START and UNPARK: every enabled head enters JOINING and opens its channel without a period (R33, R53). -/
def State.startHeads (s : State) : State :=
  allHeads.foldl
    (fun t h =>
      if t.enabled h then
        (t.setHead h ((t.head h).restarted .joining)).setChannel h ((t.channel h).opened false false)
      else t) s

/-- A head leaves ACTIVE at STOP or PARK (R34): its calibration ends early (R73), unless its measurement was complete at the tick
close before and only waits for its trim to be set, which happens now, after the CUT end (R68, R72, R178; log entry 7). -/
def State.leaveAtStop (s : State) (h : Fin 12) : State :=
  if s.calibrationDue h then (s.completeCalibration h).forgetActive h else s.leaveActive h .stopped

/-- STOP and PARK: one head goes OFF (R33); an ACTIVE one leaves ACTIVE, a channel still open closes without a record (R176). -/
def State.stopHead (s : State) (h : Fin 12) : State :=
  if (s.head h).state = .off then s
  else
    let s := if (s.head h).state = .active then s.leaveAtStop h else s
    let s := s.setHead h ((s.head h).restarted .off)
    s.setChannel h (s.channel h).closed

/-- STOP and PARK: every head that is not OFF goes OFF (R33). -/
def State.stopHeads (s : State) : State := allHeads.foldl State.stopHead s

end Sys2Proof.Machine
end

