-- ==== Sys2Proof/Machine/Periods.lean ====
section
/-! DEFINITION. Period ends and beginnings (R44 to R48), adoption (R105, R106) and the application of a clock setting (R49). -/

namespace Sys2Proof.Machine

open Sys2Proof

/-- P in force (R43). -/
def State.periodP (s : State) : Nat := periodLength s.live

/-- Adoption, steps 1 to 3 of R105: the live set becomes a copy of the staged set and every rule's items are cleared. -/
def State.adopt (s : State) : State := State.clearRules { s with live := s.staged }

/-- The reply of an adoption's DONE (R105 step 4, R182): the clock is the one held when it was carried out. -/
def State.adoptReply (s : State) (kind : EndKind) : List Word :=
  [setId s.live, word (lengthCode s.live), word kind.code, s.clock.day] ++ words32 s.clock.second

/-- Carry out the pending adoption, if there is one, and answer its request (R105, R106). -/
def State.completeAdoption (s : State) (kind : EndKind) : State :=
  match s.adoption with
  | none => s
  | some n =>
    let t := { s.adopt with adoption := none }
    t.answer n .done 0 (t.adoptReply kind)

/-- Every open channel's period ends at an announcement, in ascending head number (R53, R139). -/
def State.closeChannels (s : State) (cut : Bool) (actual : Nat) : State :=
  allHeads.foldl (fun t h => if (t.channel h).isOpen then t.closeChannel h cut actual else t) s

/-- The period ends (R47): the announcement goes to the channels and the evaluator, the latches are cleared (R127), and a
pending adoption is carried out (R106). No next period is begun here. `closed` is the clock of the second closed. -/
def State.endPeriod (s : State) (kind : EndKind) (actual : Nat) (closed : Clock) : State :=
  let t := s.closeChannels (decide (kind = .cut)) actual
  let t := if kind = .aligned then t.evalPeriod s actual closed else t
  let t := t.clearLatches
  State.completeAdoption { t with period := { t.period with isOpen := false } } kind

/-- A period begins with the tick that the clock names (R44), and the channels take it (R53). -/
def State.beginPeriod (s : State) (fresh : Bool) : State :=
  State.openForPeriod { s with period := Period.begin s.clock s.periodP fresh }

/-- The reply of a SET CLOCK's DONE: the clock held when the setting was applied (R49, R182). -/
def clockReply (c : Clock) : List Word := [c.day] ++ words32 c.second ++ [word c.weekday, word c.tick]

/-- Apply the pending clock setting and answer it (R49, R50): the clock takes the new values. -/
def State.applySetting (s : State) : State :=
  match s.clockSetting with
  | none => s
  | some x =>
    let old := s.clock
    let t := { s with clock := Clock.setTo x.day x.second x.weekday, clockSetting := none }
    t.answer x.slot .done 0 (clockReply old)

/-- A clock setting applied at a second close (R49): the period ends CUT through the second closed, a pending adoption is
carried out, the clock takes the new values, a new period begins, and the request is answered. -/
def State.replaceStep (s : State) (x : ClockSetting) : State :=
  let old := s.clock
  let t := s.endPeriod .cut (lengthThrough s.period old.second) old
  let t := { t with clock := Clock.setTo x.day x.second x.weekday, clockSetting := none }
  (t.beginPeriod false).answer x.slot .done 0 (clockReply old)

end Sys2Proof.Machine
end

