-- ==== Sys2Proof/Machine/Tick.lean ====
section
/-! DEFINITION. The tick event (R40) and its parts: tick close, capture completion, second close, period end, mark and
calibration completion. TICK_EVENT carries the tick event to its end. The rows of its parts carry it as far as the place of
their part, so that a request that coincides with it can stand between two parts (R146, R178); later commands finish what of it
they may not fall into (log entry 2). -/

namespace Sys2Proof.Machine

open Sys2Proof

/-! ## The stages of a tick event -/

/-- A tick event begins (R40): outside MEASURING the clock steps and nothing else happens (R41, R42); in MEASURING an open
collection ends (R27) and the open tick's heads wait to be settled. With no tick open (the first tick event after START or
UNPARK) there is no close. -/
def State.beginTick (s : State) : State :=
  match s.stage with
  | .idle =>
    if s.timerRuns then
      if s.run = .measuring then
        if s.link.tickOpen.isSome then
          let t := s.endCollection
          { t with stage := .closing (allHeads.filter (fun h => decide ((t.head h).state ≠ .off))) }
        else { s with stage := .secondClosed false }
      else { s with clock := s.clock.step }
    else s
  | _ => s

/-- Settle one head that is not settled yet. -/
def State.closeHead (s : State) (h : Fin 12) : State :=
  match s.stage with
  | .closing todo => { s.settleHead h with stage := .closing (todo.erase h) }
  | _ => s

/-- Settle every head not settled yet (R27), then a capture takes its samples (R155). -/
def State.closeTick (s : State) : State :=
  match s.stage with
  | .closing todo => { (todo.foldl State.settleHead s).takeSamples with stage := .closed }
  | _ => s

/-- A capture whose post counter reached 0 completes (R159). -/
def State.captureStage (s : State) : State :=
  match s.stage with
  | .closed => { s.completeIfDue with stage := .captured }
  | _ => s

/-- The bad-frame note is examined at a second close (R36). -/
def State.examineNote (s : State) : State :=
  if s.link.badNote then State.raise { s with link := { s.link with badNote := false } } .link else s

/-- The second close (R42): LINK, the second values and pages, the evaluations, the clearing of the second accumulators. -/
def State.closeSecond (s : State) : State :=
  let st : Stamp := { day := s.clock.day, second := s.clock.second }
  let t := (s.examineNote.writePages st).evalSecond s.clock
  { t.clearSeconds with lastClosed := st }

/-- The second close of a tick event: made when the tick closed is tick 31; a pending clock setting is then applied (R49). -/
def State.secondStage (s : State) : State :=
  match s.stage with
  | .captured =>
    if s.clock.tick = 31 then
      let t := s.closeSecond
      match t.clockSetting with
      | some x => { t.replaceStep x with stage := .secondClosed true }
      | none => { t with stage := .secondClosed false }
    else { s with stage := .secondClosed false }
  | _ => s

/-- An ALIGNED end is due (R45): a second has just closed, the period is open, and the second after the step is a multiple
of P. -/
def State.alignedDue (s : State) : Bool :=
  s.link.tickOpen.isSome && decide (s.clock.tick = 31) && s.period.isOpen && atBoundary s.clock s.periodP

/-- The clock steps (R41), an ALIGNED end is made when due (R47) and the next period begins; the first tick event of a run
begins its first period (R44). A step replaced by a clock setting does none of this (R49). -/
def State.periodStage (s : State) : State :=
  match s.stage with
  | .secondClosed true => { s with stage := .stepped }
  | .secondClosed false =>
    let closed := s.clock
    let t := { s with clock := closed.step }
    let t :=
      if s.link.tickOpen.isNone then t.beginPeriod true
      else if s.alignedDue then (t.endPeriod .aligned t.period.plannedLength closed).beginPeriod false
      else t
    { t with stage := .stepped }
  | _ => s

/-- The next mark is sent (R19): the enabled fields are read (R29), the mark count goes up, the receiver and the frame
buffers start empty. -/
def State.markStage (s : State) : State :=
  match s.stage with
  | .stepped =>
    let t := allHeads.foldl State.markHead s
    { t with
      stage := .marked
      link := { t.link with
        receiver := .quiet
        buffers := Vector.replicate 12 none
        tickOpen := some t.link.nextMark
        nextMark := t.link.nextMark + 1 } }
  | _ => s

/-- Every calibration that is due completes, after every period end of this tick event, a CUT end at the mark among them, so
that the first level its trim affects is formed at the next tick close (R68, R72); the tick event is over. -/
def State.calibrationStage (s : State) : State :=
  match s.stage with
  | .marked => { allHeads.foldl State.completeCalibration s with stage := .idle }
  | _ => s

/-- Carry a begun tick close to its end, with the second close that falls on it; nothing when none is in progress. -/
def State.finishClose (s : State) : State := s.closeTick.captureStage.secondStage

/-- Carry a begun tick event to its end; nothing when none is in progress. -/
def State.finishTick (s : State) : State := s.finishClose.periodStage.markStage.calibrationStage

/-- Carry a begun tick event to its mark, which is not sent: where STOP and PARK stand that are taken after the tick close and
before the mark (R178). A tick event past its mark is carried to its end. -/
def State.finishBeforeMark (s : State) : State := s.finishClose.periodStage.calibrationStage

/-! ## The commands -/

/-- TICK_EVENT (R40): begin a tick event unless one is in progress, and carry it to its end. -/
def execTickEvent (s : State) : Host.Outcome State Fault Refusal := .next s.beginTick.finishTick

/-- FRAME (R24): characters arrive on the pair. -/
def execFrame (chars : List PairChar) (s : State) : Host.Outcome State Fault Refusal :=
  .next (s.finishTick.receiveAll chars)

/-- Head h is to be settled now and completes its join (R30). -/
def State.joinDue (s : State) (h : Fin 12) : Bool :=
  match s.stage with
  | .closing todo =>
    todo.contains h && decide ((s.head h).state = .joining) && decide (4 ≤ (s.head h).join + 1) && (s.buffer h).isSome
  | _ => false

/-- Head h is to be settled now and is lost (R31). -/
def State.lossDue (s : State) (h : Fin 12) : Bool :=
  match s.stage with
  | .closing todo =>
    todo.contains h && decide ((s.head h).state = .active) && decide (32 ≤ (s.head h).miss + 1) && (s.buffer h).isNone
  | _ => false

/-- JOIN_COMPLETE (R30): the tick event is carried as far as the settling of head h, whose join completes. -/
def execJoinComplete (h : Fin 12) (s : State) : Host.Outcome State Fault Refusal :=
  if s.beginTick.joinDue h then .next (s.beginTick.closeHead h) else .next s

/-- HEAD_LOST (R31): the tick event is carried as far as the settling of head h, which is lost. -/
def execHeadLost (h : Fin 12) (s : State) : Host.Outcome State Fault Refusal :=
  if s.beginTick.lossDue h then .next (s.beginTick.closeHead h) else .next s

/-- CAPTURE_COMPLETE (R159): the tick event is carried as far as the end of its tick close, where a capture whose post counter
has reached 0 completes. -/
def execCaptureComplete (s : State) : Host.Outcome State Fault Refusal :=
  if s.run = .measuring then .next s.beginTick.closeTick.captureStage else .next s

/-- SECOND_CLOSE (R42): the tick event is carried as far as the second close, which is made when the tick closed is tick 31. -/
def execSecondClose (s : State) : Host.Outcome State Fault Refusal :=
  if s.run = .measuring then .next s.beginTick.finishClose else .next s

/-- PERIOD_END (R47): the tick event is carried as far as the clock step, where an ALIGNED end that is due is made and the next
period begins. -/
def execPeriodEnd (s : State) : Host.Outcome State Fault Refusal :=
  if s.run = .measuring then .next s.beginTick.finishClose.periodStage else .next s

/-- CALIBRATION_COMPLETE (R68, R72): the tick event is carried past its mark, and head h's calibration completes. -/
def execCalibrationComplete (h : Fin 12) (s : State) : Host.Outcome State Fault Refusal :=
  let t := s.beginTick.finishClose.periodStage.markStage
  if decide (t.stage = .marked) && t.calibrationDue h then .next (t.completeCalibration h) else .next s

end Sys2Proof.Machine
end

