-- ==== Sys2Proof/Machine/Reset.lean ====
section
/-! DEFINITION. Pin reset, RESTART and the end of STARTING (R96 to R98, and each block's reset rule: R39, R52, R69, R75, R109,
R116, R133, R134, R149, R169). -/

namespace Sys2Proof.Machine

open Sys2Proof

/-- The areas that a RESTART keeps: head settings and staged limit set (R96). -/
def keptByRestart (a : Nat) : Bool :=
  (decide (Config.headSettingsBase ≤ a) && decide (a < Config.headSettingsBase + 12 * 16)) ||
    (decide (Config.stagedBase ≤ a) && decide (a < Config.stagedBase + 512))

/-- A pin reset ends: RESET# goes high with BW at `wide`, and every block takes its pin-reset values (R98). The queue of
waiting commands is the model's own and is kept. -/
def State.pinReset (s : State) (wide : Bool) : State :=
  { State.reset with pending := s.pending, port := Port.reset wide }

/-- A RESTART (R96): every block takes its RESTART values. Kept: the clock (R52), the trims (R39), the notice mask, BW (R78),
the head settings and the staged limit set. -/
def State.restartPart (s : State) : State :=
  { State.reset with
    pending := s.pending
    clock := s.clock
    heads := Vector.ofFn (fun h : Fin 12 => Head.reset (s.head h).trim)
    store := s.store.restrict keptByRestart
    port := { Port.reset s.port.wide with readOut := s.port.readOut }
    notices := { pending := 0, mask := s.notices.mask } }

/-- PIN_RESET (R98): RESET# low holds the port inert; RESET# high ends the reset. -/
def execPinReset (pin : ResetPin) (s : State) : Host.Outcome State Fault Refusal :=
  match pin with
  | .low => .next { s.finishTick with resetLow := true }
  | .high wide => .next (s.pinReset wide)

/-- END_OF_STARTING (R98): the store clearing is complete, the part-owned areas get their reset content (the live pages
closed with stamp 0, R60, R115; the other part-owned areas are views of the state) and the run state becomes STOPPED. -/
def execEndOfStarting (s : State) : Host.Outcome State Fault Refusal :=
  let t := s.finishTick
  if t.run = .starting ∧ t.resetLow = false then
    .next { t.writeClosedPages { day := 0, second := 0 } with run := .stopped }
  else .next t

end Sys2Proof.Machine
end

