-- ==== Sys2Proof/Machine/Port.lean ====
section
/-! DEFINITION. The window port (05_common_store_window_port_and_notices.md): the store as the host sees it, register writes
and reads, WDAT accesses in both widths, the write check, handovers. -/

namespace Sys2Proof.Machine

open Sys2Proof

/-! ## The part-owned views of the store -/

/-- The entries of an arrival list as the control block shows them: 0xFFFF at and beyond the count (R90). -/
def listEntries (n : Nat) (l : List Nat) : List Word := (l.map word ++ List.replicate n 0xFFFF).take n

/-- The control block, words 0 to 109 (11 section 11.3); words 110 to 127 read 0. -/
def State.controlBlock (s : State) : List Word :=
  [Config.partCode, Config.revision, word s.run.code, setId s.live, word (lengthCode s.live), s.clock.day] ++
    words32 s.clock.second ++ [word s.clock.weekday, word s.clock.tick, flagWord s.period.isOpen, s.period.startDay] ++
    words32 s.period.startSecond ++ [word s.period.startTick] ++ words32 s.period.plannedEnd ++
    [word s.period.plannedLength, flagWord s.period.short, word s.port.dropped, s.port.lastDropped, word s.port.mispost,
      word s.trace.mode.code, word (s.traceSlotCode 0), word (s.traceSlotCode 1), word s.trace.list.length] ++
    listEntries 2 (s.trace.list.map Fin.val) ++ [word s.events.list.length] ++
    listEntries 32 (s.events.list.map Fin.val) ++ [word s.records.list.length] ++
    listEntries 48 (s.records.list.map Fin.val)

/-- A head table entry (R37; 11 section 11.5). -/
def Head.words (x : Head) : List Word :=
  [word x.state.code, word x.join, word x.miss, word x.good, word x.framing, word x.short, word x.check, word x.stale,
    word x.duplicate, word x.last.code, flagWord x.errorSeen, intWord x.trim]

/-- The areas of the store (R76), by the byte address of a word. -/
inductive Area where
  | control
  | headSettings
  | staged
  | mirror
  | headTable
  | pages
  | request (slot : Fin 8) (index : Nat)
  | events
  | traces
  | records
  | unused
  deriving DecidableEq, Repr

/-- The area a word address falls on (R76; 00_scope.md, Common store at a glance). -/
def areaOf (a : Nat) : Area :=
  if a < 0x0100 then .control
  else if a < 0x01C0 then .headSettings
  else if a < 0x0200 then .unused
  else if a < 0x0400 then .staged
  else if a < 0x0600 then .mirror
  else if a < 0x0780 then .headTable
  else if a < 0x0800 then .unused
  else if a < 0x09E0 then .pages
  else if a < 0x0A00 then .unused
  else if a < 0x0C00 then .request (Fin.ofNat 8 ((a - 0x0A00) / 64)) ((a - 0x0A00) % 64 / 2)
  else if a < 0x1000 then .events
  else if a < 0x3000 then .traces
  else if a < 0xF000 then .records
  else .unused

/-- The value a go word returns (R88). -/
def State.goWord (s : State) (n : Fin 8) : Word :=
  match (s.slot n).state with
  | .free => 0
  | .posted => 0xFFFF
  | .active => 0xFFFF
  | .answered => s.requestWord n 31

/-- The word that the store holds or shows at word address a outside STARTING (R76). -/
def State.viewWord (s : State) (a : Nat) : Word :=
  match areaOf a with
  | .control => s.controlBlock.getD (a / 2) 0
  | .mirror => setWord s.live ((a - Config.mirrorBase) / 2)
  | .headTable =>
    match headOf ((a - Config.headTableBase) / 32) with
    | none => 0
    | some h => (s.head h).words.getD ((a - Config.headTableBase) % 32 / 2) 0
  | .request n i => if i = 31 then s.goWord n else s.peekWord a
  | .unused => 0
  | .headSettings => s.peekWord a
  | .staged => s.peekWord a
  | .pages => s.peekWord a
  | .events => s.peekWord a
  | .traces => s.peekWord a
  | .records => s.peekWord a

/-- What a host word read returns: 0 in STARTING (R97) and while RESET# is low (R98). -/
def State.hostWord (s : State) (a : Nat) : Word := if s.resetLow || decide (s.run = .starting) then 0 else s.viewWord a

/-! ## Register reads (R79, R81, R95): functions of the state -/

def State.readWadr (s : State) : Word := if s.resetLow then 0 else s.port.wadr

/-- WCTL as read (R81; 11 section 11.2): bits 1..0 step mode, 2 PEEK, 3 reads 0, 5..4 run state, 14..8 mask. -/
def State.wctlValue (s : State) : Word :=
  word (s.port.step.code + (if s.port.peek then 4 else 0) + 16 * s.run.code + 256 * s.notices.mask.toNat)

def State.readWctl (s : State) : Word := if s.resetLow then 0 else s.wctlValue

/-- NTC as read (R95): bits 6..0 pending flags, 10..8 top class. -/
def State.readNtc (s : State) : Word :=
  if s.resetLow then 0 else word (s.notices.pending.toNat + 256 * s.notices.top)

/-- What a register read drives (R78). -/
def State.readRegister (s : State) (reg : PortReg) (a0 : Bool) : PortData :=
  match reg with
  | .wadr => laneData s.port.wide a0 s.readWadr
  | .wctl => laneData s.port.wide a0 s.readWctl

/-- What a read of NTC drives (R78). -/
def State.readNotices (s : State) (a0 : Bool) : PortData := laneData s.port.wide a0 s.readNtc

/-! ## Register writes -/

/-- A write of WADR (R79): in 16-bit mode bit 0 is held at 0. -/
def State.writeWadr (s : State) (a0 : Bool) (data : Word) : State :=
  let v := mergeLanes s.port.wide a0 data s.port.wadr
  { s with port := { s.port with wadr := if s.port.wide then v &&& 0xFFFE else v } }

/-- A write of WCTL without its RESTART action (R81): step mode, PEEK and mask take the values written. -/
def State.writeControl (s : State) (a0 : Bool) (data : Word) : State :=
  let v := mergeLanes s.port.wide a0 data s.wctlValue
  { s with
    port := { s.port with step := StepMode.ofCode (v.toNat % 4), peek := v.getLsbD 2 }
    notices := { s.notices with mask := (v >>> 8).setWidth 7 } }

/-- A write of WCTL (R81, R96): the fields take their values, then 1 in RESTART restarts the part, except in STARTING. -/
def State.writeWctl (s : State) (a0 : Bool) (data : Word) : State :=
  let t := s.writeControl a0 data
  if writesLow s.port.wide a0 && data.getLsbD 3 && decide (s.run ≠ .starting) then t.restartPart else t

/-- A write of NTC (R95): every class whose bit is written as 1 is cleared. -/
def State.writeNtc (s : State) (a0 : Bool) (data : Word) : State :=
  if writesLow s.port.wide a0 then
    { s with notices := { s.notices with pending := s.notices.pending &&& ~~~(data.setWidth 7) } }
  else s

/-! ## WDAT: steps, checks, handovers -/

/-- The step size of R80: 2 in 16-bit mode, 1 in 8-bit mode. -/
def Port.stepSize (p : Port) : Word := if p.wide then 2 else 1

/-- The address of the access (R80): UP_BEFORE steps WADR first. -/
def Port.accessAddr (p : Port) : Word :=
  match p.step with
  | .upBefore => p.wadr + p.stepSize
  | _ => p.wadr

/-- WADR after the access (R80). -/
def Port.addrAfter (p : Port) : Word :=
  match p.step with
  | .stay => p.wadr
  | .upAfter => p.wadr + p.stepSize
  | .upBefore => p.wadr + p.stepSize
  | .downAfter => p.wadr - p.stepSize

/-- Take the step of R80. -/
def State.stepWadr (s : State) : State := { s with port := { s.port with wadr := s.port.addrAfter } }

/-- The closing word of a FILLED record slot: word L - 1, with L the record's length word (R135). -/
def State.recordClosing (s : State) (n : Fin 48) : Nat := recordAddr n ((s.peekWord (recordAddr n 1)).toNat - 1)

/-- The closing word of a FILLED trace slot: word 16 + n * (p + q) of its header's counts (R159). -/
def State.traceClosing (s : State) (n : Fin 2) : Nat :=
  traceAddr n (16 + (s.peekWord (traceAddr n 3)).toNat *
    ((s.peekWord (traceAddr n 5)).toNat + (s.peekWord (traceAddr n 6)).toNat))

/-- What a word read at word address a would release with PEEK clear (R88, R89). -/
def State.releaseAt (s : State) (a : Nat) : Option Release :=
  match areaOf a with
  | .request n i => if i = 31 ∧ (s.slot n).state = .answered then some (.answer n) else none
  | .events => (s.events.list.find? (fun n => eventAddr n 15 = a)).map Release.event
  | .records => (s.records.list.find? (fun n => s.recordClosing n = a)).map Release.record
  | .traces => (s.trace.list.find? (fun n => s.traceClosing n = a)).map Release.trace
  | _ => none

/-- Carry out a release unless PEEK is set (R88, R89, R91). -/
def State.releaseUnlessPeek (s : State) (r : Option Release) : State :=
  match r with
  | none => s
  | some x => if s.port.peek then s else s.release x

def State.drive (s : State) (d : PortData) : State := { s with port := { s.port with readOut := d } }

/-- A 16-bit read of word address a (R80, R88, R89). -/
def State.readWord (s : State) (a : Nat) : State := (s.drive (.word (s.hostWord a))).releaseUnlessPeek (s.releaseAt a)

/-- An 8-bit read of an even address (R83): the word is latched and releases nothing. -/
def State.readEven (s : State) (a : Nat) : State :=
  let v := s.hostWord a
  let t := s.drive (.byte (v.setWidth 8))
  { t with port := { t.port with readLatch := some { addr := a, value := v, release := s.releaseAt a } } }

/-- What an 8-bit odd read takes: the latch when it names this word, else the word as it is now (R83). -/
def State.oddSource (s : State) (a : Nat) : Word × Option Release :=
  match s.port.readLatch with
  | some l => if l.addr = a then (l.value, l.release) else (s.hostWord a, s.releaseAt a)
  | none => (s.hostWord a, s.releaseAt a)

/-- An 8-bit read of the odd address of word address a (R83): the word read; the latch becomes empty. -/
def State.readOdd (s : State) (a : Nat) : State :=
  let src := s.oddSource a
  let t := s.drive (.byte ((src.1 >>> 8).setWidth 8))
  let t := { t with port := { t.port with readLatch := none } }
  t.releaseUnlessPeek src.2

/-- The data of a read that the port answers with 0 (R97, R98). -/
def State.zeroData (s : State) : PortData := if s.port.wide then .word 0 else .byte 0

/-- A WDAT read at a byte address outside STARTING. -/
def State.readAt (s : State) (a : Nat) : State :=
  if s.port.wide then s.readWord a
  else if a % 2 = 0 then s.readEven a
  else s.readOdd (a - 1)

/-- A write that the port drops (R84). -/
def State.dropWrite (s : State) (a : Nat) : State :=
  State.raise { s with port := { s.port with dropped := saturate s.port.dropped, lastDropped := word a } } .port

/-- A mispost (R85). -/
def State.mispostWrite (s : State) : State :=
  State.raise { s with port := { s.port with mispost := saturate s.port.mispost } } .port

/-- A posting (R87): the value is the post mark, the slot is POSTED and joins the queue. -/
def State.postRequest (s : State) (n : Fin 8) (v : Word) : State :=
  let t := s.setSlot n { state := .posted, postMark := v }
  { t with requests := { t.requests with queue := t.requests.queue ++ [n] } }

/-- A host word write at word address a (R84): stored, posted, misposted or dropped. -/
def State.writeWordAt (s : State) (a : Nat) (v : Word) : State :=
  match areaOf a with
  | .headSettings => s.pokeWords a [v]
  | .staged => if s.adoption.isSome then s.dropWrite a else s.pokeWords a [v]
  | .request n i =>
    if (s.slot n).state = .free then (if i = 31 then s.postRequest n v else s.pokeWords a [v])
    else if i = 31 then s.mispostWrite
    else s.dropWrite a
  | _ => s.dropWrite a

/-- The low byte of the word that an 8-bit odd write assembles (R82). -/
def State.heldLow (s : State) (a : Nat) : Byte :=
  match s.port.writeHold with
  | some x => if x.addr = a then x.low else (s.hostWord a).setWidth 8
  | none => (s.hostWord a).setWidth 8

/-- A WDAT write at a byte address outside STARTING. -/
def State.writeAt (s : State) (a : Nat) (data : Word) : State :=
  if s.port.wide then s.writeWordAt a data
  else if a % 2 = 0 then { s with port := { s.port with writeHold := some { addr := a, low := data.setWidth 8 } } }
  else
    let t := s.writeWordAt (a - 1) ((data.setWidth 8 : Byte) ++ s.heldLow (a - 1))
    { t with port := { t.port with writeHold := none } }

/-- A WDAT read (R80, R97, R98). -/
def State.wdatRead (s : State) : State :=
  if s.resetLow then s.drive s.zeroData
  else if s.run = .starting then (s.drive s.zeroData).stepWadr
  else (s.readAt s.port.accessAddr.toNat).stepWadr

/-- A WDAT write (R80, R97, R98). -/
def State.wdatWrite (s : State) (data : Word) : State :=
  if s.resetLow then s
  else if s.run = .starting then s.stepWadr
  else (s.writeAt s.port.accessAddr.toNat data).stepWadr

/-! ## The commands -/

/-- REGISTER_WRITE (R79, R81): a host write of WADR or WCTL; inert while RESET# is low (R98). -/
def execRegisterWrite (reg : PortReg) (a0 : Bool) (data : Word) (s : State) : Host.Outcome State Fault Refusal :=
  let t := s.finishTick
  if t.resetLow then .next t
  else
    match reg with
    | .wadr => .next (t.writeWadr a0 data)
    | .wctl => .next (t.writeWctl a0 data)

/-- RESTART (R96): a host write of WCTL that carries 1 in its RESTART field (in 8-bit mode, of its low byte). -/
def execRestart (data : Word) (s : State) : Host.Outcome State Fault Refusal :=
  let t := s.finishTick
  if t.resetLow then .next t else .next (t.writeWctl false (data ||| 0x0008))

/-- NTC_WRITE (R95): no effect in STARTING, inert while RESET# is low (R98). -/
def execNtcWrite (a0 : Bool) (data : Word) (s : State) : Host.Outcome State Fault Refusal :=
  let t := s.finishClose
  if t.resetLow ∨ t.run = .starting then .next t else .next (t.writeNtc a0 data)

/-- WDAT_READ (R80). -/
def execWdatRead (s : State) : Host.Outcome State Fault Refusal := .next s.finishClose.wdatRead

/-- WDAT_WRITE (R84). -/
def execWdatWrite (data : Word) (s : State) : Host.Outcome State Fault Refusal := .next (s.finishClose.wdatWrite data)

end Sys2Proof.Machine
end

