-- ==== Sys2Proof/Machine/Requests.lean ====
section
/-! DEFINITION. The request engine and the fourteen request kinds (10_requests_and_run_control.md). A request command is the
engine's taking of the oldest posted slot, which is of that kind, with its whole service (R165; log entry 4). -/

namespace Sys2Proof.Machine

open Sys2Proof

/-! ## Taking -/

/-- The engine can take a request (R165): none is in service, RESET# is high and the part is not STARTING. -/
def State.engineReady (s : State) : Bool := !s.resetLow && decide (s.run ≠ .starting) && s.requests.inService.isNone

/-- The kind word of a slot (10 section 10.1). -/
def State.kindWord (s : State) (n : Fin 8) : Word := s.requestWord n 0

/-- The tag of a slot. -/
def State.tag (s : State) (n : Fin 8) : Word := s.requestWord n 1

/-- Slot n, the oldest of the queue, is taken: it leaves the queue, becomes ACTIVE and is in service (R165). -/
def State.take (s : State) (n : Fin 8) : State :=
  let t := s.setSlot n { s.slot n with state := .active }
  { t with requests := { t.requests with queue := t.requests.queue.tail, inService := some n } }

/-- The service ends (R166). -/
def State.endService (s : State) : State := { s with requests := { s.requests with inService := none } }

/-- Take the oldest slot when its kind word passes `isKind`, cancel it when its post mark differs from its tag, else serve
it (R165). When no such slot can be taken the event does not occur and nothing changes (log entry 3). -/
def State.serve (s : State) (isKind : Word → Bool) (work : State → Fin 8 → State) : State :=
  match s.requests.queue with
  | [] => s
  | n :: _ =>
    if s.engineReady && isKind (s.kindWord n) then
      let t := s.take n
      if (s.slot n).postMark ≠ s.tag n then (t.answer n .cancelled 0 []).endService
      else (work t n).endService
    else s

/-- The kind word names this kind. -/
def isKind (k : RequestKind) (w : Word) : Bool := decide (w.toNat = k.code)

/-! ## Run control (10 section 10.4) -/

/-- START (R171, R108). -/
def State.workStart (s : State) (n : Fin 8) : State :=
  if s.run ≠ .stopped then s.answer n .wrongState 0 []
  else
    match validate s.staged with
    | some i => s.answer n .invalid i []
    | none =>
      let clock := s.clock
      let t := State.startHeads { s.adopt with run := .measuring }
      t.answer n .done 0 ([setId t.live, word (lengthCode t.live), clock.day] ++ words32 clock.second)

/-- The period end that a STOP or PARK causes (R46, R106, R176): a CUT end when a period is open, else only a pending adoption. -/
def State.cutForStop (s : State) : State :=
  if s.period.isOpen then s.endPeriod .cut (actualLength s.period s.clock) s.clock else s.completeAdoption .cut

/-- Steps 1 to 7 of R172 and R173; `trace` is what happens to the trace unit at step 2. -/
def State.stopMeasuring (s : State) (trace : State → State) : State :=
  let t := (trace s.abandonTick).cutForStop.applySetting.stopHeads
  t.writeClosedPages t.lastClosed

/-- PARK's step 2 (R173): a capture is truncated and the trace is then ARMED; other states stay. -/
def State.parkTrace (s : State) : State := s.truncateCapture .armed

/-- STOP (R172 in MEASURING, R174 in PARKED). -/
def State.workStop (s : State) (n : Fin 8) : State :=
  let clock := s.clock
  match s.run with
  | .measuring =>
    State.answer { s.stopMeasuring State.disarm with run := .stopped } n .done 0 (runReply .measuring clock)
  | .parked => State.answer { s.disarm with run := .stopped } n .done 0 (runReply .parked clock)
  | _ => s.answer n .wrongState 0 []

/-- PARK (R173). -/
def State.workPark (s : State) (n : Fin 8) : State :=
  let clock := s.clock
  match s.run with
  | .measuring =>
    State.answer { s.stopMeasuring State.parkTrace with run := .parked } n .done 0 (runReply .measuring clock)
  | _ => s.answer n .wrongState 0 []

/-- UNPARK (R175). -/
def State.workUnpark (s : State) (n : Fin 8) : State :=
  match s.run with
  | .parked => (State.startHeads { s with run := .measuring }).answer n .done 0 (runReply .parked s.clock)
  | _ => s.answer n .wrongState 0 []

/-! ## Clock and limit set -/

/-- SET CLOCK (R49). -/
def State.workSetClock (s : State) (n : Fin 8) : State :=
  let day := s.requestWord n 2
  let second := s.param n 3 + 65536 * s.param n 4
  let weekday := s.param n 5
  if 86399 < second then s.answer n .invalid 1 []
  else if 6 < weekday then s.answer n .invalid 2 []
  else if s.run = .measuring then
    match s.clockSetting with
    | some _ => s.answer n .busy 0 []
    | none => { s with clockSetting := some { day := day, second := second, weekday := weekday, slot := n } }
  else State.answer { s with clock := Clock.setTo day second weekday } n .done 0 (clockReply s.clock)

/-- ADOPT LIMITS (R104). -/
def State.workAdopt (s : State) (n : Fin 8) : State :=
  if s.adoption.isSome then s.answer n .busy 0 []
  else
    match validate s.staged with
    | some i => s.answer n .invalid i []
    | none =>
      if s.run = .measuring then { s with adoption := some n }
      else s.adopt.answer n .done 0 (s.adopt.adoptReply .none)

/-! ## Calibration and trim -/

/-- CALIBRATE (R70). -/
def State.workCalibrate (s : State) (n : Fin 8) : State :=
  match headOf (s.param n 2) with
  | none => s.answer n .invalid 0 []
  | some h =>
    let x := s.param n 3
    if x < 7000 ∨ 12000 < x then s.answer n .invalid 1 []
    else if (s.calibration h).isSome then s.answer n .busy 0 []
    else if (s.head h).state ≠ .active then s.answer n .notReady 0 []
    else s.setCalibration h { inProgress := true, count := 0, sum := 0, expected := x, slot := n }

/-- LOAD TRIM (R74). -/
def State.workLoadTrim (s : State) (n : Fin 8) : State :=
  match headOf (s.param n 2) with
  | none => s.answer n .invalid 0 []
  | some h =>
    let t := (s.requestWord n 3).toInt
    if t < -500 ∨ 500 < t then s.answer n .outOfRange 0 []
    else if (s.calibration h).isSome then s.answer n .busy 0 []
    else (s.setTrim h t).answer n .done 0 [intWord (s.head h).trim, intWord t]

/-! ## Records on request -/

/-- Head h is selected by a mask (R38, R142). -/
def selects (mask : Nat) (h : Fin 12) : Bool := mask.testBit h.val

/-- The start second shown, 0 with NO_PERIOD (R143, R145). -/
def State.shownStart (s : State) : Nat := if s.period.isOpen then s.period.startSecond else 0

/-- One SNAPSHOT head entry (R143; 11 section 11.8). -/
def State.snapshotEntry (s : State) (h : Fin 12) : List Word :=
  let a := (s.channel h).acc
  [word h.val, word (s.head h).state.code, levelWord (meanLevel a.sum.toNat a.present (s.head h).trim), levelWord a.lafMax,
    levelWord (s.lafNow h)] ++ words32 a.ticksOpen ++ words32 a.present ++ words32 a.gap ++ words32 a.calibration

/-- The heads a SNAPSHOT shows: selected and not OFF, ascending (R143). -/
def State.snapshotHeads (s : State) (mask : Nat) : List (Fin 12) :=
  allHeads.filter (fun h => selects mask h && decide ((s.head h).state ≠ .off))

/-- What follows the common header of a SNAPSHOT record (R143). -/
def State.snapshotBody (s : State) (tag : Word) (mask : Nat) : List Word :=
  [tag, flagWord (!s.period.isOpen), s.clock.day] ++ words32 s.clock.second ++ [word s.clock.tick] ++
    words32 s.shownStart ++ [word mask, word (s.snapshotHeads mask).length] ++ (s.snapshotHeads mask).flatMap s.snapshotEntry

/-- What follows the common header of a HISTOGRAM record (R145). -/
def State.histogramBody (s : State) (tag : Word) (h : Fin 12) : List Word :=
  let a := (s.channel h).acc
  let bins := filledBins a.histogram
  [tag, flagWord (!s.period.isOpen), word h.val, s.clock.day] ++ words32 s.clock.second ++ [word s.clock.tick] ++
    words32 s.shownStart ++ words32 a.present ++ [intWord (s.head h).trim, word bins.length] ++ histogramWords bins

/-- Post a record on request and answer DONE with its slot, number and length (R142, R144). -/
def State.recordOnRequest (s : State) (n : Fin 8) (kind : RecordKind) (body : List Word) (m : Fin 48) : State :=
  let t := s.postRecord kind body m
  t.answer n .done 0 ([word m.val] ++ wordsD t.records.number ++ [word (body.length + 5)])

/-- SNAPSHOT (R142, R143). -/
def State.workSnapshot (s : State) (n : Fin 8) : State :=
  let mask := s.param n 2
  if s.run ≠ .measuring then s.answer n .wrongState 0 []
  else if 4096 ≤ mask then s.answer n .invalid 0 []
  else
    match lowestFree s.records.list with
    | none => s.answer n .shelfFull 0 []
    | some m => s.recordOnRequest n .snapshot (s.snapshotBody (s.tag n) mask) m

/-- DUMP HISTOGRAM (R144, R145). -/
def State.workDump (s : State) (n : Fin 8) : State :=
  if s.run ≠ .measuring then s.answer n .wrongState 0 []
  else
    match headOf (s.param n 2) with
    | none => s.answer n .invalid 0 []
    | some h =>
      if !(s.channel h).isOpen then s.answer n .notReady 0 []
      else
        match lowestFree s.records.list with
        | none => s.answer n .shelfFull 0 []
        | some m => s.recordOnRequest n .histogram (s.histogramBody (s.tag n) h) m

/-! ## Trace requests -/

/-- The settings that an ARM TRACE adopts, or the index of its first failing parameter (R150). -/
def State.armSettings (s : State) (n : Fin 8) : Except Nat TraceSettings :=
  let mode := s.param n 2
  let scope := s.param n 3
  let source := s.param n 4
  if mode ≠ 1 ∧ mode ≠ 2 then .error 0
  else if scope ≠ 1 ∧ scope ≠ 2 then .error 1
  else if source < 1 ∨ 3 < source then .error 2
  else
    .ok
      { repeating := decide (mode = 2)
        sweep := decide (scope = 2)
        source := if source = 1 then .events else if source = 2 then .request else .both
        pre := min (s.param n 5) 64
        post := max 1 (min (s.param n 6) 440)
        retrigger := decide (s.param n 7 ≠ 0) }

/-- The reply of an ARM TRACE's DONE (R150, R182). -/
def TraceSettings.reply (x : TraceSettings) : List Word :=
  [word (if x.repeating then 2 else 1), word (if x.sweep then 2 else 1), word x.source.code, word x.pre, word x.post,
    flagWord x.retrigger]

/-- ARM TRACE (R150). -/
def State.workArm (s : State) (n : Fin 8) : State :=
  match s.trace.mode with
  | .capturing _ => s.answer n .busy 0 []
  | _ =>
    match s.armSettings n with
    | .error i => s.answer n .invalid i []
    | .ok x => State.answer { s with trace := { s.trace with mode := .armed, settings := x } } n .done 0 x.reply

/-- DISARM TRACE (R151). -/
def State.workDisarm (s : State) (n : Fin 8) : State :=
  match s.trace.mode with
  | .capturing c =>
    let t := s.disarm
    t.answer n .done 0 ([word s.trace.mode.code, word c.slot.val] ++ wordsD t.trace.number)
  | _ => s.disarm.answer n .done 0 [word s.trace.mode.code, 0xFFFF, 0, 0]

/-- The slot word of a TRACE NOW reply: 0xFFFF unless STARTED (R182). -/
def TriggerOutcome.slotWord : TriggerOutcome → Word
  | .started n => word n.val
  | _ => 0xFFFF

/-- The trigger that a TRACE NOW gives (R152). -/
def State.requestTrigger (s : State) (receptor head : Nat) : Trigger :=
  { kind := .request
    rule := 0xFFFF
    receptor := receptor
    head := head
    day := s.clock.day
    second := s.clock.second
    tick := s.clock.tick }

/-- TRACE NOW (R152). -/
def State.workTraceNow (s : State) (n : Fin 8) : State :=
  let r := s.param n 2
  let h := s.param n 3
  if s.run ≠ .measuring ∨ s.trace.mode = .disarmed then s.answer n .wrongState 0 []
  else if 5 < r ∨ receptorInUse s.live r = false then s.answer n .invalid 0 []
  else if 11 < h ∨ h ∉ (members s.live r).map Prod.fst then s.answer n .invalid 1 []
  else
    let o := s.triggerOutcome (s.requestTrigger r h)
    (s.trigger (s.requestTrigger r h)).answer n .done 0 [word o.code, o.slotWord]

/-! ## Head counters -/

/-- A head's frame counters and error-seen flag cleared (R38). -/
def Head.zeroed (x : Head) : Head :=
  { x with good := 0, framing := 0, short := 0, check := 0, stale := 0, duplicate := 0, errorSeen := false }

/-- ZERO HEAD COUNTERS (R38). -/
def State.workZero (s : State) (n : Fin 8) : State :=
  let mask := s.param n 2
  if 4096 ≤ mask then s.answer n .invalid 0 []
  else
    State.answer (allHeads.foldl (fun t h => if selects mask h then t.setHead h (t.head h).zeroed else t) s) n .done 0 []

/-! ## The commands

START and UNPARK are served between whole tick events. STOP and PARK are served there too, and also in a tick event whose parts
before the mark are done and whose mark is then never sent (R178). SNAPSHOT and DUMP HISTOGRAM are served wherever a tick
event stands, before or after each part of it (R146). The others are served before or after a tick close with its second
close, and before or after the clock step with its period end and the mark (R49, R68, R70, R106, R162; log entry 2). -/

def execStart (s : State) : Host.Outcome State Fault Refusal := .next (s.finishTick.serve (isKind .start) State.workStart)

def execStop (s : State) : Host.Outcome State Fault Refusal := .next (s.finishBeforeMark.serve (isKind .stop) State.workStop)

def execPark (s : State) : Host.Outcome State Fault Refusal := .next (s.finishBeforeMark.serve (isKind .park) State.workPark)

def execUnpark (s : State) : Host.Outcome State Fault Refusal :=
  .next (s.finishTick.serve (isKind .unpark) State.workUnpark)

def execSetClock (s : State) : Host.Outcome State Fault Refusal :=
  .next (s.finishClose.serve (isKind .setClock) State.workSetClock)

def execAdoptLimits (s : State) : Host.Outcome State Fault Refusal :=
  .next (s.finishClose.serve (isKind .adoptLimits) State.workAdopt)

def execCalibrate (s : State) : Host.Outcome State Fault Refusal :=
  .next (s.finishClose.serve (isKind .calibrate) State.workCalibrate)

def execLoadTrim (s : State) : Host.Outcome State Fault Refusal :=
  .next (s.finishClose.serve (isKind .loadTrim) State.workLoadTrim)

def execSnapshot (s : State) : Host.Outcome State Fault Refusal :=
  .next (s.serve (isKind .snapshot) State.workSnapshot)

def execDumpHistogram (s : State) : Host.Outcome State Fault Refusal :=
  .next (s.serve (isKind .dumpHistogram) State.workDump)

def execArmTrace (s : State) : Host.Outcome State Fault Refusal :=
  .next (s.finishClose.serve (isKind .armTrace) State.workArm)

def execDisarmTrace (s : State) : Host.Outcome State Fault Refusal :=
  .next (s.finishClose.serve (isKind .disarmTrace) State.workDisarm)

def execTraceNow (s : State) : Host.Outcome State Fault Refusal :=
  .next (s.finishClose.serve (isKind .traceNow) State.workTraceNow)

def execZeroHeadCounters (s : State) : Host.Outcome State Fault Refusal :=
  .next (s.finishClose.serve (isKind .zeroHeadCounters) State.workZero)

/-- UNKNOWN_KIND_REQUEST (R165): the oldest slot's kind is none of the fourteen. -/
def execUnknownKindRequest (s : State) : Host.Outcome State Fault Refusal :=
  .next (s.finishClose.serve (fun w => !isRequestKind w) (fun t n => t.answer n .unknownKind 0 []))

end Sys2Proof.Machine
end

