-- ==== Sys2Proof/Machine/Dispatch.lean ====
section
/-! DEFINITION. One arm per row of spec/opcode_table.json. -/

namespace Sys2Proof.Machine
open Sys2Proof

def exec (i : Instr) (s : State) : Host.Outcome State Fault Refusal :=
  match i with
  | .pinReset pin => Sys2Proof.Machine.execPinReset pin s
  | .endOfStarting => Sys2Proof.Machine.execEndOfStarting s
  | .restart data => Sys2Proof.Machine.execRestart data s
  | .registerWrite reg a0 data => Sys2Proof.Machine.execRegisterWrite reg a0 data s
  | .ntcWrite a0 data => Sys2Proof.Machine.execNtcWrite a0 data s
  | .wdatRead => Sys2Proof.Machine.execWdatRead s
  | .wdatWrite data => Sys2Proof.Machine.execWdatWrite data s
  | .tickEvent => Sys2Proof.Machine.execTickEvent s
  | .frame chars => Sys2Proof.Machine.execFrame chars s
  | .joinComplete head => Sys2Proof.Machine.execJoinComplete head s
  | .headLost head => Sys2Proof.Machine.execHeadLost head s
  | .calibrationComplete head => Sys2Proof.Machine.execCalibrationComplete head s
  | .captureComplete => Sys2Proof.Machine.execCaptureComplete s
  | .secondClose => Sys2Proof.Machine.execSecondClose s
  | .periodEnd => Sys2Proof.Machine.execPeriodEnd s
  | .start => Sys2Proof.Machine.execStart s
  | .stop => Sys2Proof.Machine.execStop s
  | .park => Sys2Proof.Machine.execPark s
  | .unpark => Sys2Proof.Machine.execUnpark s
  | .setClock => Sys2Proof.Machine.execSetClock s
  | .adoptLimits => Sys2Proof.Machine.execAdoptLimits s
  | .calibrate => Sys2Proof.Machine.execCalibrate s
  | .loadTrim => Sys2Proof.Machine.execLoadTrim s
  | .snapshot => Sys2Proof.Machine.execSnapshot s
  | .dumpHistogram => Sys2Proof.Machine.execDumpHistogram s
  | .armTrace => Sys2Proof.Machine.execArmTrace s
  | .disarmTrace => Sys2Proof.Machine.execDisarmTrace s
  | .traceNow => Sys2Proof.Machine.execTraceNow s
  | .zeroHeadCounters => Sys2Proof.Machine.execZeroHeadCounters s
  | .unknownKindRequest => Sys2Proof.Machine.execUnknownKindRequest s

end Sys2Proof.Machine
end

