-- ==== Sys2Proof/Safety.lean ====
section
/-! DEFINITION. What the statements speak of: the conditions under which a command has its own effect, the effects that many
commands share (an answer, a frame), and the invariants of the part. -/

namespace Sys2Proof.Machine

open Sys2Proof

/-! ## Conditions on the state -/

/-- RESET# is high and no tick event is in progress. -/
abbrev Ready (s : State) : Prop := s.stage = .idle ∧ s.resetLow = false

/-- The part is MEASURING and between two tick events. -/
abbrev Measuring (s : State) : Prop := Ready s ∧ s.run = .measuring

/-- The part is MEASURING with a tick open and no frame being collected, so that the next tick event closes that tick (R27). -/
abbrev TickClosing (s : State) : Prop := Measuring s ∧ s.link.tickOpen.isSome ∧ s.link.receiver = .quiet

/-- No tick close with its second close is half done: the state stands before a tick event, or past the second close of one. -/
def closeDone (s : State) : Bool :=
  match s.stage with
  | .closing _ => false
  | .closed => false
  | .captured => false
  | _ => true

/-- RESET# is high and no tick close with its second close is half done. -/
abbrev Settled (s : State) : Prop := closeDone s = true ∧ s.resetLow = false

/-- Where in a tick event a request of this kind is served as it stands (log entry 2): SNAPSHOT and DUMP HISTOGRAM anywhere
(R146), run control between whole tick events, STOP and PARK also just before the mark (R178), the others wherever no tick close
with its second close is half done. -/
def stageFits (k : RequestKind) (s : State) : Bool :=
  match k with
  | .snapshot => true
  | .dumpHistogram => true
  | .start => decide (s.stage = .idle)
  | .stop => decide (s.stage = .idle ∨ s.stage = .stepped)
  | .park => decide (s.stage = .idle ∨ s.stage = .stepped)
  | .unpark => decide (s.stage = .idle)
  | _ => closeDone s

/-- Slot n is the oldest POSTED slot of the queue and the engine can take it (R165). -/
abbrev Oldest (s : State) (n : Fin 8) : Prop :=
  s.resetLow = false ∧ s.run ≠ .starting ∧ s.requests.inService = none ∧ s.requests.queue.head? = some n ∧
    (s.slot n).state = .posted

/-- The oldest slot holds a request of this kind whose post mark equals its tag, so that it is served (R165). -/
abbrev Served (s : State) (n : Fin 8) (k : RequestKind) : Prop :=
  Oldest s n ∧ stageFits k s = true ∧ (s.kindWord n).toNat = k.code ∧ (s.slot n).postMark = s.tag n

/-! ## Effects -/

/-- Every byte of the store outside the ranges listed is unchanged. -/
def BytesKept (s t : State) (ranges : List (Nat × Nat)) : Prop :=
  ∀ a, (∀ r ∈ ranges, ¬(r.1 ≤ a ∧ a < r.2)) → t.store.read a = s.store.read a

/-- The bytes of words 16 to 31 of request slot n, which an answer writes (R167, R182). -/
def answerBytes (n : Fin 8) : Nat × Nat := (requestAddr n 16, requestAddr n 16 + 32)

/-- The bytes of the first `len` words of record slot n. -/
def recordBytes (n : Fin 48) (len : Nat) : Nat × Nat := (recordAddr n 0, recordAddr n 0 + 2 * len)

/-- The state with its port at 16 bits, standing at the word that holds the byte WADR now gives access to (R80). -/
def State.wordPort (s : State) : State :=
  { s with port := { s.port with wide := true, step := .stay, wadr := BitVec.ofNat 16 (s.port.accessAddr.toNat / 2 * 2) } }

/-- What a 16-bit access left in w, with the 8-bit port's own registers as the byte access in s leaves them: WADR stepped (R80),
write hold and read latch as given (R82, R83). -/
def State.bytePort (s w : State) (hold : Option WriteHold) (latch : Option ReadLatch) : State :=
  { w with port := { w.port with wide := false, step := s.port.step, wadr := s.port.addrAfter, writeHold := hold,
                                 readLatch := latch } }

/-- Exactly the classes listed are raised; no flag is cleared and the mask is kept. -/
def OnlyRaised (s t : State) (classes : List NoticeClass) : Prop :=
  (∀ c, t.isPending c = (decide (c ∈ classes) || s.isPending c)) ∧ t.notices.mask = s.notices.mask

/-- The request slot n holds an answer (R167): ANSWERED with its post mark kept, and the mark echo, reply words, detail and
answer code in its words 16 to 31. -/
def HoldsAnswer (t : State) (n : Fin 8) (mark : Word) (code : AnswerCode) (detail : Nat) (reply : List Word) : Prop :=
  t.slot n = { state := .answered, postMark := mark } ∧ t.requestWord n 16 = mark ∧
    (∀ i < 13, t.requestWord n (17 + i) = reply.getD i 0) ∧ t.requestWord n 30 = word detail ∧
    t.requestWord n 31 = word code.code

/-- Slot n has left the queue, no request is in service, and every slot but n is as it was (R165). -/
def Taken (s t : State) (n : Fin 8) : Prop :=
  t.requests.queue = s.requests.queue.tail ∧ t.requests.inService = none ∧ ∀ m, m ≠ n → t.slot m = s.slot m

/-- The oldest request, in slot n, has been taken and answered, and ANSWER is the one class raised (R165, R167). -/
def Answers (s t : State) (n : Fin 8) (code : AnswerCode) (detail : Nat) (reply : List Word) : Prop :=
  HoldsAnswer t n (s.slot n).postMark code detail reply ∧ Taken s t n ∧ OnlyRaised s t [.answer]

/-- The oldest request, in slot n, has been taken and handed over: it is ACTIVE and nothing of its slot is written (R166). -/
def HandsOver (s t : State) (n : Fin 8) : Prop :=
  t.slot n = { state := .active, postMark := (s.slot n).postMark } ∧ Taken s t n

/-- The first `len` words of record slot n are a record of this kind, number and length whose words from 4 on are `body`,
closed by the low 16 bits of the number (R135). -/
def HoldsRecord (t : State) (n : Fin 48) (kind : RecordKind) (number : DWord) (body : List Word) : Prop :=
  t.peekWord (recordAddr n 0) = word kind.code ∧ t.peekWord (recordAddr n 1) = word (body.length + 5) ∧
    t.peekWord (recordAddr n 2) = number.setWidth 16 ∧ t.peekWord (recordAddr n 3) = (number >>> 16).setWidth 16 ∧
    (∀ i, (h : i < body.length) → t.peekWord (recordAddr n (4 + i)) = body[i]) ∧
    t.peekWord (recordAddr n (4 + body.length)) = number.setWidth 16

/-- The twelve heads' entries but h's, and the twelve channels but h's, are as they were. -/
def OtherHeadsKept (s t : State) (h : Fin 12) : Prop :=
  (∀ g, g ≠ h → t.head g = s.head g) ∧ ∀ g, g ≠ h → t.channel g = s.channel g

/-- The words of a page, entry or slot stand in the store from byte address a on. -/
def HoldsWords (t : State) (a : Nat) (ws : List Word) : Prop := ∀ i, (h : i < ws.length) → t.peekWord (a + 2 * i) = ws[i]

/-- A closed head live page: state OFF, every level absent, display word blank, count and flags 0, the stamp (R60). -/
def ClosedHeadPage (t : State) (h : Fin 12) (day : Word) (second : Nat) : Prop :=
  HoldsWords t (headPageAddr h)
    ([0, 0xFFFF, 0xFFFF, 0xFFFF, 0xFFFF, 0xFFFF, 0xFFFF, 0xFFFF, 0xFFFF, 0, 0, day] ++ words32 second ++ [0, 0])

/-- A closed receptor live page (R115). -/
def ClosedReceptorPage (t : State) (r : Nat) (day : Word) (second : Nat) : Prop :=
  HoldsWords t (receptorPageAddr r) ([0xFFFF, 0xFFFF, 0xFFFF, 0xFFFF, 0, day] ++ words32 second)

/-- Every live page is written closed with this stamp (R60, R115). -/
def PagesClosed (t : State) (st : Stamp) : Prop :=
  (∀ h, ClosedHeadPage t h st.day st.second) ∧ ∀ r < 6, ClosedReceptorPage t r st.day st.second

/-- The bytes of the live pages. -/
def pageBytes : Nat × Nat := (0x0800, 0x09E0)

/-- What a pin reset and a RESTART leave alike in every block (R39, R52, R69, R75, R96, R109, R116, R133, R134, R149, R169):
everything but the clock, the trims, the store, the notice mask and the port width. -/
def BlocksReset (t : State) : Prop :=
  t.run = .starting ∧ t.resetLow = false ∧ t.stage = .idle ∧ t.lastClosed = { day := 0, second := 0 } ∧
    t.period = { isOpen := false, startDay := 0, startSecond := 0, startTick := 0, plannedEnd := 0, plannedLength := 0,
                 short := false } ∧
    t.clockSetting = none ∧ t.link.receiver = .quiet ∧ (∀ h, t.buffer h = none) ∧ t.link.nextMark = 0 ∧
    t.link.tickOpen = none ∧ t.link.badNote = false ∧
    (∀ h, t.head h =
      { state := .off, join := 0, miss := 0, returning := false, good := 0, framing := 0, short := 0, check := 0, stale := 0,
        duplicate := 0, last := .none, errorSeen := false, trim := (t.head h).trim }) ∧
    (∀ h, (t.channel h).isOpen = false ∧ (t.channel h).isPartial = false ∧ (t.channel h).cutBefore = false ∧
      (t.channel h).cutNote = false ∧ (t.channel h).fast = 0 ∧ (t.channel h).slow = 0 ∧
      (t.channel h).lastFast = none ∧ (t.channel h).lastSlow = none ∧ (t.channel h).history = [] ∧
      (t.channel h).sequence = 0 ∧ (t.channel h).sec = SecondAcc.cleared ∧ (t.channel h).acc = PeriodAcc.cleared) ∧
    (∀ h, (t.calRecord h).inProgress = false ∧ (t.calRecord h).count = 0 ∧ (t.calRecord h).sum = 0) ∧
    (∀ i, setWord t.live i = 0) ∧ t.adoption = none ∧
    (∀ n, t.rule n = { instLatch := false, certLatch := false, lastInst := none, lastPeriod := none }) ∧
    t.events = { list := [], withheld := 0, number := 0 } ∧ t.records.list = [] ∧ t.records.number = 0 ∧
    (∀ h : Fin 12, t.records.lost[h] = 0) ∧
    t.trace = { mode := .disarmed, list := [], missed := 0, number := 0,
                settings := { repeating := false, sweep := false, source := .both, pre := 0, post := 1, retrigger := false } } ∧
    (∀ n, t.slot n = { state := .free, postMark := 0 }) ∧ t.requests.queue = [] ∧ t.requests.inService = none ∧
    t.port.wadr = 0 ∧ t.port.step = .stay ∧ t.port.peek = false ∧ t.port.writeHold = none ∧ t.port.readLatch = none ∧
    t.port.dropped = 0 ∧ t.port.lastDropped = 0 ∧ t.port.mispost = 0 ∧ t.notices.pending = 0

/-- A host word write at byte address a is stored (R76). -/
abbrev WriteStores (s : State) (a : Nat) : Prop :=
  (0x0100 ≤ a ∧ a < 0x01C0) ∨ (0x0200 ≤ a ∧ a < 0x0400 ∧ s.adoption = none) ∨
    ∃ n : Fin 8, ∃ w < 31, a = requestAddr n w ∧ (s.slot n).state = .free

/-- A host word write at byte address a falls on the go word of slot n (R76). -/
abbrev WriteHitsGoWord (a : Nat) (n : Fin 8) : Prop := a = requestAddr n 31

/-- Every record listed has a length that its slot can hold, so that its closing word stands in the slot (R135). -/
abbrev RecordsReadable (s : State) : Prop :=
  ∀ m ∈ s.records.list, 1 ≤ (s.peekWord (recordAddr m 1)).toNat ∧ (s.peekWord (recordAddr m 1)).toNat ≤ 512

/-- Every trace listed has a closing word that stands in its slot (R159). -/
abbrev TracesReadable (s : State) : Prop := ∀ m ∈ s.trace.list, s.traceClosing m < traceAddr m 0 + 4096

/-- The characters of a frame from head h: its wake character and its data characters, in order (R20). On the pair they stand as
`LinkChar.onPair` writes them (R183). -/
def frameChars (h : Fin 12) (wakeStop : Bool) (data : List LinkChar) : List LinkChar :=
  { value := BitVec.ofNat 8 h.val, wake := true, stopOk := wakeStop } :: data

/-- The commands of the request engine. -/
def requestCommands : List Instr :=
  [.start, .stop, .park, .unpark, .setClock, .adoptLimits, .calibrate, .loadTrim, .snapshot, .dumpHistogram, .armTrace,
    .disarmTrace, .traceNow, .zeroHeadCounters, .unknownKindRequest]

/-- What the close of a tick makes of a head table entry (R30 to R32): the table of the head state machine. -/
def settledHead (x : Head) (valid : Bool) : Head :=
  match x.state, valid with
  | .off, _ => x
  | .joining, false => { x with join := 0 }
  | .joining, true =>
    if x.join = 3 then { x with state := .active, join := 4, miss := 0, returning := false } else { x with join := x.join + 1 }
  | .active, false => if x.miss = 31 then { x with state := .lost, miss := 32, join := 0 } else { x with miss := x.miss + 1 }
  | .active, true => { x with miss := 0 }
  | .lost, false => x
  | .lost, true => { x with state := .joining, join := 1, returning := true }

/-- Command c, taking the oldest request in slot n, refuses it with this code and detail and changes nothing else (R168). -/
def Refuses (c : Instr) (s : State) (n : Fin 8) (code : AnswerCode) (detail : Nat) : Prop :=
  ∃ t, exec c s = .next t ∧ Answers s t n code detail [] ∧ BytesKept s t [answerBytes n] ∧
    t = { s with requests := t.requests, store := t.store, notices := t.notices }

/-- The request slots that handed-over requests hold: the adoption's, the clock setting's and the calibrations' (R166). -/
def heldSlots (s : State) : List (Fin 8) :=
  s.adoption.toList ++ (s.clockSetting.map ClockSetting.slot).toList ++
    allHeads.filterMap (fun h => (s.calibration h).map Calibration.slot)

/-- Slot m is the lowest-numbered FREE slot of a shelf whose FILLED slots are listed (R130, R138, R154). -/
abbrev IsLowestFree {k : Nat} (filled : List (Fin k)) (m : Fin k) : Prop := m ∉ filled ∧ ∀ j, j < m → j ∈ filled

/-! ## Records, events and traces written out -/

/-- A word of six flags, bit 0 first (11 section 11.8). -/
def sixFlags (b0 b1 b2 b3 b4 b5 : Bool) : Word :=
  word (b0.toNat + 2 * b1.toNat + 4 * b2.toNat + 8 * b3.toNat + 16 * b4.toNat + 32 * b5.toNat)

/-- Words 4 on of head h's PERIOD record, but for the closing word, when its channel closes in state s (R62 to R64, R136, R137;
11 section 11.8). -/
def periodRecordWords (s : State) (h : Fin 12) (cut : Bool) (actual : Nat) : List Word :=
  let ch := s.channel h
  let a := ch.acc
  let trim := (s.head h).trim
  let settings := 0x0100 + 16 * h.val
  let count := fun b => a.histogram.toList.getD b 0
  let bins := if s.peekWord (settings + 2) = 0 then [] else (List.range 160).filter (fun b => count b ≠ 0)
  [word h.val, s.peekWord (settings + 4), s.peekWord (settings + 6),
    sixFlags ch.isPartial cut s.period.short (decide (a.present * 100 < (setWord s.live 2).toNat * 32 * actual))
      a.overloadSeen a.calSeen] ++
    wordsD (ch.sequence + 1) ++ [s.period.startDay] ++ words32 s.period.startSecond ++
    [word s.period.plannedLength, word actual] ++ words32 a.ticksOpen ++ words32 a.present ++ words32 a.gap ++
    words32 a.calibration ++ words32 a.overCount ++ words32 a.underCount ++ words32 a.windyCount ++
    [levelWord (meanLevel a.sum.toNat a.present trim), levelWord a.lafMax] ++ words32 a.maxOffset ++
    [levelWord a.lafMin, levelWord a.lcPeak, levelWord (percentile 10 a.histogram a.present),
      levelWord (percentile 90 a.histogram a.present), intWord trim, word s.records.lost[h], setWord s.live 0,
      word bins.length] ++
    bins.flatMap (fun b => words32 (count b % 16777216 + 16777216 * b))

/-- The FREE record slots in ascending order. -/
def freeRecordSlots (s : State) : List (Fin 48) := (List.finRange 48).filter (fun m => decide (m ∉ s.records.list))

/-- The channels of `heads`, in ascending head number, have closed in state u, and their PERIOD records have been handed over by
state t: the first ones are posted in ascending FREE slots under the next record numbers and with the lost-before count of
their head, the others are lost (R136, R138 to R140). -/
def PeriodRecordsHanded (u t : State) (heads : List (Fin 12)) (cut : Bool) (actual : Nat) : Prop :=
  (∀ i h, heads[i]? = some h →
    (∀ m, (freeRecordSlots u)[i]? = some m → t.records.lost[h] = 0 ∧
      HoldsRecord t m .period (u.records.number + BitVec.ofNat 32 (i + 1)) (periodRecordWords u h cut actual)) ∧
    ((freeRecordSlots u)[i]? = none → t.records.lost[h] = min (u.records.lost[h] + 1) 65535)) ∧
    (∀ h : Fin 12, h ∉ heads → t.records.lost[h] = u.records.lost[h]) ∧
    t.records.list = u.records.list ++ (freeRecordSlots u).take heads.length ∧
    t.records.number = u.records.number + BitVec.ofNat 32 (min heads.length (freeRecordSlots u).length) ∧
    t.isPending .record = (decide (heads ≠ [] ∧ freeRecordSlots u ≠ []) || u.isPending .record)

/-- The bytes that the records of `heads` take in the shelf when their channels close in state u. -/
def handedBytes (u : State) (heads : List (Fin 12)) (cut : Bool) (actual : Nat) : List (Nat × Nat) :=
  List.zipWith (fun m h => recordBytes m ((periodRecordWords u h cut actual).length + 5)) (freeRecordSlots u) heads

/-- The heads whose channel is open, ascending. -/
def openHeads (s : State) : List (Fin 12) := allHeads.filter (fun h => (s.channel h).isOpen)

/-- The condition of R118 for a present value v under limit and margin, with the last value of the evaluation's kind. -/
def RuleHolds (condition limit margin v : Nat) (last : Level) : Prop :=
  let near := (limit : Int) - margin ≤ v
  let rise := ∃ l, last = some l ∧ l < v
  (condition = 1 ∧ limit < v) ∨ (condition = 2 ∧ limit ≤ v) ∨ (condition = 3 ∧ near) ∨ (condition = 4 ∧ near ∧ v < limit) ∨
    (condition = 5 ∧ limit < v ∧ rise) ∨ (condition = 6 ∧ near ∧ rise) ∨ condition = 7

/-- The flags word of an event (R117; 11 section 11.7): OVER, MEET, NEAR, RISE from bit 0. -/
def comparisonWord (limit margin v : Nat) (last : Level) : Word :=
  sixFlags (decide (limit < v)) (decide (v = limit)) (decide ((limit : Int) - margin ≤ v))
    (match last with
      | none => false
      | some l => decide (l < v)) false false

/-- An event with these words 0 to 11 has been raised between s and t: posted in the lowest FREE slot under the next event number
with the withheld count, or withheld when all 32 slots are FILLED; EVENT is raised (R128 to R131). -/
def EventRaised (s t : State) (words : List Word) : Prop :=
  (∀ k, IsLowestFree s.events.list k →
    t.events = { list := s.events.list ++ [k], withheld := 0, number := s.events.number + 1 } ∧
    HoldsWords t (eventAddr k 0)
      (words ++ [word s.events.withheld] ++ wordsD (s.events.number + 1) ++ [(s.events.number + 1).setWidth 16])) ∧
    ((∀ k, k ∈ s.events.list) →
      t.events = { s.events with withheld := min (s.events.withheld + 1) 65535 } ∧ t.store = s.store) ∧
    t.isPending .event = true

/-- Rule n has raised, between s and t, an event of this kind with value v and deciding head h, judged against `last` at the
second close or period end whose clock was `closed` (R128). -/
def RuleRaised (s t : State) (kind : TriggerKind) (n : Fin 24) (v h : Nat) (last : Level) (closed : Clock) : Prop :=
  EventRaised s t
    ([bytePair kind.code n.val, bytePair (ruleMetricCode s.live n) (ruleCondition s.live n),
      bytePair (ruleReceptor s.live n) h, word v, word (ruleLimit s.live n),
      comparisonWord (ruleLimit s.live n) (ruleMargin s.live n) v last, closed.day] ++ words32 closed.second ++
      words32 s.period.startSecond ++ [setWord s.live 0])

/-- What a value function over heads gives for a member named by number (R112): nothing for a number that names no head. -/
def memberValue (value : Fin 12 → Level) (g : Nat) : Level :=
  match headOf g with
  | none => none
  | some h => value h

/-- A present tick's maximum of the second, for LAFMAX and LCPEAK rules (R112, R120). -/
def secondMaximum (s : State) (m : Metric) (h : Fin 12) : Level :=
  if (s.channel h).isOpen then (if m = .lafmax then (s.channel h).sec.lafMax else (s.channel h).sec.lcPeak) else none

/-- The floor-Leq of an open channel whose cut-before mark is clear (R16, R112, R122). -/
def countedFloor (s : State) (h : Fin 12) : Level :=
  if (s.channel h).isOpen = true ∧ (s.channel h).cutBefore = false then
    some (headLevel ((s.channel h).acc.sum.toNat / (32 * s.period.plannedLength)) (s.head h).trim)
  else none

/-- The period value of an open channel whose coverage is met, for LAEQ, LA10 and LA90 rules (R64, R66, R112, R125). -/
def coveredValue (s : State) (actual : Nat) (m : Metric) (h : Fin 12) : Level :=
  let a := (s.channel h).acc
  if (s.channel h).isOpen = true ∧ ¬(a.present * 100 < (setWord s.live 2).toNat * 32 * actual) then
    (if m = .laeq then meanLevel a.sum.toNat a.present (s.head h).trim
    else if m = .la10 then percentile 10 a.histogram a.present
    else if m = .la90 then percentile 90 a.histogram a.present
    else none)
  else none

/-- The last present level of an ACTIVE head that is not being calibrated (R112). -/
def countedLaf (s : State) (h : Fin 12) : Level :=
  if (s.head h).state = .active ∧ s.calibration h = none then (s.channel h).lastFast else none

/-- The period-to-date LAeq of an open channel (R59, R112). -/
def countedLeq (s : State) (h : Fin 12) : Level :=
  if (s.channel h).isOpen then meanLevel (s.channel h).acc.sum.toNat (s.channel h).acc.present (s.head h).trim else none

/-- The live page of an open channel's head at a second close whose state before it is u (R59, R60; 11 section 11.5). -/
def openHeadPage (u : State) (h : Fin 12) : List Word :=
  let ch := u.channel h
  let trim := (u.head h).trim
  let now := fun l : Level => if (u.head h).state = .active then l else none
  [word (u.head h).state.code, levelWord (now ch.lastFast), levelWord (now ch.lastSlow),
    levelWord (meanLevel ch.sec.sum.toNat ch.sec.present trim), levelWord ch.sec.lafMax, levelWord ch.sec.lcPeak,
    levelWord (meanLevel ch.acc.sum.toNat ch.acc.present trim), levelWord ch.acc.lafMax, displayWord (now ch.lastFast),
    word ch.sec.present,
    sixFlags (decide (ch.sec.present = 0)) (u.calibration h).isSome ch.sec.overMark false false false, u.clock.day] ++
    words32 u.clock.second ++ [0, 0]

/-- The live page of a receptor in use at a second close whose state before it is u (R113, R114; 11 section 11.5). -/
def usedReceptorPage (u : State) (r : Nat) : List Word :=
  let best := receptorValue u.live r (memberValue (countedLaf u))
  let stale := match best with
    | none => false
    | some b => allHeads.any (fun h => decide (h.val = b.2 ∧ (u.channel h).sec.present = 0))
  let missing := (members u.live r).any (fun m => (memberValue (countedLaf u) m.1).isNone)
  [levelWord (best.map Prod.fst), levelWord (best.map Prod.snd),
    levelWord ((receptorValue u.live r (memberValue (countedLeq u))).map Prod.fst), displayWord (best.map Prod.fst),
    sixFlags true stale missing false false false, u.clock.day] ++ words32 u.clock.second

/-- The capture that a trigger begins in slot m (R154): its items, and for each scope head the newest `pre` entries of its history
behind absent codes, PADDED when a history is shorter. -/
def CaptureBegun (s : State) (x : Trigger) (m : Fin 2) (c : Capture) : Prop :=
  let pre := s.trace.settings.pre
  let heads := if s.trace.settings.sweep then (members s.live x.receptor).map Prod.fst else [x.head]
  c = { slot := m, kind := x.kind, rule := x.rule, receptor := x.receptor, day := x.day, second := x.second, tick := x.tick,
        preCount := pre, postCounter := s.trace.settings.post, captured := 0, retriggers := 0, headLeft := false,
        padded := c.padded,
        scope := heads.map (fun g =>
          { head := g, pre := (List.replicate pre none ++ s.historyOf g).drop (s.historyOf g).length, post := [],
            departed := false }) } ∧
    (c.padded = true ↔ ∃ g ∈ heads, (s.historyOf g).length < pre)

/-- What the settings' source admits (R153). -/
def admitted (x : Trigger) (source : TraceSource) : Bool :=
  match source with
  | .both => decide (x.kind ≠ .period)
  | .events => decide (x.kind = .instant) || decide (x.kind = .certain)
  | .request => decide (x.kind = .request)

/-- Trigger x, given in state s, has been handled by t with this outcome (R153, R154, R157, R158). -/
def TriggerHandled (s t : State) (x : Trigger) (o : TriggerOutcome) : Prop :=
  (admitted x s.trace.settings.source = false ∨ s.trace.mode = .disarmed → t.trace = s.trace ∧ o = .ignored) ∧
    (admitted x s.trace.settings.source = true →
      (∀ m, s.trace.mode = .armed → IsLowestFree s.trace.list m → o = .started m ∧ ∃ c,
        t.trace = { s.trace with mode := .capturing c } ∧ CaptureBegun s x m c) ∧
      (s.trace.mode = .armed → (∀ m, m ∈ s.trace.list) →
        o = .missed ∧ t.trace = { s.trace with missed := min (s.trace.missed + 1) 65535 }) ∧
      ∀ c, s.trace.mode = .capturing c →
        (s.trace.settings.retrigger = true ∧ x.receptor = c.receptor → o = .retriggered ∧ ∃ d,
          d = { c with postCounter := min s.trace.settings.post (440 - c.captured)
                       retriggers := min (c.retriggers + 1) 65535 } ∧
          t.trace = { s.trace with mode := .capturing d }) ∧
        (s.trace.settings.retrigger = false ∨ x.receptor ≠ c.receptor →
          o = .missed ∧ t.trace = { s.trace with missed := min (s.trace.missed + 1) 65535 }))

/-- Between s and t an evaluation of rule n, whose condition holds or not, has raised its event and given its trigger, or done
nothing beyond the rule's own items (R117 to R120, R122, R125, R128, R132). -/
def Judged (s t : State) (kind : TriggerKind) (n : Fin 24) (v h : Nat) (last : Level) (closed : Clock) : Prop :=
  let holds := RuleHolds (ruleCondition s.live n) (ruleLimit s.live n) (ruleMargin s.live n) v last
  (¬holds → t.events = s.events ∧ t.store = s.store ∧ t.trace = s.trace ∧ t.notices = s.notices) ∧
    (holds → RuleRaised s t kind n v h last closed ∧
      (ruleTraces s.live n = true → kind ≠ .period → ∃ o, TriggerHandled s t
        { kind := kind, rule := word n.val, receptor := ruleReceptor s.live n, head := h, day := closed.day,
          second := closed.second, tick := 31 } o) ∧
      (ruleTraces s.live n = false ∨ kind = .period → t.trace = s.trace))

/-- An evaluation of rule n writes no other rule's items, and beside them only the event shelf, the trace unit, the store and the
notices. -/
def OnlyRuleTouched (s t : State) (n : Fin 24) : Prop :=
  t = { s with rules := t.rules, events := t.events, trace := t.trace, store := t.store, notices := t.notices } ∧
    (∀ k, k ≠ n → t.rule k = s.rule k) ∧ t.notices.mask = s.notices.mask ∧ (∀ c, c ≠ .event → t.isPending c = s.isPending c) ∧
    ∀ a, a < 0x0C00 ∨ 0x1000 ≤ a → t.store.read a = s.store.read a

/-- The words of a completed trace from word 0 on (R159; 11 section 11.9): the header, the samples head by head, each head's pre
samples before its post samples, and the closing word. -/
def traceWords (c : Capture) (truncated : Bool) (missed : Nat) (number : DWord) : List Word :=
  let place := fun i => (c.scope.map (fun x => x.head % 16)).getD i 15
  [word c.kind.code, c.rule, word c.receptor, word c.scope.length,
    word (place 0 + 16 * place 1 + 256 * place 2 + 4096 * place 3), word c.preCount, word c.captured, word c.retriggers,
    word missed, sixFlags c.padded truncated c.headLeft false false false, c.day] ++ words32 c.second ++ [word c.tick] ++
    wordsD number ++ c.scope.flatMap (fun x => x.pre.map levelWord ++ x.post.map levelWord) ++ [number.setWidth 16]

/-- Head h leaves ACTIVE between s and t. -/
abbrev Leaves (s t : State) (h : Fin 12) : Prop := (s.head h).state = .active ∧ (t.head h).state ≠ .active

/-- A scope head after the tick close that leads from s to t (R155, R156): departed when its head left ACTIVE, and with one more
post sample, absent for a departed head, else the newest history entry of an ACTIVE head with an open channel. -/
def sampledHead (s t : State) (x : ScopeHead) : ScopeHead :=
  let departed := x.departed || allHeads.any (fun h => decide (h.val = x.head ∧ Leaves s t h))
  let sample : Level :=
    match headOf x.head with
    | none => none
    | some h => if (t.head h).state = .active ∧ (t.channel h).isOpen = true then ((t.channel h).history.getLast?).join else none
  { x with departed := departed, post := x.post ++ [if departed then none else sample] }

/-- A capture after the tick close that leads from s to t (R155, R156). -/
def sampledCapture (s t : State) (c : Capture) : Capture :=
  { c with
    scope := c.scope.map (sampledHead s t)
    postCounter := c.postCounter - 1
    captured := c.captured + 1
    headLeft := c.headLeft || c.scope.any (fun x => allHeads.any (fun h => decide (h.val = x.head ∧ Leaves s t h))) }

/-- The request slots of the calibrations that end early at the tick close of the tick open in state s (R73): the calibration of a
head that is lost there, or of an ACTIVE head whose open channel takes a frame with FAULT clear and OVER set. -/
def endedAtClose (s : State) : List (Fin 8) :=
  allHeads.filterMap (fun h =>
    let lost := decide ((s.head h).state = .active ∧ (s.head h).miss = 31 ∧ s.buffer h = none)
    let overloaded := match s.buffer h with
      | none => false
      | some f => (s.channel h).isOpen && decide ((settledHead (s.head h) true).state = .active) && !f.faultFlag && f.overFlag
    if lost || overloaded then (s.calibration h).map Calibration.slot else none)

/-- The bytes of the trace slot that a capture which completes at the tick close from s to u writes (R155, R159). -/
def completedBytes (s u : State) : List (Nat × Nat) :=
  match s.trace.mode with
  | .capturing c =>
    if c.postCounter ≤ 1 then
      [(traceAddr c.slot 0,
        traceAddr c.slot (traceWords (sampledCapture s u c) false s.trace.missed (s.trace.number + 1)).length)]
    else []
  | _ => []

/-! ## What a mark does to the heads (R29) -/

/-- Head h is disabled at the mark sent in state v: it is not OFF and its enabled field is 0 (R29). -/
abbrev DisabledAtMark (v : State) (h : Fin 12) : Prop := (v.head h).state ≠ .off ∧ v.peekWord (0x0100 + 16 * h.val) = 0

/-- Head h is enabled at the mark sent in state v: it is OFF and its enabled field is not 0 (R29). -/
abbrev EnabledAtMark (v : State) (h : Fin 12) : Prop := (v.head h).state = .off ∧ v.peekWord (0x0100 + 16 * h.val) ≠ 0

/-- A head that leaves ACTIVE at the mark sent in state v (R34). -/
abbrev LeavesAtMark (v : State) (h : Fin 12) : Prop := DisabledAtMark v h ∧ (v.head h).state = .active

/-- The head table entry after the mark, but for a trim set by a calibration then completed (R29). -/
def markedHead (v : State) (h : Fin 12) : Head :=
  if DisabledAtMark v h then { v.head h with state := .off, join := 0, miss := 0, returning := false }
  else if EnabledAtMark v h then { v.head h with state := .joining, join := 0, miss := 0, returning := false }
  else v.head h

/-- The channel after the mark, but for the calibration-seen mark of a trim then set (R29, R53, R57, R59, R62, R67). -/
def markedChannel (v : State) (h : Fin 12) : Channel :=
  let ch := v.channel h
  if DisabledAtMark v h then
    let left := if (v.head h).state = .active then { ch with history := [], lastFast := none, lastSlow := none } else ch
    if ch.isOpen then
      { left with isOpen := false, isPartial := false, cutBefore := false, cutNote := true, sequence := ch.sequence + 1,
                  sec := SecondAcc.cleared, acc := PeriodAcc.cleared }
    else left
  else if EnabledAtMark v h then
    { ch with
      isOpen := true
      isPartial := decide (¬(v.clock.day = v.period.startDay ∧ v.clock.second = v.period.startSecond ∧
        v.clock.tick = v.period.startTick))
      cutBefore := ch.cutNote
      sec := SecondAcc.cleared
      acc := PeriodAcc.cleared }
  else ch

/-- The difference that a calibration record in progress gives when it has taken its 128 ticks, when it is in range (R72). -/
def calibratedTrim (v : State) (h : Fin 12) : Option Int :=
  match v.calibration h with
  | none => none
  | some c =>
    let diff : Int := (c.expected : Int) - rawLevel (c.sum.toNat / 128)
    if 128 ≤ c.count ∧ -500 ≤ diff ∧ diff ≤ 500 then some diff else none

/-- The heads whose channel is cut at the mark sent in state v, ascending (R62). -/
def cutAtMark (v : State) : List (Fin 12) := allHeads.filter (fun h => decide (DisabledAtMark v h) && (v.channel h).isOpen)

/-- The request slots of the calibrations that end at or after the mark sent in state v (R72, R73). -/
def endedAtMark (v : State) : List (Fin 8) :=
  allHeads.filterMap (fun h =>
    if LeavesAtMark v h ∨ v.calibrationDue h = true then (v.calibration h).map Calibration.slot else none)

/-- What is left of a tick event after its clock step (state v) leads to t: the mark is sent (R19, R183), every head follows its
enabled field (R29), cut channels hand their records with the trim they had (R62, R68), and the calibrations that are due
complete (R72); nothing else changes. -/
def MarkMade (v t : State) : Prop :=
  t = { v with stage := .idle, link := t.link, heads := t.heads, channels := t.channels, calibrations := t.calibrations,
               trace := { v.trace with mode := t.trace.mode }, records := t.records, requests := t.requests,
               store := t.store, notices := t.notices } ∧
    t.link.tickOpen = some v.link.nextMark ∧ t.link.nextMark = v.link.nextMark + 1 ∧ t.link.receiver = .quiet ∧
    t.link.badNote = v.link.badNote ∧ (∀ h, t.buffer h = none) ∧
    t.markSent = [LinkChar.onPair { value := 0xF0, wake := true, stopOk := true },
      LinkChar.onPair { value := v.link.nextMark, wake := false, stopOk := true }] ∧
    (∀ h, t.head h = { markedHead v h with trim := (calibratedTrim v h).getD (v.head h).trim }) ∧
    (∀ h, (calibratedTrim v h).isSome = true → (markedChannel v h).isOpen = true → v.period.isOpen = true →
      t.channel h = { markedChannel v h with acc := { (markedChannel v h).acc with calSeen := true } }) ∧
    (∀ h, calibratedTrim v h = none ∨ (markedChannel v h).isOpen = false ∨ v.period.isOpen = false →
      t.channel h = markedChannel v h) ∧
    PeriodRecordsHanded v t (cutAtMark v) true (actualLength v.period v.clock) ∧
    (∀ h, t.calibration h = if LeavesAtMark v h ∨ v.calibrationDue h = true then none else v.calibration h) ∧
    ((heldSlots v).Nodup → ∀ h c, v.calibration h = some c →
      (c.count < 128 → LeavesAtMark v h → HoldsAnswer t c.slot (v.slot c.slot).postMark .aborted 2
        [0xFFFF, intWord (v.head h).trim, intWord (v.head h).trim, word c.count]) ∧
      (128 ≤ c.count → HoldsAnswer t c.slot (v.slot c.slot).postMark
        (if (calibratedTrim v h).isSome then .done else .outOfRange) 0
        [word (rawLevel (c.sum.toNat / 128)), intWord (v.head h).trim,
          intWord ((calibratedTrim v h).getD (v.head h).trim), word c.count])) ∧
    (∀ n, n ∉ endedAtMark v → t.slot n = v.slot n) ∧ t.requests.queue = v.requests.queue ∧
    t.requests.inService = v.requests.inService ∧
    ((∀ c, v.trace.mode ≠ .capturing c) → t.trace = v.trace) ∧
    (∀ c, v.trace.mode = .capturing c → ∃ d, t.trace.mode = .capturing d ∧
      d = { c with
        scope := c.scope.map (fun x =>
          { x with departed := x.departed || allHeads.any (fun h => decide (h.val = x.head ∧ LeavesAtMark v h)) })
        headLeft := c.headLeft || c.scope.any (fun x => allHeads.any (fun h => decide (h.val = x.head ∧ LeavesAtMark v h))) }) ∧
    t.notices.mask = v.notices.mask ∧ (∀ c, c ≠ .record → c ≠ .answer → t.isPending c = v.isPending c) ∧
    t.isPending .answer = (decide (endedAtMark v ≠ []) || v.isPending .answer) ∧
    BytesKept v t
      (handedBytes v (cutAtMark v) true (actualLength v.period v.clock) ++ (endedAtMark v).map answerBytes)

/-- A SNAPSHOT or DUMP HISTOGRAM taken from slot n has posted this record in slot m (R138, R142, R144). -/
def RecordPosted (s t : State) (n : Fin 8) (m : Fin 48) (kind : RecordKind) (body : List Word) : Prop :=
  t = { s with records := { s.records with list := s.records.list ++ [m], number := s.records.number + 1 },
               requests := t.requests, store := t.store, notices := t.notices } ∧
    HoldsRecord t m kind (s.records.number + 1) body ∧
    HoldsAnswer t n (s.slot n).postMark .done 0
      [word m.val, (s.records.number + 1).setWidth 16, ((s.records.number + 1) >>> 16).setWidth 16, word (body.length + 5)] ∧
    Taken s t n ∧ OnlyRaised s t [.record, .answer] ∧ BytesKept s t [recordBytes m (body.length + 5), answerBytes n]

/-! ## Limit set entries in range -/

/-- The checks of a receptor entry in use (R100, R102). -/
def ReceptorInRange (l : LimitSet) (r : Nat) : Prop :=
  1 ≤ memberCount l r ∧ memberCount l r ≤ 4 ∧
    (∀ i < memberCount l r, memberHead l r i ≤ 11 ∧ -2000 ≤ memberOffset l r i ∧ memberOffset l r i ≤ 1000) ∧
    ∀ i < memberCount l r, ∀ j < i, memberHead l r j ≠ memberHead l r i

/-- The checks of a rule entry in use (R101, R102). -/
def RuleInRange (l : LimitSet) (n : Nat) : Prop :=
  ruleReceptor l n ≤ 5 ∧ receptorInUse l (ruleReceptor l n) = true ∧ 1 ≤ ruleMetricCode l n ∧ ruleMetricCode l n ≤ 5 ∧
    ruleStart l n ≤ 1439 ∧ 1 ≤ ruleEnd l n ∧ ruleEnd l n ≤ 1440 ∧ ruleStart l n ≠ ruleEnd l n ∧
    (∃ w < 7, (ruleDays l n).getLsbD w = true) ∧ ruleLimit l n ≤ 15000 ∧ ruleMargin l n ≤ 1000 ∧ ruleCondition l n ≤ 7

/-! ## Invariants -/

/-- The store is in its one canonical form, so that equal stores are equal data. -/
def StoreCanonical (s : State) : Prop := s.store.wf = true

/-- The fields of a head table entry stand in their ranges (R37). -/
def HeadInRange (x : Head) : Prop :=
  x.join ≤ 4 ∧ x.miss ≤ 32 ∧ x.good ≤ 65535 ∧ x.framing ≤ 65535 ∧ x.short ≤ 65535 ∧ x.check ≤ 65535 ∧ x.stale ≤ 65535 ∧
    x.duplicate ≤ 65535 ∧ -500 ≤ x.trim ∧ x.trim ≤ 500

/-- The largest energy that a frame can carry (R2, R183). -/
def maxEnergy : Nat := 2 ^ 48 - 1

/-- The running energies of a channel are energies, and each sum is at most its present count of them, so that it fits its
72 bits (R2, R9, R12, R13). -/
def EnergiesInRange (ch : Channel) : Prop :=
  ch.fast ≤ maxEnergy ∧ ch.slow ≤ maxEnergy ∧ ch.sec.sum.toNat ≤ ch.sec.present * maxEnergy ∧
    ch.acc.sum.toNat ≤ ch.acc.present * maxEnergy

/-- Site time, a pending clock setting, the head table, the port address, and every energy and energy sum stand in their ranges
(R2, R12, R41, R49, R37, R79). -/
def RegistersInRange (s : State) : Prop :=
  (∀ h f, s.buffer h = some f → f.aEnergy ≤ maxEnergy ∧ f.cPeak ≤ maxEnergy) ∧ (∀ h, EnergiesInRange (s.channel h)) ∧
    (∀ h, (s.calRecord h).sum.toNat ≤ (s.calRecord h).count * maxEnergy) ∧
  s.clock.tick ≤ 31 ∧ s.clock.second ≤ 86399 ∧ s.clock.weekday ≤ 6 ∧
    (∀ x, s.clockSetting = some x → x.second ≤ 86399 ∧ x.weekday ≤ 6) ∧ (∀ h, HeadInRange (s.head h)) ∧
    (s.port.wide = true → s.port.wadr.getLsbD 0 = false)

/-- The live limit set passes validation, and so does the staged set while an adoption is pending (R104, R105). -/
def LimitsValid (s : State) : Prop := validate s.live = none ∧ (s.adoption.isSome → validate s.staged = none)

/-- A release that the read latch holds is still due (R83). -/
def LatchDue (s : State) : Prop :=
  s.port.wide = false → ∀ l, s.port.readLatch = some l →
    match l.release with
    | none => True
    | some (.answer n) => (s.slot n).state = .answered
    | some (.event n) => n ∈ s.events.list
    | some (.record n) => n ∈ s.records.list
    | some (.trace n) => n ∈ s.trace.list

/-- Between commands: no request is in service, the queue holds exactly the POSTED slots without duplicates, and each ACTIVE
slot is held by exactly one handed-over request (R163 to R166). -/
def RequestsInOrder (s : State) : Prop :=
  s.requests.inService = none ∧ s.requests.queue.Nodup ∧ (∀ n, n ∈ s.requests.queue ↔ (s.slot n).state = .posted) ∧
    (heldSlots s).Nodup ∧ (∀ n, n ∈ heldSlots s ↔ (s.slot n).state = .active) ∧ LatchDue s

/-- A capture in progress can still be written into its slot: it takes at most 440 post samples per head, every scope head has
as many samples as every other, and the slot it fills is not listed (R149, R155, R157, R159). -/
def CaptureFits (s : State) (c : Capture) : Prop :=
  c.slot ∉ s.trace.list ∧ c.captured + c.postCounter ≤ 440 ∧ (c.postCounter = 0 → s.stage = .closed) ∧ c.preCount ≤ 64 ∧
    c.scope.length ≤ 4 ∧ ∀ x ∈ c.scope, x.pre.length = c.preCount ∧ x.post.length = c.captured

/-- The arrival lists name no slot twice and the trace settings and the capture stand in their ranges (R90, R149). -/
def ShelvesInOrder (s : State) : Prop :=
  s.events.list.Nodup ∧ s.records.list.Nodup ∧ s.trace.list.Nodup ∧ s.trace.settings.pre ≤ 64 ∧
    1 ≤ s.trace.settings.post ∧ s.trace.settings.post ≤ 440 ∧ ∀ c, s.trace.mode = .capturing c → CaptureFits s c

/-- A channel's counts agree: the three categories make up the ticks open, the histogram counts the present ticks, and a
closed channel holds nothing (R53, R56, R58). -/
def CountsAgree (ch : Channel) : Prop :=
  ch.acc.present + ch.acc.gap + ch.acc.calibration = ch.acc.ticksOpen ∧ ch.acc.histogram.toList.sum = ch.acc.present ∧
    (ch.acc.lafMax = none ↔ ch.acc.present = 0) ∧ (ch.isOpen = false → ch.acc = PeriodAcc.cleared ∧ ch.sec = SecondAcc.cleared)

def ChannelsAgree (s : State) : Prop := ∀ h, CountsAgree (s.channel h)

/-- Nothing is being measured: no period, no tick, no open channel, every head OFF, no handed-over request, no capture. -/
def AtRest (s : State) : Prop :=
  s.period.isOpen = false ∧ s.link.tickOpen = none ∧ s.link.receiver = .quiet ∧ s.link.badNote = false ∧
    (∀ h, s.buffer h = none) ∧ (∀ h, (s.head h).state = .off) ∧ (∀ h, s.calibration h = none) ∧ s.adoption = none ∧
    s.clockSetting = none ∧ ∀ c, s.trace.mode ≠ .capturing c

/-- Outside MEASURING the part is at rest; a channel is open exactly while its head is not OFF; only an ACTIVE head is being
calibrated, but for a completed measurement whose trim waits, past the mark, for the end of the tick event (R68; log entries 7 and
2); a tick event is in progress only while MEASURING with RESET# high (R53, R69, R73, R174). -/
def MeasuresOnlyMeasuring (s : State) : Prop :=
  (s.run ≠ .measuring → AtRest s) ∧ (∀ h, (s.channel h).isOpen = true ↔ (s.head h).state ≠ .off) ∧
    (∀ h, (s.calibration h).isSome → (s.head h).state = .active ∨ (s.stage = .marked ∧ s.calibrationDue h = true)) ∧
    (s.stage ≠ .idle → s.run = .measuring ∧ s.resetLow = false)

/-- The bytes that STOP and PARK taken in MEASURING write: the pages, the answers of the request and of the requests handed over,
the records of an open period's end, and the trace of a capture. -/
def endedBytes (s : State) (n : Fin 8) : List (Nat × Nat) :=
  [pageBytes] ++ (n :: heldSlots s).map answerBytes ++
    (if s.period.isOpen then handedBytes s (openHeads s) true (actualLength s.period s.clock) else []) ++
    match s.trace.mode with
    | .capturing c =>
      [(traceAddr c.slot 0, traceAddr c.slot (traceWords c true s.trace.missed (s.trace.number + 1)).length)]
    | _ => []

/-- What STOP and PARK taken in MEASURING have in common (R172, R173, R176): the open tick is abandoned, a capture is truncated
(R160: the missed count cleared by its completion, log entry 26; TRACE raised in SINGLE mode), an open period ends CUT, a pending
adoption and a pending clock setting are completed, every rule keeps its last values unless a set is adopted (R116), every head
goes OFF with its calibration ABORTED, or completed where its measurement is complete (R72; log entry 7), the pages are written
closed, the request itself is taken and answered DONE, and nothing else of the store or the notices changes. -/
def MeasuringEnded (s t : State) (n : Fin 8) : Prop :=
  t.link.receiver = .quiet ∧ t.link.tickOpen = none ∧ t.link.badNote = false ∧ t.link.nextMark = s.link.nextMark ∧
    (∀ h, t.buffer h = none) ∧ t.isPending .link = (s.link.badNote || s.isPending .link) ∧
    t.period = { s.period with isOpen := false } ∧
    (∀ r, s.adoption.isSome →
      t.rule r = { instLatch := false, certLatch := false, lastInst := none, lastPeriod := none }) ∧
    (∀ r, s.adoption = none →
      t.rule r = if s.period.isOpen then { s.rule r with instLatch := false, certLatch := false } else s.rule r) ∧
    (s.period.isOpen = true →
      (∀ h, (s.channel h).isOpen = true → (t.channel h).sequence = (s.channel h).sequence + 1) ∧
      PeriodRecordsHanded s t (openHeads s) true (actualLength s.period s.clock)) ∧
    (s.period.isOpen = false → t.records = s.records ∧ t.isPending .record = s.isPending .record ∧
      ∀ h, (t.channel h).sequence = (s.channel h).sequence) ∧
    (∀ c, s.trace.mode = .capturing c →
      t.trace.missed = 0 ∧ t.isPending .trace = (!s.trace.settings.repeating || s.isPending .trace)) ∧
    ((∀ c, s.trace.mode ≠ .capturing c) → t.trace.missed = s.trace.missed ∧ t.isPending .trace = s.isPending .trace) ∧
    t.notices.mask = s.notices.mask ∧ t.isPending .head = s.isPending .head ∧ t.isPending .event = s.isPending .event ∧
    t.isPending .port = s.isPending .port ∧ BytesKept s t (endedBytes s n) ∧
    (∀ h, (s.head h).state = .off → t.head h = s.head h) ∧
    (∀ h, (s.head h).state ≠ .off →
      t.head h = { s.head h with
        state := .off, join := 0, miss := 0, returning := false
        trim := if (s.head h).state = .active then (calibratedTrim s h).getD (s.head h).trim else (s.head h).trim } ∧
      (t.channel h).isOpen = false ∧ (t.channel h).acc = PeriodAcc.cleared ∧ (t.channel h).fast = (s.channel h).fast) ∧
    (∀ h, (s.head h).state = .active → (t.channel h).history = [] ∧ t.calibration h = none ∧
      ∀ c, s.calibration h = some c →
        (c.count < 128 → HoldsAnswer t c.slot (s.slot c.slot).postMark .aborted 3
          [0xFFFF, intWord (s.head h).trim, intWord (s.head h).trim, word c.count]) ∧
        (128 ≤ c.count → HoldsAnswer t c.slot (s.slot c.slot).postMark
          (if (calibratedTrim s h).isSome then .done else .outOfRange) 0
          [word (rawLevel (c.sum.toNat / 128)), intWord (s.head h).trim,
            intWord ((calibratedTrim s h).getD (s.head h).trim), word c.count])) ∧
    t.adoption = none ∧ t.live = (if s.adoption.isSome then s.staged else s.live) ∧
    (∀ m, s.adoption = some m → HoldsAnswer t m (s.slot m).postMark .done 0
      ([setWord s.staged 0, setWord s.staged 1, 2, s.clock.day] ++ words32 s.clock.second)) ∧
    t.clockSetting = none ∧ (s.clockSetting = none → t.clock = s.clock) ∧
    (∀ x, s.clockSetting = some x →
      t.clock = { day := x.day, second := x.second, weekday := x.weekday, tick := 0 } ∧
      HoldsAnswer t x.slot (s.slot x.slot).postMark .done 0
        ([s.clock.day] ++ words32 s.clock.second ++ [word s.clock.weekday, word s.clock.tick])) ∧
    PagesClosed t s.lastClosed ∧ (∀ a < 0x0800, t.store.read a = s.store.read a) ∧
    t.requests.queue = s.requests.queue.tail ∧ t.requests.inService = none ∧
    (∀ m, m ≠ n → m ∉ heldSlots s → t.slot m = s.slot m) ∧
    HoldsAnswer t n (s.slot n).postMark .done 0 ([2, s.clock.day] ++ words32 s.clock.second) ∧ t.isPending .answer = true

end Sys2Proof.Machine
end

