-- ==== Sys2Proof/WellFormed.lean ====
section
/-! DEFINITION. Which commands are well formed: what tells the rows of opcode_table.json that share a port register apart.
`exec` gives every command a meaning, well formed or not. -/

namespace Sys2Proof

/-- Bit 3 of WCTL is the RESTART field (11_formats.md, Port registers). -/
def restartBit (data : Word) : Bool := data.getLsbD 3

/-- A RESTART is a write of WCTL that carries 1 in its RESTART field; a REGISTER_WRITE of the low byte or the whole of
WCTL is one that does not (R81); a FRAME brings at least one character, each
with its start bit low (R18, R20). -/
def Instr.wellFormed : Instr → Bool
  | .restart data => restartBit data
  | .registerWrite .wctl false data => !restartBit data
  | .registerWrite .wctl true _ => true
  | .registerWrite .wadr _ _ => true
  | .frame chars => !chars.isEmpty && chars.all (fun c => !c.getLsbD 0)
  | .pinReset _ => true
  | .endOfStarting => true
  | .ntcWrite _ _ => true
  | .wdatRead => true
  | .wdatWrite _ => true
  | .tickEvent => true
  | .joinComplete _ => true
  | .headLost _ => true
  | .calibrationComplete _ => true
  | .captureComplete => true
  | .secondClose => true
  | .periodEnd => true
  | .start => true
  | .stop => true
  | .park => true
  | .unpark => true
  | .setClock => true
  | .adoptLimits => true
  | .calibrate => true
  | .loadTrim => true
  | .snapshot => true
  | .dumpHistogram => true
  | .armTrace => true
  | .disarmTrace => true
  | .traceNow => true
  | .zeroHeadCounters => true
  | .unknownKindRequest => true

end Sys2Proof
end

