-- ==== Sys2Proof/Certificates/Slice0/Obligations.lean ====
section
/-! DEFINITION. The statements about the part: what each command does, what it leaves alone, and what every step keeps.
Every command of the table has a statement whose conclusion is that it answers a next state with its own effect. -/

open Sys2Proof Sys2Proof.Machine

/-! ## The queue and the resets -/

/-- A step runs the command at the front of the queue with the queue's rest, and idles on an empty queue (the idling is the
model's choice, log entry 1). -/
def Obligations.StepRunsFrontCommand : Prop :=
  (∀ (c : Instr) (rest : List Instr) (s : State), step { s with pending := c :: rest } = exec c { s with pending := rest }) ∧
    ∀ s : State, s.pending = [] → step s = .next s

/-- PIN_RESET, RESET# going high (R98, R181): every block takes its reset values, clock and trims are 0, every class is masked, and
BW is sampled. State.reset is such a state (its width is the model's choice, log entry 5, and is not stated). The model's choices
in it (DESIGN CHOICE): that the store reads 0 already where STARTING begins, which R98 clears during STARTING (log entry 18), and
that this holds from any state, RESET# seen low or not, and keeps the queue of waiting commands (log entry 17). -/
def Obligations.PinResetResetsEveryBlock : Prop :=
  (∀ (s : State) (wide : Bool), ∃ t, exec (.pinReset (.high wide)) s = .next t ∧ BlocksReset t ∧
    t.clock = { day := 0, second := 0, weekday := 0, tick := 0 } ∧ (∀ h, (t.head h).trim = 0) ∧
    (∀ a, t.store.read a = 0) ∧ t.readWctl = 0x7F00 ∧ t.readNtc = 0x0700 ∧ t.readWadr = 0 ∧ t.noticeLow = false ∧
    t.waitLow = false ∧ t.port.wide = wide ∧ t.pending = s.pending) ∧
  BlocksReset State.reset ∧ State.reset.clock = { day := 0, second := 0, weekday := 0, tick := 0 } ∧
  (∀ h, (State.reset.head h).trim = 0) ∧ (∀ a, State.reset.store.read a = 0) ∧ State.reset.readWctl = 0x7F00 ∧
  State.reset.readNtc = 0x0700

/-- While RESET# is low the port serves nothing, every register reads 0 and NOTICE# and WAIT# are high (R98). That PIN_RESET low
keeps the rest of the state until RESET# goes high is the model's choice (DESIGN CHOICE, log entry 17), and so is that tick
events, frames and requests change nothing meanwhile (DESIGN CHOICE, log entry 3). -/
def Obligations.NothingHappensWhileResetLow : Prop :=
  (∀ s, Ready s → ∃ t, exec (.pinReset .low) s = .next t ∧ t = { s with resetLow := true } ∧ t.readWadr = 0 ∧
    t.readWctl = 0 ∧ t.readNtc = 0 ∧ t.noticeLow = false ∧ t.waitLow = false) ∧
  ∀ (s : State) (c : Instr), s.resetLow = true → s.stage = .idle → (∀ p, c ≠ .pinReset p) → ∃ t, exec c s = .next t ∧
    t = { s with port := { s.port with readOut := t.port.readOut } } ∧
    (c ≠ .wdatRead → t = s) ∧ (c = .wdatRead → t.port.readOut = if s.port.wide then .word 0 else .byte 0)

/-- END_OF_STARTING (R98, R60, R115): STARTING ends, every live page is written closed with stamp 0, the identity shows, and
the run state reads STOPPED; nothing else changes (that the store was cleared already when STARTING began is the model's
choice, log entry 18). -/
def Obligations.EndOfStartingOpensThePart : Prop :=
  ∀ s, Ready s → s.run = .starting → ∃ t, exec .endOfStarting s = .next t ∧
    t = { s with run := .stopped, store := t.store } ∧ PagesClosed t { day := 0, second := 0 } ∧
    BytesKept s t [pageBytes] ∧ t.hostWord 0 = 0x5C12 ∧ t.hostWord 2 = 1 ∧ t.hostWord 4 = 1 ∧
    t.readWctl.toNat / 16 % 4 = 1

/-- In STARTING a read returns 0 and releases nothing, a write is dropped silently, NTC writes, frames, tick events and
requests do nothing, and WADR steps after each WDAT access (R97). A RESTART restarts nothing there: step mode, PEEK and mask take
the values written, in 8-bit mode those of its low byte, and nothing else changes. That a command whose event cannot occur changes
nothing is the model's choice (log entry 3). -/
def Obligations.StartingServesNothing : Prop :=
  ∀ s, Ready s → s.run = .starting →
    exec .wdatRead s = .next { s with port := { s.port with
      wadr := s.port.addrAfter, readOut := if s.port.wide then .word 0 else .byte 0 } } ∧
    (∀ data, exec (.wdatWrite data) s = .next { s with port := { s.port with wadr := s.port.addrAfter } }) ∧
    (∀ a0 data, exec (.ntcWrite a0 data) s = .next s) ∧ (∀ chars, exec (.frame chars) s = .next s) ∧
    exec .tickEvent s = .next s ∧ (∀ c ∈ requestCommands, exec c s = .next s) ∧
    ∀ data, ∃ t, exec (.restart data) s = .next t ∧
      t = { s with port := { s.port with step := t.port.step, peek := t.port.peek },
                   notices := { s.notices with mask := t.notices.mask } } ∧
      t.port.step.code = data.toNat % 4 ∧ t.port.peek = data.getLsbD 2 ∧
      ∀ c < 7, t.notices.mask.getLsbD c = if s.port.wide then data.getLsbD (8 + c) else s.notices.mask.getLsbD c

/-- RESTART (R96): every block takes its reset values; the clock, the trims, the port width, the head settings and the staged
limit set are kept, and the mask is kept or taken from a whole-register write. A REGISTER_WRITE of WCTL that carries the bit
restarts alike (R81; the two rows for one write are the model's choice, log entry 16, and so is that the data last read stays,
log entry 6, and that the store reads 0 already where STARTING begins, which R96 clears during STARTING, log entry 18; all DESIGN
CHOICE). -/
def Obligations.RestartKeepsClockTrimsAndSettings : Prop :=
  ∀ (s : State) (data : Word), Ready s → s.run ≠ .starting → restartBit data = true → ∃ t, exec (.restart data) s = .next t ∧
    exec (.registerWrite .wctl false data) s = .next t ∧ BlocksReset t ∧ t.clock = s.clock ∧
    (∀ h, (t.head h).trim = (s.head h).trim) ∧ t.port.wide = s.port.wide ∧ t.port.readOut = s.port.readOut ∧
    (s.port.wide = true → ∀ c < 7, t.notices.mask.getLsbD c = data.getLsbD (8 + c)) ∧
    (s.port.wide = false → t.notices.mask = s.notices.mask) ∧ t.pending = s.pending ∧
    (∀ a, (0x0100 ≤ a ∧ a < 0x01C0) ∨ (0x0200 ≤ a ∧ a < 0x0400) → t.store.read a = s.store.read a) ∧
    ∀ a, ¬((0x0100 ≤ a ∧ a < 0x01C0) ∨ (0x0200 ≤ a ∧ a < 0x0400)) → t.store.read a = 0

/-! ## The window port -/

/-- REGISTER_WRITE (R78, R79, R81, R181). A write of WADR replaces the whole register with bit 0 held at 0, or one byte. A write of
WCTL without a RESTART sets step mode, PEEK and mask, byte by byte in 8-bit mode. Nothing else changes. A read of either
register gives its fields, the run state and the mask among them, whole or the byte that A0 selects. -/
def Obligations.RegisterWriteSetsItsFields : Prop :=
  (∀ (s : State) (a0 : Bool) (data : Word), Ready s → ∃ t, exec (.registerWrite .wadr a0 data) s = .next t ∧
    t = { s with port := { s.port with wadr := t.port.wadr } } ∧ (s.resetLow = false → t.readWadr = t.port.wadr) ∧
    (s.port.wide = true → t.port.wadr = data - BitVec.ofNat 16 (data.toNat % 2)) ∧
    (s.port.wide = false → a0 = false →
      t.port.wadr = BitVec.ofNat 16 (s.port.wadr.toNat / 256 * 256 + data.toNat % 256)) ∧
    (s.port.wide = false → a0 = true →
      t.port.wadr = BitVec.ofNat 16 (data.toNat % 256 * 256 + s.port.wadr.toNat % 256))) ∧
  (∀ (s : State) (a0 : Bool) (data : Word), Ready s → (restartBit data = false ∨ (s.port.wide = false ∧ a0 = true)) →
    ∃ t, exec (.registerWrite .wctl a0 data) s = .next t ∧
    t = { s with port := { s.port with step := t.port.step, peek := t.port.peek },
                 notices := { s.notices with mask := t.notices.mask } } ∧
    (s.port.wide = true ∨ a0 = false → t.port.step.code = data.toNat % 4 ∧ t.port.peek = data.getLsbD 2) ∧
    (s.port.wide = false → a0 = true → t.port.step = s.port.step ∧ t.port.peek = s.port.peek) ∧
    ∀ c < 7, t.notices.mask.getLsbD c =
      if s.port.wide then data.getLsbD (8 + c) else if a0 then data.getLsbD c else s.notices.mask.getLsbD c) ∧
  ∀ (s : State) (reg : PortReg) (a0 : Bool), s.resetLow = false →
    let v := match reg with
      | .wadr => s.readWadr
      | .wctl => s.readWctl
    s.readWadr = s.port.wadr ∧
    s.readWctl.toNat = s.port.step.code + 4 * s.port.peek.toNat + 16 * s.run.code + 256 * s.notices.mask.toNat ∧
    (s.port.wide = true → s.readRegister reg a0 = .word v) ∧
    (s.port.wide = false → s.readRegister reg a0 = .byte (BitVec.ofNat 8 (if a0 then v.toNat / 256 else v.toNat)))

/-- NTC_WRITE (R95, R93): every class whose bit is written as 1 is cleared, the others stay; in 8-bit mode only the low byte
acts. Nothing else changes. NOTICE# and the reads of NTC follow (R78, R94): NOTICE# is low exactly while a class is pending and
not masked, bits 6..0 of NTC are the pending flags, bits 10..8 the lowest-numbered such class or 7, the rest 0, whole or the byte
that A0 selects. -/
def Obligations.NtcWriteClearsWrittenClasses : Prop :=
  ∀ (s : State) (a0 : Bool) (data : Word), Settled s → s.run ≠ .starting → ∃ t, exec (.ntcWrite a0 data) s = .next t ∧
    t = { s with notices := { s.notices with pending := t.notices.pending } } ∧
    (∀ c : NoticeClass, t.isPending c = (s.isPending c && !((s.port.wide || !a0) && data.getLsbD c.number))) ∧
    let shown := fun c : NoticeClass => t.isPending c = true ∧ s.notices.mask.getLsbD c.number = false
    let ntc := t.readNtc.toNat
    let top := ntc / 256
    (t.noticeLow = true ↔ ∃ c, shown c) ∧ (∀ c : NoticeClass, t.readNtc.getLsbD c.number = t.isPending c) ∧
    t.readNtc.getLsbD 7 = false ∧ (∀ c, shown c → top ≤ c.number) ∧ (top ≠ 7 → ∃ c, shown c ∧ c.number = top) ∧ top ≤ 7 ∧
    ∀ b : Bool, (s.port.wide = true → t.readNotices b = .word t.readNtc) ∧
      (s.port.wide = false → t.readNotices b = .byte (BitVec.ofNat 8 (if b then ntc / 256 else ntc)))

/-- With RESET# high every WDAT access is made at WADR, stepped first by UP_BEFORE, and steps WADR by the step mode, whatever its
outcome and also in STARTING; NTC writes and WCTL writes without a RESTART take no step (R80). -/
def Obligations.WdatAccessStepsWadr : Prop :=
  (∀ (s : State) (c : Instr), Settled s → (c = .wdatRead ∨ ∃ data, c = .wdatWrite data) → ∃ t, exec c s = .next t ∧
    t.port.step = s.port.step ∧ t.port.peek = s.port.peek ∧ t.port.wide = s.port.wide ∧
    (s.port.step = .upBefore → s.port.accessAddr = t.port.wadr) ∧
    (s.port.step ≠ .upBefore → s.port.accessAddr = s.port.wadr) ∧
    t.port.wadr = match s.port.step with
      | .stay => s.port.wadr
      | .upAfter => s.port.wadr + (if s.port.wide then 2 else 1)
      | .upBefore => s.port.wadr + (if s.port.wide then 2 else 1)
      | .downAfter => s.port.wadr - (if s.port.wide then 2 else 1)) ∧
  ∀ (s : State) (a0 : Bool) (data : Word),
    (Settled s → ∃ t, exec (.ntcWrite a0 data) s = .next t ∧ t.port = s.port) ∧
    (Ready s → restartBit data = false → ∃ t, exec (.registerWrite .wctl a0 data) s = .next t ∧ t.port.wadr = s.port.wadr)

/-- WDAT_READ of a go word on the 16-bit port (R88, R91, R93): the value follows the slot's state; with PEEK clear an ANSWERED
slot becomes FREE, and ANSWER clears when no slot is left ANSWERED; otherwise nothing changes. -/
def Obligations.GoWordReadFreesAnsweredSlot : Prop :=
  ∀ (s : State) (n : Fin 8), Settled s → s.run ≠ .starting → s.port.wide = true → s.port.accessAddr.toNat = requestAddr n 31 →
    ∃ t, exec .wdatRead s = .next t ∧
    t.port = { s.port with wadr := s.port.addrAfter, readOut := .word (match (s.slot n).state with
      | .free => 0
      | .posted => 0xFFFF
      | .active => 0xFFFF
      | .answered => s.requestWord n 31) } ∧
    ((s.slot n).state ≠ .answered ∨ s.port.peek = true → t = { s with port := t.port }) ∧
    ((s.slot n).state = .answered → s.port.peek = false →
      t = { s with port := t.port, requests := t.requests, notices := t.notices } ∧
      t.slot n = { state := .free, postMark := (s.slot n).postMark } ∧ (∀ m, m ≠ n → t.slot m = s.slot m) ∧
      t.requests.queue = s.requests.queue ∧ t.requests.inService = s.requests.inService ∧
      t.notices.mask = s.notices.mask ∧ (∀ c, c ≠ .answer → t.isPending c = s.isPending c) ∧
      (t.isPending .answer = true ↔ s.isPending .answer = true ∧ ∃ m, m ≠ n ∧ (s.slot m).state = .answered))

/-- WDAT_READ of the closing word of a FILLED event, record or trace slot on the 16-bit port with PEEK clear (R89, R90, R93):
the word is returned, the slot leaves its list wherever it stands, and the class clears when the list becomes empty. -/
def Obligations.ClosingWordReadReleasesSlot : Prop :=
  ∀ s, Settled s → s.run ≠ .starting → s.port.wide = true → s.port.peek = false →
    (∀ n ∈ s.events.list, s.port.accessAddr.toNat = eventAddr n 15 → ∃ t, exec .wdatRead s = .next t ∧
      t = { s with port := { s.port with wadr := s.port.addrAfter, readOut := .word (s.peekWord (eventAddr n 15)) },
                   events := { s.events with list := s.events.list.erase n }, notices := t.notices } ∧
      t.notices.mask = s.notices.mask ∧ (∀ c, c ≠ .event → t.isPending c = s.isPending c) ∧
      (t.isPending .event = true ↔ s.isPending .event = true ∧ s.events.list.erase n ≠ [])) ∧
    (RecordsReadable s → ∀ n ∈ s.records.list, s.port.accessAddr.toNat = s.recordClosing n → ∃ t, exec .wdatRead s = .next t ∧
      t = { s with port := { s.port with wadr := s.port.addrAfter, readOut := .word (s.peekWord (s.recordClosing n)) },
                   records := { s.records with list := s.records.list.erase n }, notices := t.notices } ∧
      t.notices.mask = s.notices.mask ∧ (∀ c, c ≠ .record → t.isPending c = s.isPending c) ∧
      (t.isPending .record = true ↔ s.isPending .record = true ∧ s.records.list.erase n ≠ [])) ∧
    (TracesReadable s → ∀ n ∈ s.trace.list, s.port.accessAddr.toNat = s.traceClosing n → ∃ t, exec .wdatRead s = .next t ∧
      t = { s with port := { s.port with wadr := s.port.addrAfter, readOut := .word (s.peekWord (s.traceClosing n)) },
                   trace := { s.trace with list := s.trace.list.erase n }, notices := t.notices } ∧
      t.notices.mask = s.notices.mask ∧ (∀ c, c ≠ .trace → t.isPending c = s.isPending c) ∧
      (t.isPending .trace = true ↔ s.isPending .trace = true ∧ s.trace.list.erase n ≠ []))

/-- Any other WDAT_READ on the 16-bit port, and every one with PEEK set, returns what the area's rights give and changes
nothing but the port's own step and data (R76, R89, R91). The control block and the head table read word by word as 11_formats.md
lays them out, the arrival lists oldest first with 0xFFFF from the count on (R37, R51, R86, R90), in the codes of R180. The codes
of R180 that requests and rules are written in, the request kinds and the metrics, are those of its table too. -/
def Obligations.OtherReadsReleaseNothing : Prop :=
  (∀ s, Settled s → s.run ≠ .starting → s.port.wide = true →
    (s.port.peek = true ∨ ((∀ n, s.port.accessAddr.toNat ≠ requestAddr n 31) ∧
      (∀ n ∈ s.events.list, s.port.accessAddr.toNat ≠ eventAddr n 15) ∧
      (∀ n ∈ s.records.list, s.port.accessAddr.toNat ≠ s.recordClosing n) ∧
      ∀ n ∈ s.trace.list, s.port.accessAddr.toNat ≠ s.traceClosing n)) → s.port.accessAddr.getLsbD 0 = false →
    ∃ t v, exec .wdatRead s = .next t ∧
      t = { s with port := { s.port with wadr := s.port.addrAfter, readOut := .word v } } ∧
      let a := s.port.accessAddr.toNat
      ((0x0100 ≤ a ∧ a < 0x01C0) ∨ (0x0200 ≤ a ∧ a < 0x0400) ∨ (0x0800 ≤ a ∧ a < 0x09E0) ∨ (0x0C00 ≤ a ∧ a < 0xF000) ∨
        (∃ n : Fin 8, ∃ w < 31, a = requestAddr n w) → v = s.peekWord a) ∧
      ((0x01C0 ≤ a ∧ a < 0x0200) ∨ (0x0780 ≤ a ∧ a < 0x0800) ∨ (0x09E0 ≤ a ∧ a < 0x0A00) ∨ 0xF000 ≤ a → v = 0) ∧
      (∀ i < 256, a = 0x0400 + 2 * i → v = setWord s.live i) ∧
      (∀ h : Fin 12, ∀ i < 16, a = 0x0600 + 32 * h.val + 2 * i →
        let x := s.head h
        v = ([word x.state.code, word x.join, word x.miss, word x.good, word x.framing, word x.short, word x.check, word x.stale,
          word x.duplicate, word x.last.code, (if x.errorSeen then 1 else 0), BitVec.ofInt 16 x.trim, 0, 0, 0, 0] :
          List Word).getD i 0) ∧
      (∀ i < 23, a = 2 * i → v = ([0x5C12, 1, word s.run.code, setWord s.live 0, setWord s.live 1, s.clock.day] ++
        words32 s.clock.second ++
        [word s.clock.weekday, word s.clock.tick, (if s.period.isOpen then 1 else 0), s.period.startDay] ++
        words32 s.period.startSecond ++ [word s.period.startTick] ++ words32 s.period.plannedEnd ++
        [word s.period.plannedLength, (if s.period.short then 1 else 0), word s.port.dropped, s.port.lastDropped,
          word s.port.mispost, word s.trace.mode.code]).getD i 0) ∧
      (∀ n : Fin 2, a = 2 * (23 + n.val) → (n ∈ s.trace.list → v = 2) ∧
        (n ∉ s.trace.list → (∀ c, s.trace.mode ≠ .capturing c) → v = 0) ∧
        ∀ c, n ∉ s.trace.list → s.trace.mode = .capturing c → v = if c.slot = n then 1 else 0) ∧
      (a = 2 * 25 → v = word s.trace.list.length) ∧
      (∀ i < 2, a = 2 * (26 + i) → v = ((s.trace.list.map (fun n => word n.val))[i]?).getD 0xFFFF) ∧
      (a = 2 * 28 → v = word s.events.list.length) ∧
      (∀ i < 32, a = 2 * (29 + i) → v = ((s.events.list.map (fun n => word n.val))[i]?).getD 0xFFFF) ∧
      (a = 2 * 61 → v = word s.records.list.length) ∧
      (∀ i < 48, a = 2 * (62 + i) → v = ((s.records.list.map (fun n => word n.val))[i]?).getD 0xFFFF) ∧
      ∀ i, 110 ≤ i → i < 128 → a = 2 * i → v = 0) ∧
  [RunState.starting, .stopped, .measuring, .parked].map RunState.code = [0, 1, 2, 3] ∧
  [HeadState.off, .joining, .active, .lost].map HeadState.code = [0, 1, 2, 3] ∧
  [FrameKind.none, .good, .framing, .short, .check, .stale, .duplicate].map FrameKind.code = [0, 1, 2, 3, 4, 5, 6] ∧
  [TraceMode.disarmed, .armed].map TraceMode.code = [0, 1] ∧ (∀ c, TraceMode.code (.capturing c) = 2) ∧
  [StepMode.stay, .upAfter, .upBefore, .downAfter].map StepMode.code = [0, 1, 2, 3] ∧
  [TriggerKind.period, .instant, .certain, .request].map TriggerKind.code = [1, 2, 3, 4] ∧
  [RecordKind.period, .snapshot, .histogram].map RecordKind.code = [1, 2, 3] ∧
  [AnswerCode.done, .wrongState, .busy, .invalid, .shelfFull, .notReady, .outOfRange, .aborted, .cancelled,
    .unknownKind].map AnswerCode.code = [1, 2, 3, 4, 5, 6, 7, 8, 9, 10] ∧
  [AbortReason.overload, .headLost, .stopped].map AbortReason.code = [1, 2, 3] ∧
  [RequestKind.start, .stop, .park, .unpark, .setClock, .adoptLimits, .calibrate, .loadTrim, .snapshot, .dumpHistogram, .armTrace,
    .disarmTrace, .traceNow, .zeroHeadCounters].map RequestKind.code = [1, 2, 3, 4, 5, 6, 7, 8, 9, 10, 11, 12, 13, 14] ∧
  [Metric.laeq, .la10, .la90, .lafmax, .lcpeak].map Metric.code = [1, 2, 3, 4, 5] ∧
  ∀ code metric, Metric.ofCode code = some metric ↔ code = Metric.code metric

/-- WDAT_WRITE on the 16-bit port outside STARTING has exactly one of four outcomes (R84, R85, R87): stored, posted, mispost or
dropped, each with its effect and no other. That a posting leaves the stored word 31 as it was, the value being kept as the post
mark, is the model's inference (DEDUCED, log entry 24). -/
def Obligations.HostWriteHasOneOfFourOutcomes : Prop :=
  ∀ (s : State) (data : Word), Settled s → s.run ≠ .starting → s.port.wide = true → s.port.accessAddr.getLsbD 0 = false →
    let a := s.port.accessAddr.toNat
    let stepped := { s.port with wadr := s.port.addrAfter }
    ∃ t, exec (.wdatWrite data) s = .next t ∧
    (WriteStores s a → t = { s with port := stepped, store := t.store } ∧ t.peekWord a = data ∧ BytesKept s t [(a, a + 2)]) ∧
    (∀ n, WriteHitsGoWord a n → (s.slot n).state = .free →
      t = { s with port := stepped, requests := t.requests } ∧ t.slot n = { state := .posted, postMark := data } ∧
      (∀ m, m ≠ n → t.slot m = s.slot m) ∧ t.requests.queue = s.requests.queue ++ [n] ∧
      t.requests.inService = s.requests.inService) ∧
    (∀ n, WriteHitsGoWord a n → (s.slot n).state ≠ .free →
      t = { s with port := { stepped with mispost := min (s.port.mispost + 1) 65535 }, notices := t.notices } ∧
      OnlyRaised s t [.port]) ∧
    (¬WriteStores s a → (∀ n, ¬WriteHitsGoWord a n) →
      t = { s with port := { stepped with dropped := min (s.port.dropped + 1) 65535, lastDropped := s.port.accessAddr },
                   notices := t.notices } ∧
      OnlyRaised s t [.port])

/-- On the 8-bit port, in every step mode (R80). A byte written to an even address only fills the write hold. A byte written to an
odd address makes the 16-bit write of its word, with the held byte as low byte when the hold names this word, else with the low byte
that a read would return (R82). A read of an even address latches the word, returns its low byte and releases nothing. A read of
the odd address above it returns the latched high byte and releases as the 16-bit read of that word would have, under the PEEK
setting of the odd read, whatever was written to step mode, PEEK and WADR in between; with no latch for this word it is the 16-bit
read of it; and a latched value that released nothing when taken releases nothing (R83, R91). -/
def Obligations.BytePairAccessIsOneWordAccess : Prop :=
  ∀ s, Settled s → s.run ≠ .starting → s.port.wide = false →
    let a := s.port.accessAddr.toNat
    let high := fun v : Word => BitVec.ofNat 8 (v.toNat / 256)
    (a % 2 = 0 →
      (∀ data : Word, exec (.wdatWrite data) s = .next { s with port := { s.port with
        wadr := s.port.addrAfter, writeHold := some { addr := a, low := data.setWidth 8 } } }) ∧
      ∃ u w v, exec .wdatRead s = .next u ∧ exec .wdatRead s.wordPort = .next w ∧ w.port.readOut = .word v ∧
        u = { s with port := { s.port with
          wadr := s.port.addrAfter, readOut := .byte (BitVec.ofNat 8 v.toNat), readLatch := u.port.readLatch } } ∧
        (∃ l, u.port.readLatch = some l ∧ l.addr = a ∧ l.value = v) ∧
        ∀ (mode : StepMode) (peek : Bool) (wadr : Word),
          let s' := { u with port := { u.port with step := mode, peek := peek, wadr := wadr } }
          s'.port.accessAddr.toNat = a + 1 → ∃ t w', exec .wdatRead s' = .next t ∧
            exec .wdatRead { s.wordPort with port := { s.wordPort.port with peek := peek } } = .next w' ∧
            t = (s'.bytePort w' s.port.writeHold none).drive (.byte (high v))) ∧
    (a % 2 = 1 →
      (∀ data : Word, ∃ t r w v, exec (.wdatWrite data) s = .next t ∧
        exec .wdatRead { s.wordPort with port := { s.wordPort.port with peek := true } } = .next r ∧ r.port.readOut = .word v ∧
        let low : Byte := match s.port.writeHold with
          | some x => if x.addr = a - 1 then x.low else BitVec.ofNat 8 v.toNat
          | none => BitVec.ofNat 8 v.toNat
        exec (.wdatWrite (BitVec.ofNat 16 (data.toNat % 256 * 256 + low.toNat))) s.wordPort = .next w ∧
        t = s.bytePort w none s.port.readLatch) ∧
      ((∀ l, s.port.readLatch = some l → l.addr ≠ a - 1) → ∃ t w v, exec .wdatRead s = .next t ∧
        exec .wdatRead s.wordPort = .next w ∧ w.port.readOut = .word v ∧
        t = (s.bytePort w s.port.writeHold none).drive (.byte (high v))) ∧
      ∀ l, s.port.readLatch = some l → l.addr = a - 1 → ∃ t, exec .wdatRead s = .next t ∧
        t.port = { s.port with wadr := s.port.addrAfter, readLatch := none, readOut := .byte (high l.value) } ∧
        (l.release = none ∨ s.port.peek = true → t = { s with port := t.port }))

/-! ## Site clock, periods and tick events -/

/-- At each tick event outside STARTING the clock steps by the table of R41, or takes the values of a setting applied at the
second close (R49); in STARTING it stands still (R40). In STOPPED and PARKED nothing else happens (R42). That in MEASURING with
no tick open, at tick 31 with a setting pending, the clock just steps is the model's inference (DEDUCED, log entry 13). -/
def Obligations.SiteClockSteps : Prop :=
  ∀ s, Ready s → ∃ t, exec .tickEvent s = .next t ∧
    (s.run = .starting → t = s) ∧ (s.run = .stopped ∨ s.run = .parked → t = { s with clock := t.clock }) ∧
    (∀ x, s.run = .measuring → s.link.tickOpen.isSome → s.clock.tick = 31 → s.clockSetting = some x →
      t.clock = { day := x.day, second := x.second, weekday := x.weekday, tick := 0 } ∧ t.clockSetting = none) ∧
    (s.run ≠ .starting →
      (s.run ≠ .measuring ∨ s.link.tickOpen = none ∨ s.clock.tick ≠ 31 ∨ s.clockSetting = none) →
      (s.clock.tick ≤ 30 → t.clock = { s.clock with tick := s.clock.tick + 1 }) ∧
      (s.clock.tick = 31 → s.clock.second ≤ 86398 → t.clock = { s.clock with tick := 0, second := s.clock.second + 1 }) ∧
      (s.clock.tick = 31 → s.clock.second = 86399 →
        t.clock = { day := s.clock.day + 1, second := 0, weekday := (s.clock.weekday + 1) % 7, tick := 0 }))

/-- The length P in force follows the code of the live set, divides the day, and the planned end of a period that begins at a
second is the next multiple of P, at most the end of the day (R43, R44). -/
def Obligations.PlannedEndIsNextBoundary : Prop :=
  (∀ l : LimitSet, periodLength l ∣ 86400 ∧
    (lengthCode l = 0 → periodLength l = 900) ∧ (lengthCode l = 1 → periodLength l = 300) ∧
    (lengthCode l = 2 → periodLength l = 600) ∧ (lengthCode l = 3 → periodLength l = 1800) ∧
    (lengthCode l = 4 → periodLength l = 3600)) ∧
  ∀ (l : LimitSet) (second : Nat), second ≤ 86399 →
    let p := periodLength l
    second < nextBoundary p second ∧ p ∣ nextBoundary p second ∧ nextBoundary p second ≤ 86400 ∧
    nextBoundary p second ≤ second + p ∧ ∀ m, p ∣ m → second < m → nextBoundary p second ≤ m

/-- The first tick event of a run closes no tick: it begins the run's first period, SHORT, at the tick the clock then names, which
the channels of the heads that are not OFF take (R44, R53), and sends the first mark, with the mark count running on, at which
every head follows its enabled field (R19, R29). That with the clock at tick 31 it makes no second close is the model's inference
(DEDUCED, log entry 13); its parts are the model's (log entry 2). -/
def Obligations.FirstTickBeginsShortPeriod : Prop :=
  ∀ s, Measuring s → s.link.tickOpen = none → ∃ v, exec .periodEnd s = .next v ∧
    v = { s with stage := .stepped, clock := s.clock.step, period := v.period, channels := v.channels } ∧
    v.period = { isOpen := true, startDay := v.clock.day, startSecond := v.clock.second, startTick := v.clock.tick,
                 plannedEnd := nextBoundary (periodLength s.live) v.clock.second,
                 plannedLength := nextBoundary (periodLength s.live) v.clock.second - v.clock.second, short := true } ∧
    (∀ h, (s.head h).state = .off → v.channel h = { s.channel h with cutNote := false }) ∧
    (∀ h, (s.head h).state ≠ .off → v.channel h =
      { s.channel h with isOpen := true, isPartial := false, cutBefore := false, cutNote := false,
                         sec := SecondAcc.cleared, acc := PeriodAcc.cleared }) ∧
    ∃ t, exec .tickEvent s = .next t ∧ exec .tickEvent v = .next t ∧ MarkMade v t

/-- A tick event that closes a tick steps every head by the head state machine, each by its own outcome (R27, R30 to R32, R34,
R35), whatever calibrations and captures are in progress. The close writes only the answers of the calibrations that end there and
the trace of a capture that completes there (R73, R159); queue, engine and every other slot are kept. Within a second the clock then steps and nothing else happens; and
what is left of any tick event after its clock step sends the next mark (R19, R183), at which a head that is enabled enters
JOINING with an open channel and one that is disabled goes OFF, its channel cut with the trim it had (R29, R53, R62, R67, R68), and
completes the calibrations that are due. The split into parts is the model's choice (log entry 2), and so is the place of a
calibration's completion (DEDUCED, log entry 7) and the length of a cut period (DEDUCED, log entry 11). -/
def Obligations.TickEventSettlesEveryHead : Prop :=
  (∀ s, TickClosing s → (∀ h, (s.head h).state = .joining → (s.head h).join ≤ 3) →
    (∀ h, (s.head h).state = .active → (s.head h).miss ≤ 31) → ∃ u, exec .captureComplete s = .next u ∧
    u = { s with stage := .captured, link := { s.link with buffers := u.link.buffers }, heads := u.heads,
                 channels := u.channels, calibrations := u.calibrations, trace := u.trace, requests := u.requests,
                 store := u.store, notices := u.notices } ∧
    (∀ h, u.head h = settledHead (s.head h) (s.buffer h).isSome) ∧ (∀ h, (s.head h).state ≠ .off → u.buffer h = none) ∧
    BytesKept s u ((endedAtClose s).map answerBytes ++ completedBytes s u) ∧
    u.requests = { s.requests with slots := u.requests.slots } ∧ (∀ n, n ∉ endedAtClose s → u.slot n = s.slot n) ∧
    ((∀ c, s.trace.mode ≠ .capturing c) → u.trace = s.trace) ∧ u.notices.mask = s.notices.mask ∧
    (∀ c, c ≠ .head → c ≠ .trace → c ≠ .answer → u.isPending c = s.isPending c) ∧
    u.isPending .answer = (decide (endedAtClose s ≠ []) || s.isPending .answer) ∧
    u.isPending .trace = (decide (completedBytes s u ≠ [] ∧ s.trace.settings.repeating = false) || s.isPending .trace) ∧
    (u.isPending .head = true ↔ s.isPending .head = true ∨
      ∃ h, ((s.head h).state = .active ∧ (s.head h).miss = 31 ∧ s.buffer h = none) ∨
        ((s.head h).state = .joining ∧ (s.head h).join = 3 ∧ (s.buffer h).isSome ∧ (s.head h).returning = true)) ∧
    (s.clock.tick ≠ 31 → exec .periodEnd s = .next { u with stage := .stepped, clock := s.clock.step })) ∧
  (∀ s v, TickClosing s → exec .periodEnd s = .next v →
    v.stage = .stepped ∧ v.run = .measuring ∧ exec .tickEvent s = exec .tickEvent v) ∧
  ∀ v, v.stage = .stepped → v.run = .measuring → ∃ t, exec .tickEvent v = .next t ∧ MarkMade v t

/-- CAPTURE_COMPLETE carries a tick event through its tick close (DESIGN CHOICE, log entry 2), at which every open channel counts
the tick once (R54). A present tick steps the running energies (R8,
R55), which a join completed at it has seeded (R10), and enters the sums, extremes with the LAFmax offset, histogram and history
(R56, R57). A calibration tick and a gap tick hold the running energies and second accumulators (R11, R58), and a tick keeps the
channel's open flag, marks and sequence whatever its category. A calibration tick feeds the calibration (R71), which at its 128th
tick stays in progress to the end of the tick event (DEDUCED, log entry 7), or ends it ABORTED with reason OVERLOAD when its frame
has OVER set (R73). A gap tick leaves the calibration as it was (R54, R71), or ends it ABORTED with reason HEAD_LOST when the head
is lost (R73). -/
def Obligations.TickEventCountsEveryChannel : Prop :=
  ∀ s, TickClosing s → RequestsInOrder s → ∃ t, exec .captureComplete s = .next t ∧
    (∀ h, (s.head h).state = .off → t.channel h = s.channel h ∧ t.calRecord h = s.calRecord h) ∧
    ∀ h, (s.channel h).isOpen = true → (s.head h).state ≠ .off →
    let a := (s.channel h).acc
    let overSet := ((s.buffer h).map Frame.overFlag).getD false
    (∀ f, s.buffer h = some f → f.faultFlag = false → (t.head h).state = .active → s.calibration h = none →
      let c := t.channel h
      let fast0 := if (s.head h).state = .active then (s.channel h).fast else f.aEnergy
      let slow0 := if (s.head h).state = .active then (s.channel h).slow else f.aEnergy
      let level := headLevel c.fast (s.head h).trim
      let peak := headLevel f.cPeak (s.head h).trim
      (c.fast : Int) = fast0 + ((f.aEnergy : Int) - fast0) * 57 / 256 ∧
      (c.slow : Int) = slow0 + ((f.aEnergy : Int) - slow0) * 8 / 256 ∧ t.calRecord h = s.calRecord h ∧
      c = { s.channel h with
        fast := c.fast, slow := c.slow, lastFast := some level, lastSlow := some (headLevel c.slow (s.head h).trim)
        history := ((s.channel h).history ++ [some level]).drop ((s.channel h).history.length + 1 - 64)
        sec := { sum := (s.channel h).sec.sum + BitVec.ofNat 72 f.aEnergy, present := (s.channel h).sec.present + 1
                 lafMax := some (max level ((s.channel h).sec.lafMax.getD 0))
                 lcPeak := some (max peak ((s.channel h).sec.lcPeak.getD 0))
                 overMark := (s.channel h).sec.overMark || f.overFlag }
        acc := { a with
          sum := a.sum + BitVec.ofNat 72 f.aEnergy
          ticksOpen := a.ticksOpen + 1
          present := a.present + 1
          overCount := a.overCount + f.overFlag.toNat
          underCount := a.underCount + f.underFlag.toNat
          windyCount := a.windyCount + f.windyFlag.toNat
          lafMax := some (max level (a.lafMax.getD 0))
          maxOffset := if a.lafMax = none ∨ a.lafMax.getD 0 < level then
            32 * (s.clock.second - s.period.startSecond) + s.clock.tick - s.period.startTick else a.maxOffset
          lafMin := some (min level (a.lafMin.getD level))
          lcPeak := some (max peak (a.lcPeak.getD 0))
          histogram := c.acc.histogram
          overloadSeen := a.overloadSeen || f.overFlag } } ∧
      ∀ b < 160, c.acc.histogram.toList.getD b 0 =
        a.histogram.toList.getD b 0 + (if b = histogramBin level then 1 else 0)) ∧
    (∀ f c, s.buffer h = some f → f.faultFlag = false → (s.head h).state = .active → s.calibration h = some c →
      t.channel h = { s.channel h with
        history := ((s.channel h).history ++ [none]).drop ((s.channel h).history.length + 1 - 64)
        acc := { a with ticksOpen := a.ticksOpen + 1, calibration := a.calibration + 1, calSeen := true,
                        overloadSeen := a.overloadSeen || f.overFlag } } ∧
      (f.overFlag = false → t.calibration h =
        some { c with count := c.count + 1, sum := c.sum + BitVec.ofNat 72 f.aEnergy }) ∧
      (f.overFlag = true → t.calibration h = none ∧ (t.head h).trim = (s.head h).trim ∧
        HoldsAnswer t c.slot (s.slot c.slot).postMark .aborted 1
          [0xFFFF, intWord (s.head h).trim, intWord (s.head h).trim, word c.count])) ∧
    (s.buffer h = none ∨ (∃ f, s.buffer h = some f ∧ f.faultFlag = true) ∨ (t.head h).state ≠ .active →
      let c := t.channel h
      c = { s.channel h with
        fast := c.fast, slow := c.slow, lastFast := c.lastFast, lastSlow := c.lastSlow, history := c.history
        acc := { a with ticksOpen := a.ticksOpen + 1, gap := a.gap + 1, overloadSeen := a.overloadSeen || overSet } } ∧
      (¬((s.head h).state = .joining ∧ (t.head h).state = .active) →
        (t.channel h).fast = (s.channel h).fast ∧ (t.channel h).slow = (s.channel h).slow) ∧
      (∀ f, (s.head h).state = .joining → (t.head h).state = .active → s.buffer h = some f →
        (t.channel h).fast = f.aEnergy ∧ (t.channel h).slow = f.aEnergy) ∧
      (Leaves s t h → (t.channel h).history = [] ∧ (t.channel h).lastFast = none ∧ (t.channel h).lastSlow = none ∧
        t.calibration h = none ∧ ∀ x, s.calibration h = some x → HoldsAnswer t x.slot (s.slot x.slot).postMark .aborted 2
          [0xFFFF, intWord (s.head h).trim, intWord (s.head h).trim, word x.count]) ∧
      (¬Leaves s t h → t.calRecord h = s.calRecord h ∧ (t.channel h).lastFast = (s.channel h).lastFast ∧ (t.channel h).lastSlow = (s.channel h).lastSlow ∧
        (t.channel h).history = if (t.head h).state = .active then
          ((s.channel h).history ++ [none]).drop ((s.channel h).history.length + 1 - 64) else (s.channel h).history))

/-- The parts of a tick event add up: after CAPTURE_COMPLETE, SECOND_CLOSE, PERIOD_END, JOIN_COMPLETE, HEAD_LOST or
CALIBRATION_COMPLETE a TICK_EVENT carries the tick event begun to the same end as it would have alone. START, UNPARK, FRAME,
REGISTER_WRITE, RESTART, PIN_RESET low and END_OF_STARTING finish a begun tick event first. STOP and PARK finish its parts before
the mark, so that they may come after the tick close and before the mark, which is then never sent (R178). The other port accesses
and requests finish its tick close and second close; SNAPSHOT and DUMP HISTOGRAM finish nothing of it (R146). The split into parts
and what each command finishes are the model's choice (DESIGN CHOICE, log entry 2). -/
def Obligations.TickEventPartsAddUp : Prop :=
  (∀ (s u : State) (c : Instr), c ∈ [Instr.captureComplete, .secondClose, .periodEnd] → exec c s = .next u →
    exec .tickEvent u = exec .tickEvent s) ∧
  (∀ (s u : State) (h : Fin 12) (c : Instr), StoreCanonical s → RequestsInOrder s →
    c ∈ [Instr.joinComplete h, .headLost h, .calibrationComplete h] → exec c s = .next u →
    exec .tickEvent u = exec .tickEvent s) ∧
  (∀ (s : State) (c : Instr), (c ∈ [Instr.start, .unpark, .endOfStarting, .pinReset .low] ∨
    (∃ r a d, c = .registerWrite r a d) ∨ (∃ d, c = .restart d) ∨ ∃ cs, c = .frame cs) → exec c s = exec c s.finishTick) ∧
  (∀ (s : State) (c : Instr), c ∈ [Instr.stop, .park] → exec c s = exec c s.finishBeforeMark) ∧
  (∀ s : State, (s.stage = .idle → s.finishBeforeMark = s) ∧ (s.stage = .marked → s.finishBeforeMark = s.finishTick) ∧
    (s.stage ≠ .idle → s.stage ≠ .marked → s.finishBeforeMark.stage = .stepped ∧
      s.finishBeforeMark.link.nextMark = s.link.nextMark ∧
      (s.run = .measuring → exec .periodEnd s = .next s.finishBeforeMark))) ∧
  (∀ (s : State) (c : Instr), (c ∈ [Instr.setClock, .adoptLimits, .calibrate, .loadTrim, .armTrace, .disarmTrace, .traceNow,
    .zeroHeadCounters, .unknownKindRequest, .wdatRead] ∨ (∃ d, c = .wdatWrite d) ∨ ∃ a d, c = .ntcWrite a d) →
    exec c s = exec c s.finishClose) ∧
  (∀ (s : State) (c : Instr), c ∈ [Instr.snapshot, .dumpHistogram] → ∃ t, exec c s = .next t ∧ t.stage = s.stage) ∧
  ∀ s : State, s.finishTick.stage = .idle ∧ closeDone s.finishClose = true ∧
    (s.stage ≠ .idle → exec .tickEvent s = .next s.finishTick) ∧
    (s.stage ≠ .idle → s.run = .measuring → exec .secondClose s = .next s.finishClose)

/-! ## The perimeter link -/

/-- A character's form on the pair (R18, R183): a low start bit, data bits 0 to 7, the wake bit, a high stop bit. The kind of a
complete frame of fifteen data characters from a head that is not OFF (R24), and its effects (R25, R26): a GOOD frame fills the
head's buffer; any other is discarded, counted and noted; nothing else changes. The check value is that of R21: the register starts
at 0, takes each of the thirteen covered characters by exclusive-or, and shifts left eight times, with 0x07 combined in after each
shift whose outgoing bit was one. -/
def Obligations.CompleteFrameIsClassified : Prop :=
  (∀ c : LinkChar, c.onPair.getLsbD 0 = false ∧ (∀ i < 8, c.onPair.getLsbD (1 + i) = c.value.getLsbD i) ∧
    c.onPair.getLsbD 9 = c.wake ∧ c.onPair.getLsbD 10 = c.stopOk ∧ sampleChar c.onPair = some c) ∧
  (∀ p : PairChar, p.getLsbD 0 = false → ∃ c : LinkChar, sampleChar p = some c ∧ c.onPair = p) ∧
  ∀ (s : State) (h : Fin 12) (mark : Byte) (wakeStop : Bool) (data : List LinkChar), Measuring s →
    s.link.tickOpen = some mark → s.link.receiver = .quiet → (s.head h).state ≠ .off → data.length = 15 →
    (∀ c ∈ data, c.wake = false) →
    let d := data.map LinkChar.value
    let shift := fun r : Nat => if r < 128 then 2 * r else (2 * r - 256) ^^^ 0x07
    let check := fun covered : List Byte =>
      covered.foldl (fun r b => (List.range 8).foldl (fun x _ => shift x) (r ^^^ b.toNat)) 0
    let kind : FrameKind :=
      if wakeStop = false ∨ ∃ c ∈ data, c.stopOk = false then .framing
      else if (d.getD 14 0).toNat ≠ check ((d.drop 1).take 13) then .check
      else if d.getD 0 0 ≠ mark then .stale
      else if (s.buffer h).isSome then .duplicate
      else .good
    ∃ t, exec (.frame ((frameChars h wakeStop data).map LinkChar.onPair)) s = .next t ∧
    t = { s with heads := t.heads, link := t.link } ∧
    (∀ g, g ≠ h → t.head g = s.head g) ∧ (∀ g, g ≠ h → t.buffer g = s.buffer g) ∧ t.link.receiver = .quiet ∧
    t.link.tickOpen = s.link.tickOpen ∧ t.link.nextMark = s.link.nextMark ∧
    (kind = .good → t.head h = { s.head h with good := min ((s.head h).good + 1) 65535, last := .good } ∧
      t.link.badNote = s.link.badNote ∧ ∃ f, t.buffer h = some f ∧
      f.aEnergy = ((List.range 6).map (fun i => (d.getD (2 + i) 0).toNat * 256 ^ i)).sum ∧
      f.cPeak = ((List.range 6).map (fun i => (d.getD (8 + i) 0).toNat * 256 ^ i)).sum ∧
      f.overFlag = (d.getD 1 0).getLsbD 0 ∧ f.underFlag = (d.getD 1 0).getLsbD 1 ∧
      f.windyFlag = (d.getD 1 0).getLsbD 2 ∧ f.faultFlag = (d.getD 1 0).getLsbD 3) ∧
    (kind ≠ .good → t.buffer h = s.buffer h ∧ t.link.badNote = true ∧ t.head h =
      { s.head h with
        framing := if kind = .framing then min ((s.head h).framing + 1) 65535 else (s.head h).framing
        check := if kind = .check then min ((s.head h).check + 1) 65535 else (s.head h).check
        stale := if kind = .stale then min ((s.head h).stale + 1) 65535 else (s.head h).stale
        duplicate := if kind = .duplicate then min ((s.head h).duplicate + 1) 65535 else (s.head h).duplicate
        last := kind
        errorSeen := true })

/-- The receiver, character by character: a wake character in QUIET opens a collection for a head that is not OFF (R22), a data
character is stored at its next position, with the stop-bit note (R23), and data characters in QUIET, those beyond the fifteenth
among them, change nothing (R23); a FRAME may bring any piece of this (DESIGN CHOICE, log entry 23). A wake character or the close
of the tick that ends a collection before its fifteenth data character makes that frame SHORT, or FRAMING when a character lacked its stop bit (R22, R24, R26, R27). Characters have no effect outside MEASURING and before the
first mark (R18), and a head that is OFF is invisible on the link (R22, R23). After such a wake character the receiver collects for
the head that it names, or is QUIET (R22). That what does not begin with a low start bit is passed over is the model's reading of
the form in R183 (DESIGN CHOICE, log entry 23). -/
def Obligations.ShortAndUnheardFrames : Prop :=
  (∀ (s t : State) (xs ys : List PairChar), exec (.frame xs) s = .next t →
    exec (.frame (xs ++ ys)) s = exec (.frame ys) t) ∧
  (∀ (s : State) (h : Fin 12) (w : LinkChar), Measuring s → s.link.tickOpen.isSome → s.link.receiver = .quiet →
    (s.head h).state ≠ .off → w.wake = true → w.value.toNat = h.val →
    exec (.frame [w.onPair]) s = .next { s with link := { s.link with receiver := .collecting h [] (!w.stopOk) } }) ∧
  (∀ (s : State) (h : Fin 12) (chars : List Byte) (lacksStop : Bool) (c : LinkChar), Measuring s → s.link.tickOpen.isSome →
    s.link.receiver = .collecting h chars lacksStop → chars.length < 14 → c.wake = false →
    exec (.frame [c.onPair]) s = .next { s with
      link := { s.link with receiver := .collecting h (chars ++ [c.value]) (lacksStop || !c.stopOk) } }) ∧
  (∀ (s : State) (data : List LinkChar), Ready s → s.link.receiver = .quiet → (∀ c ∈ data, c.wake = false) →
    exec (.frame (data.map LinkChar.onPair)) s = .next s) ∧
  (∀ (s : State) (h : Fin 12) (wakeStop : Bool) (data : List LinkChar) (w : LinkChar), Measuring s → s.link.tickOpen.isSome →
    s.link.receiver = .quiet → (s.head h).state ≠ .off → data.length < 15 → (∀ c ∈ data, c.wake = false) → w.wake = true →
    ∃ t, exec (.frame ((frameChars h wakeStop data ++ [w]).map LinkChar.onPair)) s = .next t ∧
    t = { s with heads := t.heads, link := t.link } ∧ (∀ g, g ≠ h → t.head g = s.head g) ∧
    (wakeStop = true → (∀ c ∈ data, c.stopOk = true) →
      t.head h = { s.head h with short := min ((s.head h).short + 1) 65535, last := .short, errorSeen := true }) ∧
    (wakeStop = false ∨ (∃ c ∈ data, c.stopOk = false) →
      t.head h = { s.head h with framing := min ((s.head h).framing + 1) 65535, last := .framing, errorSeen := true }) ∧
    (∀ g : Fin 12, g.val = w.value.toNat → (s.head g).state ≠ .off →
      t.link = { s.link with receiver := .collecting g [] (!w.stopOk), badNote := true }) ∧
    ((∀ g : Fin 12, g.val = w.value.toNat → (s.head g).state = .off) → t.link = { s.link with badNote := true })) ∧
  (∀ (s : State) (h : Fin 12) (chars : List Byte) (lacksStop : Bool), Measuring s → s.link.tickOpen.isSome →
    s.link.receiver = .collecting h chars lacksStop → chars.length < 15 →
    let ended : Head := if lacksStop
      then { s.head h with framing := min ((s.head h).framing + 1) 65535, last := .framing, errorSeen := true }
      else { s.head h with short := min ((s.head h).short + 1) 65535, last := .short, errorSeen := true }
    let s' := { s.setHead h ended with link := { s.link with receiver := .quiet, badNote := true } }
    exec .tickEvent s = exec .tickEvent s' ∧ exec .captureComplete s = exec .captureComplete s') ∧
  (∀ (s : State) (chars : List PairChar), Ready s →
    (s.run ≠ .measuring ∨ s.link.tickOpen = none ∨ ∀ p ∈ chars, p.getLsbD 0 = true) → exec (.frame chars) s = .next s) ∧
  ∀ (s : State) (w : LinkChar) (data : List LinkChar), Measuring s → s.link.receiver = .quiet → w.wake = true →
    (∀ h : Fin 12, h.val = w.value.toNat → (s.head h).state = .off) → (∀ c ∈ data, c.wake = false) →
    exec (.frame ((w :: data).map LinkChar.onPair)) s = .next s

/-! ## Parts of a tick event -/

/-- JOIN_COMPLETE (R30, R10, R35): the fourth consecutive valid frame makes a JOINING head ACTIVE, seeds both running energies
from that frame, and raises HEAD when the head was returning. -/
def Obligations.JoinCompleteMakesHeadActive : Prop :=
  ∀ (s : State) (h : Fin 12) (f : Frame), TickClosing s → (s.head h).state = .joining → (s.head h).join = 3 →
    s.buffer h = some f → s.calibration h = none → ∃ t, exec (.joinComplete h) s = .next t ∧
    t = { s with stage := t.stage, link := { s.link with buffers := t.link.buffers }, heads := t.heads,
                 channels := t.channels, notices := t.notices } ∧
    t.head h = { s.head h with state := .active, join := 4, miss := 0, returning := false } ∧ OtherHeadsKept s t h ∧
    (t.channel h).fast = f.aEnergy ∧ (t.channel h).slow = f.aEnergy ∧ t.buffer h = none ∧
    OnlyRaised s t (if (s.head h).returning then [.head] else [])

/-- HEAD_LOST (R31, R34, R35, R57, R59, R73, R156): the thirty-second consecutive tick without a valid frame makes an ACTIVE head
LOST, empties its history, ends its calibration ABORTED with reason HEAD_LOST, marks it departed in a capture, and raises
HEAD. -/
def Obligations.HeadLostLeavesActive : Prop :=
  ∀ (s : State) (h : Fin 12), TickClosing s → (s.head h).state = .active → (s.head h).miss = 31 → s.buffer h = none →
    ∃ t, exec (.headLost h) s = .next t ∧
    t = { s with stage := t.stage, link := { s.link with buffers := t.link.buffers }, heads := t.heads,
                 channels := t.channels, calibrations := t.calibrations, trace := { s.trace with mode := t.trace.mode },
                 requests := t.requests, store := t.store, notices := t.notices } ∧
    t.head h = { s.head h with state := .lost, miss := 32, join := 0 } ∧ OtherHeadsKept s t h ∧
    (t.channel h).history = [] ∧ (t.channel h).lastFast = none ∧ (t.channel h).lastSlow = none ∧
    (t.channel h).fast = (s.channel h).fast ∧ (t.channel h).slow = (s.channel h).slow ∧ t.isPending .head = true ∧
    t.calibration h = none ∧ (∀ g, g ≠ h → t.calRecord g = s.calRecord g) ∧
    ((∀ c, s.trace.mode ≠ .capturing c) → t.trace = s.trace) ∧
    (∀ c, s.trace.mode = .capturing c → ∃ d, t.trace.mode = .capturing d ∧
      d = { c with scope := c.scope.map (fun x => { x with departed := x.departed || decide (x.head = h.val) })
                   headLeft := c.headLeft || c.scope.any (fun x => decide (x.head = h.val)) }) ∧
    (∀ c, s.calibration h = some c → HoldsAnswer t c.slot (s.slot c.slot).postMark .aborted 2
      [0xFFFF, intWord (s.head h).trim, intWord (s.head h).trim, word c.count] ∧
      BytesKept s t [answerBytes c.slot] ∧ OnlyRaised s t [.head, .answer] ∧ t.requests.queue = s.requests.queue ∧
      t.requests.inService = s.requests.inService ∧ ∀ m, m ≠ c.slot → t.slot m = s.slot m) ∧
    (s.calibration h = none → t.requests = s.requests ∧ t.store = s.store ∧ OnlyRaised s t [.head])

/-- CALIBRATION_COMPLETE (R71, R72): the 128th calibration tick gives the measured level; a difference in range becomes the trim
and the request is answered DONE, else the trim stays and the answer is OUT_OF_RANGE. The trim is set past the mark of that tick
event (R68), so that a head disabled there has its cut period recorded with the trim it had; the place is the model's inference
(DEDUCED, log entry 7). -/
def Obligations.CalibrationCompleteSetsTrim : Prop :=
  ∀ (s : State) (h : Fin 12) (f : Frame) (c : Calibration), TickClosing s → (s.head h).state = .active →
    s.buffer h = some f → f.faultFlag = false → f.overFlag = false → (s.channel h).isOpen = true →
    s.calibration h = some c → c.count = 127 →
    let m := rawLevel ((c.sum + BitVec.ofNat 72 f.aEnergy).toNat / 128)
    let diff : Int := (c.expected : Int) - m
    ∃ t, exec (.calibrationComplete h) s = .next t ∧ t.calibration h = none ∧ t.stage = .marked ∧
      t.link.tickOpen = some s.link.nextMark ∧ t.run = s.run ∧ t.port = s.port ∧
      (s.clock.tick ≠ 31 → t.clock = s.clock.step ∧ t.period = s.period ∧ t.live = s.live) ∧
      (-500 ≤ diff ∧ diff ≤ 500 → (t.head h).trim = diff ∧ HoldsAnswer t c.slot (s.slot c.slot).postMark .done 0
        [word m, intWord (s.head h).trim, intWord diff, 128]) ∧
      (¬(-500 ≤ diff ∧ diff ≤ 500) → (t.head h).trim = (s.head h).trim ∧
        HoldsAnswer t c.slot (s.slot c.slot).postMark .outOfRange 0
          [word m, intWord (s.head h).trim, intWord (s.head h).trim, 128]) ∧
      (s.clock.tick ≠ 31 → s.peekWord (0x0100 + 16 * h.val) = 0 → (∀ g, g ≠ h → s.peekWord (0x0100 + 16 * g.val) ≠ 0) →
        ∀ k, IsLowestFree s.records.list k → (t.head h).state = .off ∧ t.records.list = s.records.list ++ [k] ∧
          t.peekWord (recordAddr k 4) = word h.val ∧ t.peekWord (recordAddr k 37) = intWord (s.head h).trim)

/-- CAPTURE_COMPLETE (R155, R156, R159) carries a tick event through its tick close, also while the capture still wants samples
(DESIGN CHOICE, log entry 2): at a tick close every scope head of a capture gains one sample, absent for one that has
departed, and a head that leaves ACTIVE there departs; at the close that brings the post counter to 0 the trace is numbered, written
whole with its closing word and listed, TRACE is raised in SINGLE mode, and the mode decides the state that follows. -/
def Obligations.CaptureCompleteListsTrace : Prop :=
  ∀ (s : State) (c : Capture), TickClosing s → s.trace.mode = .capturing c → CaptureFits s c →
    ∃ t, exec .captureComplete s = .next t ∧ t.stage = .captured ∧
    t.clock = s.clock ∧ t.period = s.period ∧ t.run = s.run ∧ t.live = s.live ∧ t.events = s.events ∧
    t.records = s.records ∧ t.port = s.port ∧
    (2 ≤ c.postCounter → t.trace = { s.trace with mode := .capturing (sampledCapture s t c) } ∧
      t.isPending .trace = s.isPending .trace) ∧
    (c.postCounter = 1 →
      t.trace = { s.trace with mode := if s.trace.settings.repeating then .armed else .disarmed,
                               list := s.trace.list ++ [c.slot], missed := 0, number := s.trace.number + 1 } ∧
      t.isPending .trace = (!s.trace.settings.repeating || s.isPending .trace) ∧
      HoldsWords t (traceAddr c.slot 0) (traceWords (sampledCapture s t c) false s.trace.missed (s.trace.number + 1)) ∧
      t.traceClosing c.slot = traceAddr c.slot (16 + c.scope.length * (c.preCount + c.captured + 1)))

/-- SECOND_CLOSE (R42): at the close of tick 31 the bad-frame note raises LINK (R36), every live page is written with the stamp of
the second that closed (R59, R60, R114), the rules are evaluated in ascending order (R119), and every open channel clears its second
accumulators (R61). A clock setting that waits is then applied (R49): the period ends CUT through that second with its records
handed over (R62, R139), a pending adoption is carried out, the clock takes the new values, a new period begins, and SET CLOCK is
answered. Log entries: the parts 2 (DESIGN CHOICE), CAL at a coinciding completion 7, the clock in the adoption's reply 9, the
weekday of a certain rule 10 (all DEDUCED). -/
def Obligations.SecondCloseWritesLivePages : Prop :=
  (∀ s u, TickClosing s → exec .captureComplete s = .next u → exec .secondClose s = exec .secondClose u) ∧
  (∀ u, u.stage = .captured → u.run = .measuring → u.clock.tick ≠ 31 →
    exec .secondClose u = .next { u with stage := .secondClosed false }) ∧
  ∀ u, u.stage = .captured → u.run = .measuring → u.clock.tick = 31 → ∃ t, exec .secondClose u = .next t ∧
    let e := allRules.foldl (State.evalAtSecond u.clock) u
    t.lastClosed = { day := u.clock.day, second := u.clock.second } ∧ t.link = { u.link with badNote := false } ∧
    t.isPending .link = (u.link.badNote || u.isPending .link) ∧ t.run = u.run ∧ t.heads = u.heads ∧
    t.calibrations = u.calibrations ∧ t.port = u.port ∧ t.events = e.events ∧ t.trace = e.trace ∧
    t.isPending .event = e.isPending .event ∧ (∀ a, 0x0C00 ≤ a → a < 0x1000 → t.store.read a = e.store.read a) ∧
    t.notices.mask = u.notices.mask ∧
    (∀ c ∈ [NoticeClass.head, .trace, .port], t.isPending c = u.isPending c) ∧
    (∀ h, (u.channel h).isOpen = true → HoldsWords t (headPageAddr h) (openHeadPage u h)) ∧
    (∀ h, (u.channel h).isOpen = false → ClosedHeadPage t h u.clock.day u.clock.second) ∧
    (∀ r < 6, receptorInUse u.live r = true → HoldsWords t (receptorPageAddr r) (usedReceptorPage u r)) ∧
    (∀ r < 6, receptorInUse u.live r = false → ClosedReceptorPage t r u.clock.day u.clock.second) ∧
    (u.clockSetting = none →
      t = { u with stage := .secondClosed false, lastClosed := t.lastClosed, link := t.link, channels := t.channels,
                   rules := e.rules, events := t.events, trace := t.trace, store := t.store, notices := t.notices } ∧
      t.isPending .record = u.isPending .record ∧ t.isPending .answer = u.isPending .answer ∧
      (∀ h, t.channel h = if (u.channel h).isOpen then { u.channel h with sec := SecondAcc.cleared } else u.channel h) ∧
      BytesKept u t [pageBytes, (0x0C00, 0x1000)]) ∧
    ∀ x, u.clockSetting = some x →
      t = { u with stage := .secondClosed true, lastClosed := t.lastClosed, clock := t.clock, period := t.period,
                   clockSetting := none, link := t.link, channels := t.channels, live := t.live, adoption := none,
                   rules := t.rules, events := t.events, records := t.records, trace := t.trace,
                   requests := { u.requests with slots := t.requests.slots }, store := t.store, notices := t.notices } ∧
      t.clock = { day := x.day, second := x.second, weekday := x.weekday, tick := 0 } ∧
      t.live = (if u.adoption.isSome then u.staged else u.live) ∧
      t.period = { isOpen := true, startDay := x.day, startSecond := x.second, startTick := 0,
                   plannedEnd := nextBoundary (periodLength t.live) x.second,
                   plannedLength := nextBoundary (periodLength t.live) x.second - x.second,
                   short := decide (x.second % periodLength t.live ≠ 0) } ∧
      (∀ n, u.adoption = none → t.rule n = { e.rule n with instLatch := false, certLatch := false }) ∧
      (∀ n, u.adoption.isSome →
        t.rule n = { instLatch := false, certLatch := false, lastInst := none, lastPeriod := none }) ∧
      PeriodRecordsHanded u t (openHeads u) true (u.clock.second + 1 - u.period.startSecond) ∧
      (∀ h, (u.head h).state ≠ .off → t.channel h =
        { u.channel h with
          isOpen := true, isPartial := false, cutBefore := false, cutNote := false
          sequence := if (u.channel h).isOpen then (u.channel h).sequence + 1 else (u.channel h).sequence
          sec := SecondAcc.cleared, acc := PeriodAcc.cleared }) ∧
      (∀ h, (u.head h).state = .off → (u.channel h).isOpen = false →
        t.channel h = { u.channel h with cutNote := false }) ∧
      HoldsAnswer t x.slot (u.slot x.slot).postMark .done 0
        ([u.clock.day] ++ words32 u.clock.second ++ [word u.clock.weekday, word u.clock.tick]) ∧
      (∀ n, u.adoption = some n → n ≠ x.slot → HoldsAnswer t n (u.slot n).postMark .done 0
        ([setWord u.staged 0, setWord u.staged 1, 2, u.clock.day] ++ words32 u.clock.second)) ∧
      (∀ n, n ≠ x.slot → u.adoption ≠ some n → t.slot n = u.slot n) ∧ t.isPending .answer = true ∧
      BytesKept u t ([pageBytes, (0x0C00, 0x1000), answerBytes x.slot] ++ u.adoption.toList.map answerBytes ++
        handedBytes u (openHeads u) true (u.clock.second + 1 - u.period.startSecond))

/-- PERIOD_END (R45, R47): an ALIGNED end closes every open channel's period and hands its record over, posted in the lowest FREE
slots in ascending head number, whole, with the flags of R64 and the histogram list of R137, or counted as lost (R62, R136, R138
to R140). The rules are evaluated in ascending order (R124), every latch is cleared (R127), a pending adoption is carried out
(R105) and answered, ANSWER raised (R167), and the next period begins at the second after the step under the length then in force (R44, R53, R67). Where no ALIGNED
end is due the clock steps and nothing else happens. Log entries: the parts 2 (DESIGN CHOICE), the clock in the adoption's reply 9,
the weekday of the evaluation 10 (both DEDUCED). -/
def Obligations.PeriodEndBeginsNextPeriod : Prop :=
  (∀ s v, TickClosing s → exec .secondClose s = .next v → exec .periodEnd s = exec .periodEnd v) ∧
  (∀ v, v.stage = .secondClosed true → v.run = .measuring → exec .periodEnd v = .next { v with stage := .stepped }) ∧
  (∀ v, v.stage = .secondClosed false → v.run = .measuring → v.link.tickOpen.isSome →
    (v.clock.tick ≠ 31 ∨ v.period.isOpen = false ∨ v.clock.step.second % periodLength v.live ≠ 0) →
    exec .periodEnd v = .next { v with stage := .stepped, clock := v.clock.step }) ∧
  ∀ v, v.stage = .secondClosed false → v.run = .measuring → v.link.tickOpen.isSome → v.clock.tick = 31 →
    v.period.isOpen = true → v.clock.step.second % periodLength v.live = 0 → ∃ t, exec .periodEnd v = .next t ∧
    let e := allRules.foldl (State.evalAtPeriod v v.period.plannedLength v.clock) v
    let c := v.clock.step
    t = { v with stage := .stepped, clock := c, period := t.period, channels := t.channels, live := t.live,
                 adoption := none, rules := t.rules, events := e.events, records := t.records,
                 requests := { v.requests with slots := t.requests.slots }, store := t.store, notices := t.notices } ∧
    t.live = (if v.adoption.isSome then v.staged else v.live) ∧
    t.period = { isOpen := true, startDay := c.day, startSecond := c.second, startTick := 0,
                 plannedEnd := nextBoundary (periodLength t.live) c.second,
                 plannedLength := nextBoundary (periodLength t.live) c.second - c.second,
                 short := decide (c.second % periodLength t.live ≠ 0) } ∧
    PeriodRecordsHanded v t (openHeads v) false v.period.plannedLength ∧
    t.isPending .event = e.isPending .event ∧ (∀ a, 0x0C00 ≤ a → a < 0x1000 → t.store.read a = e.store.read a) ∧
    (∀ n, v.adoption = none → t.rule n = { e.rule n with instLatch := false, certLatch := false }) ∧
    (∀ n, v.adoption.isSome →
      t.rule n = { instLatch := false, certLatch := false, lastInst := none, lastPeriod := none }) ∧
    (∀ n, v.adoption = some n → HoldsAnswer t n (v.slot n).postMark .done 0
      ([setWord v.staged 0, setWord v.staged 1, 1, c.day] ++ words32 c.second)) ∧
    (∀ n, v.adoption ≠ some n → t.slot n = v.slot n) ∧ t.notices.mask = v.notices.mask ∧
    t.isPending .answer = (v.adoption.isSome || v.isPending .answer) ∧
    (∀ c ∈ [NoticeClass.head, .trace, .port, .link], t.isPending c = v.isPending c) ∧
    (∀ h, (v.head h).state ≠ .off → t.channel h =
      { v.channel h with
        isOpen := true, isPartial := false, cutBefore := false, cutNote := false
        sequence := if (v.channel h).isOpen then (v.channel h).sequence + 1 else (v.channel h).sequence
        sec := SecondAcc.cleared, acc := PeriodAcc.cleared }) ∧
    (∀ h, (v.head h).state = .off → (v.channel h).isOpen = false → t.channel h = { v.channel h with cutNote := false }) ∧
    BytesKept v t ([(0x0C00, 0x1000)] ++ v.adoption.toList.map answerBytes ++
      handedBytes v (openHeads v) false v.period.plannedLength)

/-! ## Run control requests -/

/-- START in STOPPED with a staged set that passes (R108, R171): the set is adopted, the part is MEASURING, every enabled head
enters JOINING with an open channel, and START is answered DONE. -/
def Obligations.StartAdoptsSetAndMeasures : Prop :=
  ∀ s n, Served s n .start → s.run = .stopped → validate s.staged = none → ∃ t, exec .start s = .next t ∧
    Answers s t n .done 0 ([setWord s.staged 0, setWord s.staged 1, s.clock.day] ++ words32 s.clock.second) ∧
    t = { s with run := .measuring, heads := t.heads, channels := t.channels, live := s.staged, rules := t.rules,
                 requests := t.requests, store := t.store, notices := t.notices } ∧
    BytesKept s t [answerBytes n] ∧
    (∀ r, t.rule r = { instLatch := false, certLatch := false, lastInst := none, lastPeriod := none }) ∧
    (∀ h, s.enabled h = true →
      t.head h = { s.head h with state := .joining, join := 0, miss := 0, returning := false } ∧
      t.channel h = { s.channel h with isOpen := true, isPartial := false, cutBefore := false,
                                       sec := SecondAcc.cleared, acc := PeriodAcc.cleared }) ∧
    ∀ h, s.enabled h = false → t.head h = s.head h ∧ t.channel h = s.channel h

/-- STOP (R172, R174): from MEASURING the run ends, every open channel hands its CUT record over, and the trace is DISARMED, a
capture in progress truncated; from PARKED the trace is DISARMED; the run state becomes STOPPED and the reply names the run state
before. The mark count stays as it was: taken in a tick event after its tick close and before its mark, STOP leaves the mark unsent
(R178; the places in a tick event are DESIGN CHOICE, log entry 2). The length of the cut period (log entry 11), the clock in an
adoption's reply (9), the missed count cleared by the truncated capture's completion (26) and the completion, after the CUT end, of
a calibration whose measurement is complete (7) are the model's inferences (all DEDUCED). -/
def Obligations.StopEndsTheRun : Prop :=
  (∀ s n, Served s n .stop → s.run = .measuring → RequestsInOrder s → ∃ t, exec .stop s = .next t ∧ MeasuringEnded s t n ∧
    t.run = .stopped ∧ t.trace.mode = .disarmed ∧ t.trace.settings = s.trace.settings ∧
    ((∀ c, s.trace.mode ≠ .capturing c) → t.trace = { s.trace with mode := .disarmed }) ∧
    (∀ c, s.trace.mode = .capturing c → t.trace.list = s.trace.list ++ [c.slot] ∧ t.trace.number = s.trace.number + 1 ∧
      (CaptureFits s c →
        HoldsWords t (traceAddr c.slot 0) (traceWords c true s.trace.missed (s.trace.number + 1)))) ∧
    t.events = s.events ∧ t.port = s.port ∧ t.lastClosed = s.lastClosed ∧ t.stage = .idle) ∧
  ∀ s n, Served s n .stop → s.run = .parked → (∀ c, s.trace.mode ≠ .capturing c) → ∃ t, exec .stop s = .next t ∧
    t = { s with run := .stopped, trace := { s.trace with mode := .disarmed }, requests := t.requests, store := t.store,
                 notices := t.notices } ∧
    Answers s t n .done 0 ([3, s.clock.day] ++ words32 s.clock.second) ∧ BytesKept s t [answerBytes n]

/-- PARK in MEASURING (R173): as STOP, but the run state becomes PARKED, a capture in progress leaves the trace ARMED, and an
ARMED or DISARMED trace stays as it is. What log entries 2 (DESIGN CHOICE) and 7, 9, 11 and 26 (DEDUCED) say stands in it as in
STOP. -/
def Obligations.ParkSuspendsTheRun : Prop :=
  ∀ s n, Served s n .park → s.run = .measuring → RequestsInOrder s → ∃ t, exec .park s = .next t ∧ MeasuringEnded s t n ∧
    t.run = .parked ∧ t.trace.settings = s.trace.settings ∧
    ((∀ c, s.trace.mode ≠ .capturing c) → t.trace = s.trace) ∧
    (∀ c, s.trace.mode = .capturing c → t.trace.mode = .armed ∧ t.trace.list = s.trace.list ++ [c.slot] ∧
      t.trace.number = s.trace.number + 1 ∧
      (CaptureFits s c →
        HoldsWords t (traceAddr c.slot 0) (traceWords c true s.trace.missed (s.trace.number + 1)))) ∧
    t.events = s.events ∧ t.port = s.port ∧ t.lastClosed = s.lastClosed ∧ t.stage = .idle

/-- UNPARK in PARKED (R175, R33, R53): the part is MEASURING under the live set and the last values it kept, every enabled head
enters JOINING with an open channel, and no period is open yet. -/
def Obligations.UnparkResumesMeasuring : Prop :=
  ∀ s n, Served s n .unpark → s.run = .parked → ∃ t, exec .unpark s = .next t ∧
    Answers s t n .done 0 ([3, s.clock.day] ++ words32 s.clock.second) ∧ BytesKept s t [answerBytes n] ∧
    t = { s with run := .measuring, heads := t.heads, channels := t.channels, requests := t.requests, store := t.store,
                 notices := t.notices } ∧
    (∀ h, s.enabled h = true →
      t.head h = { s.head h with state := .joining, join := 0, miss := 0, returning := false } ∧
      t.channel h = { s.channel h with isOpen := true, isPartial := false, cutBefore := false,
                                       sec := SecondAcc.cleared, acc := PeriodAcc.cleared }) ∧
    ∀ h, s.enabled h = false → t.head h = s.head h ∧ t.channel h = s.channel h

/-! ## Clock, limit set, calibration and trim requests -/

/-- SET CLOCK with parameters in range (R49): in STOPPED and PARKED the clock takes the values at once; in MEASURING the setting
becomes pending and the request is handed over. -/
def Obligations.SetClockAppliesOrWaits : Prop :=
  ∀ s n, Served s n .setClock → s.param n 3 + 65536 * s.param n 4 ≤ 86399 → s.param n 5 ≤ 6 →
    (s.run = .stopped ∨ s.run = .parked → ∃ t, exec .setClock s = .next t ∧
      t = { s with clock := { day := s.requestWord n 2, second := s.param n 3 + 65536 * s.param n 4,
                              weekday := s.param n 5, tick := 0 },
                   requests := t.requests, store := t.store, notices := t.notices } ∧
      Answers s t n .done 0 ([s.clock.day] ++ words32 s.clock.second ++ [word s.clock.weekday, word s.clock.tick]) ∧
      BytesKept s t [answerBytes n]) ∧
    (s.run = .measuring → s.clockSetting = none → ∃ t, exec .setClock s = .next t ∧
      t = { s with clockSetting := some { day := s.requestWord n 2, second := s.param n 3 + 65536 * s.param n 4,
                                          weekday := s.param n 5, slot := n },
                   requests := t.requests } ∧
      HandsOver s t n)

/-- ADOPT LIMITS (R104): BUSY with an adoption pending, INVALID with the first failing item of a staged set that fails; else in
STOPPED and PARKED the live set becomes the staged set and every rule's items are cleared, and in MEASURING the adoption becomes
pending and locks the staged area. -/
def Obligations.AdoptLimitsAdoptsOrWaits : Prop :=
  ∀ s n, Served s n .adoptLimits → (s.adoption.isSome → Refuses .adoptLimits s n .busy 0) ∧
    (∀ i, s.adoption = none → validate s.staged = some i → Refuses .adoptLimits s n .invalid i) ∧
    (s.adoption = none → validate s.staged = none → s.run = .stopped ∨ s.run = .parked → ∃ t,
      exec .adoptLimits s = .next t ∧
      t = { s with live := s.staged, rules := t.rules, requests := t.requests, store := t.store, notices := t.notices } ∧
      (∀ r, t.rule r = { instLatch := false, certLatch := false, lastInst := none, lastPeriod := none }) ∧
      Answers s t n .done 0 ([setWord s.staged 0, setWord s.staged 1, 0, s.clock.day] ++ words32 s.clock.second) ∧
      BytesKept s t [answerBytes n]) ∧
    (s.adoption = none → validate s.staged = none → s.run = .measuring → ∃ t, exec .adoptLimits s = .next t ∧
      t = { s with adoption := some n, requests := t.requests } ∧ HandsOver s t n ∧
      ∀ a, 0x0200 ≤ a → a < 0x0400 → ¬WriteStores t a)

/-- CALIBRATE (R70): the four tests in their order, each with its answer and no other effect; when none applies the calibration
starts with count and sum 0 and the request is handed over. -/
def Obligations.CalibrateStartsMeasurement : Prop :=
  (∀ s n, Served s n .calibrate → (11 < s.param n 2 → Refuses .calibrate s n .invalid 0) ∧
    (s.param n 2 ≤ 11 → (s.param n 3 < 7000 ∨ 12000 < s.param n 3) → Refuses .calibrate s n .invalid 1)) ∧
  ∀ s n (h : Fin 12), Served s n .calibrate → s.param n 2 = h.val → 7000 ≤ s.param n 3 → s.param n 3 ≤ 12000 →
    ((s.calibration h).isSome → Refuses .calibrate s n .busy 0) ∧
    (s.calibration h = none → (s.head h).state ≠ .active → Refuses .calibrate s n .notReady 0) ∧
    (s.calibration h = none → (s.head h).state = .active → ∃ t, exec .calibrate s = .next t ∧
      t = { s with calibrations := t.calibrations, requests := t.requests } ∧ HandsOver s t n ∧
      t.calibration h = some { inProgress := true, count := 0, sum := 0, expected := s.param n 3, slot := n } ∧
      ∀ g, g ≠ h → t.calRecord g = s.calRecord g)

/-- LOAD TRIM (R74): the three tests in their order, each with its answer and no other effect; when none applies the trim becomes t,
and an open channel of an open period is marked CAL_SEEN (R68). That an open channel gets no mark while no period is open is the
model's inference (DEDUCED, log entry 25). -/
def Obligations.LoadTrimReplacesTrim : Prop :=
  (∀ s n, Served s n .loadTrim → (11 < s.param n 2 → Refuses .loadTrim s n .invalid 0) ∧
    (s.param n 2 ≤ 11 → ((s.requestWord n 3).toInt < -500 ∨ 500 < (s.requestWord n 3).toInt) →
      Refuses .loadTrim s n .outOfRange 0)) ∧
  ∀ s n (h : Fin 12), Served s n .loadTrim → s.param n 2 = h.val → -500 ≤ (s.requestWord n 3).toInt →
    (s.requestWord n 3).toInt ≤ 500 → ((s.calibration h).isSome → Refuses .loadTrim s n .busy 0) ∧
    (s.calibration h = none → ∃ t, exec .loadTrim s = .next t ∧
      t = { s with heads := t.heads, channels := t.channels, requests := t.requests, store := t.store,
                   notices := t.notices } ∧
      Answers s t n .done 0 [intWord (s.head h).trim, s.requestWord n 3] ∧ BytesKept s t [answerBytes n] ∧
      t.head h = { s.head h with trim := (s.requestWord n 3).toInt } ∧ OtherHeadsKept s t h ∧
      (s.period.isOpen = true → (s.channel h).isOpen = true →
        t.channel h = { s.channel h with acc := { (s.channel h).acc with calSeen := true } }) ∧
      (s.period.isOpen = false ∨ (s.channel h).isOpen = false → t.channel h = s.channel h))

/-! ## Record requests -/

/-- SNAPSHOT in MEASURING (R142, R143): the record of every selected head that is not OFF goes into the lowest FREE slot under
the next record number, and the answer names slot, number and length. It is taken at every point of a tick event in progress and
shows the state as it then is (R146); nothing of the tick event is carried on. -/
def Obligations.SnapshotPostsRecord : Prop :=
  ∀ s n m, Served s n .snapshot → s.run = .measuring → s.param n 2 < 4096 → IsLowestFree s.records.list m →
    let heads := allHeads.filter (fun h => (s.param n 2).testBit h.val && decide ((s.head h).state ≠ .off))
    let entry := fun h : Fin 12 =>
      [word h.val, word (s.head h).state.code,
        levelWord (meanLevel (s.channel h).acc.sum.toNat (s.channel h).acc.present (s.head h).trim),
        levelWord (s.channel h).acc.lafMax,
        levelWord (if (s.head h).state = .active then (s.channel h).lastFast else none)] ++
      words32 (s.channel h).acc.ticksOpen ++ words32 (s.channel h).acc.present ++ words32 (s.channel h).acc.gap ++
      words32 (s.channel h).acc.calibration
    let body := [s.requestWord n 1, (if s.period.isOpen then 0 else 1), s.clock.day] ++ words32 s.clock.second ++
      [word s.clock.tick] ++ words32 (if s.period.isOpen then s.period.startSecond else 0) ++
      [s.requestWord n 2, word heads.length] ++ heads.flatMap entry
    ∃ t, exec .snapshot s = .next t ∧ RecordPosted s t n m .snapshot body ∧ body.length + 5 = 15 + 13 * heads.length

/-- DUMP HISTOGRAM in MEASURING for a head whose channel is open (R144, R145): the non-empty bins in ascending order go into the
lowest FREE slot under the next record number; the channel itself is left as it was. It is taken at every point of a tick event in
progress and shows the state as it then is (R146). -/
def Obligations.DumpHistogramPostsRecord : Prop :=
  ∀ s n m (h : Fin 12), Served s n .dumpHistogram → s.run = .measuring → s.param n 2 = h.val →
    (s.channel h).isOpen = true → IsLowestFree s.records.list m →
    let bins := (List.range 160).filter (fun b => (s.channel h).acc.histogram.toList.getD b 0 ≠ 0)
    let entry := fun b => words32 ((s.channel h).acc.histogram.toList.getD b 0 % 16777216 + 16777216 * b)
    let body := [s.requestWord n 1, (if s.period.isOpen then 0 else 1), word h.val, s.clock.day] ++
      words32 s.clock.second ++ [word s.clock.tick] ++ words32 (if s.period.isOpen then s.period.startSecond else 0) ++
      words32 (s.channel h).acc.present ++ [intWord (s.head h).trim, word bins.length] ++ bins.flatMap entry
    ∃ t, exec .dumpHistogram s = .next t ∧ RecordPosted s t n m .histogram body ∧ body.length + 5 = 18 + 2 * bins.length

/-! ## Trace requests and head counters -/

/-- ARM TRACE (R150): the four tests in their order, each with its answer and no other effect; when none applies the settings are
replaced, pre and post clamped, the trace is ARMED, and the reply shows the settings adopted. -/
def Obligations.ArmTraceAdoptsSettings : Prop :=
  (∀ s n, Served s n .armTrace → (∀ c, s.trace.mode = .capturing c → Refuses .armTrace s n .busy 0) ∧
    ((∀ c, s.trace.mode ≠ .capturing c) →
      (s.param n 2 ≠ 1 → s.param n 2 ≠ 2 → Refuses .armTrace s n .invalid 0) ∧
      ((s.param n 2 = 1 ∨ s.param n 2 = 2) → s.param n 3 ≠ 1 → s.param n 3 ≠ 2 → Refuses .armTrace s n .invalid 1) ∧
      ((s.param n 2 = 1 ∨ s.param n 2 = 2) → (s.param n 3 = 1 ∨ s.param n 3 = 2) →
        (s.param n 4 < 1 ∨ 3 < s.param n 4) → Refuses .armTrace s n .invalid 2))) ∧
  ∀ s n, Served s n .armTrace → (∀ c, s.trace.mode ≠ .capturing c) → (s.param n 2 = 1 ∨ s.param n 2 = 2) →
    (s.param n 3 = 1 ∨ s.param n 3 = 2) → 1 ≤ s.param n 4 → s.param n 4 ≤ 3 →
    let pre := min (s.param n 5) 64
    let post := if s.param n 6 = 0 then 1 else min (s.param n 6) 440
    ∃ t, exec .armTrace s = .next t ∧ BytesKept s t [answerBytes n] ∧
      t = { s with
        trace := { s.trace with
          mode := .armed
          settings := { repeating := decide (s.param n 2 = 2), sweep := decide (s.param n 3 = 2),
                        source := t.trace.settings.source, pre := pre, post := post,
                        retrigger := decide (s.param n 7 ≠ 0) } }
        requests := t.requests, store := t.store, notices := t.notices } ∧
      t.trace.settings.source.code = s.param n 4 ∧
      Answers s t n .done 0 [s.requestWord n 2, s.requestWord n 3, s.requestWord n 4, word pre, word post,
        if s.param n 7 = 0 then 0 else 1]

/-- DISARM TRACE (R151, R160): a DISARMED trace stays, an ARMED one becomes DISARMED, a capture in progress is truncated, written
whole with the samples it has and its TRUNCATED flag (R159), and listed; the settings are kept and the reply tells what was
found. -/
def Obligations.DisarmTraceStopsTheTrace : Prop :=
  ∀ s n, Served s n .disarmTrace →
    ((∀ c, s.trace.mode ≠ .capturing c) → ∃ t, exec .disarmTrace s = .next t ∧ BytesKept s t [answerBytes n] ∧
      t = { s with trace := { s.trace with mode := .disarmed }, requests := t.requests, store := t.store,
                   notices := t.notices } ∧
      Answers s t n .done 0 [word s.trace.mode.code, 0xFFFF, 0, 0]) ∧
    ∀ c, s.trace.mode = .capturing c → ∃ t, exec .disarmTrace s = .next t ∧
      t = { s with
        trace := { s.trace with mode := .disarmed, list := s.trace.list ++ [c.slot], missed := 0,
                                number := s.trace.number + 1 }
        requests := t.requests, store := t.store, notices := t.notices } ∧
      HoldsAnswer t n (s.slot n).postMark .done 0 [2, word c.slot.val, (s.trace.number + 1).setWidth 16,
        ((s.trace.number + 1) >>> 16).setWidth 16] ∧
      Taken s t n ∧ OnlyRaised s t (if s.trace.settings.repeating then [.answer] else [.trace, .answer]) ∧
      (CaptureFits s c →
        let words := traceWords c true s.trace.missed (s.trace.number + 1)
        HoldsWords t (traceAddr c.slot 0) words ∧
        t.traceClosing c.slot = traceAddr c.slot (16 + c.scope.length * (c.preCount + c.captured)) ∧
        BytesKept s t [(traceAddr c.slot 0, traceAddr c.slot words.length), answerBytes n])

/-- TRACE NOW (R152): the three tests in their order, each with its answer and no other effect; when none applies the trigger
starts a capture with its pre samples, retriggers, is missed or is ignored, by the trace state and the settings (R153, R154, R157,
R158), and the reply names the outcome. That it may start a capture before the first tick event of a run is the model's inference
from R152 (DEDUCED, log entry 12). -/
def Obligations.TraceNowGivesATrigger : Prop :=
  (∀ s n, Served s n .traceNow →
    (s.run ≠ .measuring ∨ s.trace.mode = .disarmed → Refuses .traceNow s n .wrongState 0) ∧
    (s.run = .measuring → s.trace.mode ≠ .disarmed →
      (5 < s.param n 2 ∨ receptorInUse s.live (s.param n 2) = false → Refuses .traceNow s n .invalid 0) ∧
      (s.param n 2 ≤ 5 → receptorInUse s.live (s.param n 2) = true →
        (11 < s.param n 3 ∨ s.param n 3 ∉ (members s.live (s.param n 2)).map Prod.fst) →
        Refuses .traceNow s n .invalid 1))) ∧
  ∀ s n, Served s n .traceNow → s.run = .measuring → s.trace.mode ≠ .disarmed → s.param n 2 ≤ 5 →
    receptorInUse s.live (s.param n 2) = true → s.param n 3 ≤ 11 →
    s.param n 3 ∈ (members s.live (s.param n 2)).map Prod.fst →
    ∃ t, exec .traceNow s = .next t ∧ BytesKept s t [answerBytes n] ∧
      t = { s with trace := t.trace, requests := t.requests, store := t.store, notices := t.notices } ∧
      ∃ o, TriggerHandled s t
        { kind := .request, rule := 0xFFFF, receptor := s.param n 2, head := s.param n 3, day := s.clock.day,
          second := s.clock.second, tick := s.clock.tick } o ∧
      Answers s t n .done 0 (match o with
        | .started m => [1, word m.val]
        | .retriggered => [2, 0xFFFF]
        | .missed => [3, 0xFFFF]
        | .ignored => [4, 0xFFFF])

/-- ZERO HEAD COUNTERS (R38): a mask with a bit of 12 to 15 is refused; otherwise every selected head's six counters become 0 and
its error-seen flag clear, and nothing else of any head changes. -/
def Obligations.ZeroHeadCountersClearsSelected : Prop :=
  ∀ s n, Served s n .zeroHeadCounters → (4096 ≤ s.param n 2 → Refuses .zeroHeadCounters s n .invalid 0) ∧
    (s.param n 2 < 4096 → ∃ t, exec .zeroHeadCounters s = .next t ∧
      t = { s with heads := t.heads, requests := t.requests, store := t.store, notices := t.notices } ∧
      Answers s t n .done 0 [] ∧ BytesKept s t [answerBytes n] ∧
      ∀ h, t.head h = if (s.param n 2).testBit h.val then
          { s.head h with good := 0, framing := 0, short := 0, check := 0, stale := 0, duplicate := 0, errorSeen := false }
        else s.head h)

/-- UNKNOWN_KIND_REQUEST and every request whose post mark differs from its tag (R165): a kind that is none of the fourteen is
answered UNKNOWN_KIND, a mark that differs is answered CANCELLED first, and neither has any other effect. -/
def Obligations.UnknownAndStrayRequestsAreAnswered : Prop :=
  (∀ s n, Oldest s n → closeDone s = true → ¬(1 ≤ (s.kindWord n).toNat ∧ (s.kindWord n).toNat ≤ 14) → (s.slot n).postMark = s.tag n →
    Refuses .unknownKindRequest s n .unknownKind 0) ∧
  (∀ s n, Oldest s n → closeDone s = true → ¬(1 ≤ (s.kindWord n).toNat ∧ (s.kindWord n).toNat ≤ 14) → (s.slot n).postMark ≠ s.tag n →
    Refuses .unknownKindRequest s n .cancelled 0) ∧
  ∀ s n (p : Instr × RequestKind), p ∈ [(Instr.start, RequestKind.start), (.stop, .stop), (.park, .park),
      (.unpark, .unpark), (.setClock, .setClock), (.adoptLimits, .adoptLimits), (.calibrate, .calibrate),
      (.loadTrim, .loadTrim), (.snapshot, .snapshot), (.dumpHistogram, .dumpHistogram), (.armTrace, .armTrace),
      (.disarmTrace, .disarmTrace), (.traceNow, .traceNow), (.zeroHeadCounters, .zeroHeadCounters)] →
    Oldest s n → stageFits p.2 s = true → (s.kindWord n).toNat = p.2.code → (s.slot n).postMark ≠ s.tag n → Refuses p.1 s n .cancelled 0

/-- The refusals of the run control, clock and record requests for the run state, for a setting that waits, and for a head or a
shelf that is not ready (R49, R142, R144, R170, R172 to R175): each answers its code and changes nothing else (R168). -/
def Obligations.RefusalsByStateChangeNothing : Prop :=
  ∀ s n,
    (Served s n .start → s.run ≠ .stopped → Refuses .start s n .wrongState 0) ∧
    (Served s n .stop → s.run = .stopped → Refuses .stop s n .wrongState 0) ∧
    (Served s n .park → s.run ≠ .measuring → Refuses .park s n .wrongState 0) ∧
    (Served s n .unpark → s.run ≠ .parked → Refuses .unpark s n .wrongState 0) ∧
    (Served s n .snapshot → s.run ≠ .measuring → Refuses .snapshot s n .wrongState 0) ∧
    (Served s n .dumpHistogram → s.run ≠ .measuring → Refuses .dumpHistogram s n .wrongState 0) ∧
    (Served s n .setClock → s.run = .measuring → s.clockSetting.isSome → s.param n 3 + 65536 * s.param n 4 ≤ 86399 →
      s.param n 5 ≤ 6 → Refuses .setClock s n .busy 0) ∧
    (∀ h : Fin 12, Served s n .dumpHistogram → s.run = .measuring → s.param n 2 = h.val →
      ((s.channel h).isOpen = false → Refuses .dumpHistogram s n .notReady 0) ∧
      ((s.channel h).isOpen = true → (∀ m, m ∈ s.records.list) → Refuses .dumpHistogram s n .shelfFull 0)) ∧
    (Served s n .snapshot → s.run = .measuring → s.param n 2 < 4096 → (∀ m, m ∈ s.records.list) →
      Refuses .snapshot s n .shelfFull 0)

/-- The refusals of the run control, clock and record requests for a parameter out of range or a staged set that fails (R49, R102,
R108, R142, R144): each answers INVALID with the index of the first failing parameter or item and changes nothing else (R168). -/
def Obligations.RefusalsByParameterChangeNothing : Prop :=
  ∀ s n,
    (∀ i, Served s n .start → s.run = .stopped → validate s.staged = some i → Refuses .start s n .invalid i) ∧
    (Served s n .setClock → 86399 < s.param n 3 + 65536 * s.param n 4 → Refuses .setClock s n .invalid 1) ∧
    (Served s n .setClock → s.param n 3 + 65536 * s.param n 4 ≤ 86399 → 6 < s.param n 5 →
      Refuses .setClock s n .invalid 2) ∧
    (Served s n .snapshot → s.run = .measuring → 4096 ≤ s.param n 2 → Refuses .snapshot s n .invalid 0) ∧
    (Served s n .dumpHistogram → s.run = .measuring → 11 < s.param n 2 → Refuses .dumpHistogram s n .invalid 0)

/-! ## Levels, receptors, validation and the event shelf -/

/-- Every entry of the log table is 256 log2(1 + f/256) rounded half up (R4: 2^(g - 1/2) ≤ ((256 + f)/256)^256 < 2^(g + 1/2),
squared and cleared of fractions); the raw level is formed from the exponent, the mantissa fraction and the table (R3, R5), is
non-decreasing in the energy and lies in 0..14448. -/
def Obligations.RawLevelFollowsLogTable : Prop :=
  (∀ f < 256, 2 ^ (2 * logEntry f + 4095) ≤ (256 + f) ^ 512 ∧ (256 + f) ^ 512 < 2 ^ (2 * logEntry f + 4097)) ∧
    (∀ f < 255, logEntry f ≤ logEntry (f + 1)) ∧ logEntry 0 = 0 ∧ logEntry 255 = 255 ∧
    (∀ e, 1 ≤ e → ∃ k f, 2 ^ k ≤ e ∧ e < 2 ^ (k + 1) ∧ f ≤ 255 ∧ (8 ≤ k → f = e / 2 ^ (k - 8) - 256) ∧
      (k < 8 → f = e * 2 ^ (8 - k) - 256) ∧ rawLevel e = ((256 * k + logEntry f) * 30103 + 12800) / 25600) ∧
    (∀ a b, a ≤ b → rawLevel a ≤ rawLevel b) ∧ (∀ e < 2 ^ 48, rawLevel e ≤ 14448) ∧ rawLevel (2 ^ 48 - 1) = 14448 ∧
    rawLevel 0 = 0 ∧ rawLevel 1 = 0

/-- A weighting step follows R8 and never carries a running energy past the tick energy it steps toward (R9). -/
def Obligations.WeightingStepNeverOvershoots : Prop :=
  ∀ w r e, (w = 57 ∨ w = 8) →
    ((weightStep w r e : Int) = r + ((e : Int) - r) * w / 256) ∧
    (r < e → r ≤ weightStep w r e ∧ weightStep w r e ≤ e ∧ ((e - r) * w < 256 → weightStep w r e = r)) ∧
    (e < r → e ≤ weightStep w r e ∧ weightStep w r e + 1 ≤ r) ∧ weightStep w r r = r

/-- The derived levels. A histogram bin holds the Fast levels of R14. LAN is the lower edge of the first bin, scanned down from 159,
at which the running count reaches N percent of the present ticks, so that LA90 ≤ LA10 (R15). A head level and an LAeq are the raw
level of the energy or of the mean under the trim, clamped (R6, R13), and the floor-Leq never exceeds the LAeq of the same sum and
trim (R16). The display word has the tenths in four decimal digits (R17). The window test follows both rows of R110. -/
def Obligations.DerivedLevelsFollowTheirRules : Prop :=
  (∀ f, histogramBin f ≤ 159 ∧ (f < 2550 → histogramBin f = 0) ∧ (10450 ≤ f → histogramBin f = 159) ∧
    ∀ b, 1 ≤ b → b ≤ 158 → (histogramBin f = b ↔ 2500 + 50 * b ≤ f ∧ f ≤ 2549 + 50 * b)) ∧
  (∀ (h : Vector Nat 160) (n present : Nat), (n = 10 ∨ n = 90) → h.toList.sum = present →
    (present = 0 → percentile n h present = none) ∧
    (0 < present → ∃ b, b ≤ 159 ∧ percentile n h present = some (2500 + 50 * b) ∧
      n * present ≤ (h.toList.drop b).sum * 100 ∧
      ∀ c, b < c → c ≤ 159 → (h.toList.drop c).sum * 100 < n * present)) ∧
  (∀ (h : Vector Nat 160), 0 < h.toList.sum → ∃ a b, a ≤ b ∧ b ≤ 159 ∧
    percentile 90 h h.toList.sum = some (2500 + 50 * a) ∧ percentile 10 h h.toList.sum = some (2500 + 50 * b)) ∧
  (∀ (e : Nat) (trim : Int), (headLevel e trim : Int) = max 0 (min 15000 (rawLevel e + trim))) ∧
  (∀ (sum present planned : Nat) (trim : Int),
    meanLevel sum present trim = (if present = 0 then none else some (headLevel (sum / present) trim)) ∧
    floorLeq sum planned trim = headLevel (sum / planned) trim ∧
    (0 < present → present ≤ planned → floorLeq sum planned trim ≤ headLevel (sum / present) trim)) ∧
  displayWord none = 0xFFFF ∧
  (∀ l ≤ 15000, let w := (displayWord (some l)).toNat
    w / 4096 ≤ 9 ∧ w / 256 % 16 ≤ 9 ∧ w / 16 % 16 ≤ 9 ∧ w % 16 ≤ 9 ∧
    w / 4096 * 1000 + w / 256 % 16 * 100 + w / 16 % 16 * 10 + w % 16 = (l + 5) / 10) ∧
  ∀ (start stop : Nat) (days : Word) (m w : Nat),
    (start < stop → (windowActive start stop days m w = true ↔ start ≤ m ∧ m < stop ∧ days.getLsbD w = true)) ∧
    (stop < start → (windowActive start stop days m w = true ↔
      (start ≤ m ∧ days.getLsbD w = true) ∨ (m < stop ∧ days.getLsbD ((w + 6) % 7) = true)))

/-- The corrected value is clamp(v + o, 0, 15000); the receptor value is the largest corrected value of the members that count,
the member at the lowest position decides a tie, and it is absent exactly when no member counts (R113). -/
def Obligations.ReceptorValueIsLargestCorrected : Prop :=
  (∀ (v : Nat) (o : Int), (corrected v o : Int) = max 0 (min 15000 (v + o))) ∧
  ∀ (l : LimitSet) (r : Nat) (value : Nat → Level),
    (receptorValue l r value = none ↔ ∀ m ∈ members l r, value m.1 = none) ∧
    ∀ v h, receptorValue l r value = some (v, h) → ∃ i, ∃ (hi : i < (members l r).length), ∃ x,
      (members l r)[i].1 = h ∧ value h = some x ∧ v = corrected x (members l r)[i].2 ∧ v ≤ 15000 ∧
      ∀ j, (hj : j < (members l r).length) → ∀ y, value (members l r)[j].1 = some y →
        corrected y (members l r)[j].2 ≤ v ∧ (j < i → corrected y (members l r)[j].2 < v)

/-- Validation reports the first failing item of R102 in ascending index: item 0 the period length code, item 1 the minimum
coverage, item 2 + r receptor r, item 8 + n rule n, an entry not in use passing. A set that passes has its header, its receptors in
use and its rules in use within the ranges of R99 to R101. -/
def Obligations.ValidationChecksEveryField : Prop :=
  (∀ l i, validate l = some i → i < 32 ∧ itemPasses l i = false ∧ ∀ j < i, itemPasses l j = true) ∧
  (∀ l, (itemPasses l 0 = true ↔ (setWord l 1).toNat ≤ 4) ∧ (itemPasses l 1 = true ↔ (setWord l 2).toNat ≤ 100) ∧
    (∀ r < 6, itemPasses l (2 + r) = true ↔ (receptorInUse l r = true → ReceptorInRange l r)) ∧
    ∀ n < 24, itemPasses l (8 + n) = true ↔ (ruleInUse l n = true → RuleInRange l n)) ∧
  ∀ l, validate l = none ↔
    (setWord l 1).toNat ≤ 4 ∧ (setWord l 2).toNat ≤ 100 ∧
    (∀ r < 6, receptorInUse l r = true → ReceptorInRange l r) ∧ ∀ n < 24, ruleInUse l n = true → RuleInRange l n

/-- An event raised is posted in the lowest FREE slot under the next event number with the withheld count, which returns to 0
(R128 to R130), or withheld and counted when all 32 slots are FILLED (R131); EVENT is raised either way. -/
def Obligations.EventIsPostedOrWithheld : Prop :=
  ∀ (s : State) (e : EventData),
    (∀ n, IsLowestFree s.events.list n → ∃ t, s.postEvent e = t ∧
      t = { s with events := { list := s.events.list ++ [n], withheld := 0, number := s.events.number + 1 },
                   store := t.store, notices := t.notices } ∧
      OnlyRaised s t [.event] ∧ BytesKept s t [(eventAddr n 0, eventAddr n 0 + 32)] ∧
      HoldsWords t (eventAddr n 0)
        ([bytePair e.kind.code e.rule, bytePair e.metric e.condition, bytePair e.receptor e.head, word e.value,
          word e.limit, eventFlagWord e.flags, e.day] ++ words32 e.second ++ words32 e.periodStart ++
          [e.setId, word s.events.withheld, (s.events.number + 1).setWidth 16,
            ((s.events.number + 1) >>> 16).setWidth 16, (s.events.number + 1).setWidth 16])) ∧
    ((∀ n, n ∈ s.events.list) → ∃ t, s.postEvent e = t ∧
      t = { s with events := { s.events with withheld := min (s.events.withheld + 1) 65535 }, notices := t.notices } ∧
      OnlyRaised s t [.event])

/-- The three kinds of evaluation of one rule (R117 to R119). Instant, at a second close (R120): an LAFMAX or LCPEAK rule whose window
is active and whose instant latch is clear judges its receptor value and keeps it as last instant value; an event sets the latch.
Certain, at a second close (R121, R122): an LAEQ rule with condition OVER or REACH in an open period, its window active at the
start minute and its certain latch clear, judges the floor-Leq; an event sets the latch. Period, at an ALIGNED end (R124, R125): an
LAEQ, LA10 or LA90 rule whose window is active at the start minute judges the covered period values and keeps the receptor value as
last period value. An event carries the values of R128 and, but for a PERIOD event, gives the trigger of a tracing rule (R132). Every
other rule is left alone. The weekday of the windows at a period is that of the announcement (DEDUCED, log entry 10). -/
def Obligations.EvaluationsJudgeByTheirKind : Prop :=
  (∀ (s : State) (n : Fin 24) (m : Metric) (closed : Clock), ruleInUse s.live n = true → ruleMetric s.live n = some m →
    (m = .lafmax ∨ m = .lcpeak) →
    let active := windowActive (ruleStart s.live n) (ruleEnd s.live n) (ruleDays s.live n) (closed.second / 60) closed.weekday
    let value := receptorValue s.live (ruleReceptor s.live n) (memberValue (secondMaximum s m))
    ∃ t, State.evalAtSecond closed s n = t ∧ OnlyRuleTouched s t n ∧
    (active = false ∨ (s.rule n).instLatch = true ∨ value = none → t = s) ∧
    ∀ v h, active = true → (s.rule n).instLatch = false → value = some (v, h) →
      t.rule n = { s.rule n with lastInst := some v, instLatch := (t.rule n).instLatch } ∧
      ((t.rule n).instLatch = true ↔
        RuleHolds (ruleCondition s.live n) (ruleLimit s.live n) (ruleMargin s.live n) v (s.rule n).lastInst) ∧
      Judged s t .instant n v h (s.rule n).lastInst closed) ∧
  (∀ (s : State) (n : Fin 24) (closed : Clock), ruleInUse s.live n = true → ruleMetric s.live n = some .laeq →
    (ruleCondition s.live n = 1 ∨ ruleCondition s.live n = 2) →
    let active :=
      windowActive (ruleStart s.live n) (ruleEnd s.live n) (ruleDays s.live n) (s.period.startSecond / 60) closed.weekday
    let value := receptorValue s.live (ruleReceptor s.live n) (memberValue (countedFloor s))
    ∃ t, State.evalAtSecond closed s n = t ∧ OnlyRuleTouched s t n ∧
    (s.period.isOpen = false ∨ active = false ∨ (s.rule n).certLatch = true ∨ value = none → t = s) ∧
    ∀ v h, s.period.isOpen = true → active = true → (s.rule n).certLatch = false → value = some (v, h) →
      t.rule n = { s.rule n with certLatch := (t.rule n).certLatch } ∧
      ((t.rule n).certLatch = true ↔
        RuleHolds (ruleCondition s.live n) (ruleLimit s.live n) (ruleMargin s.live n) v (s.rule n).lastPeriod) ∧
      Judged s t .certain n v h (s.rule n).lastPeriod closed) ∧
  (∀ (s : State) (n : Fin 24) (closed : Clock), (ruleInUse s.live n = false ∨ ruleMetric s.live n = some .la10 ∨
    ruleMetric s.live n = some .la90 ∨
    (ruleMetric s.live n = some .laeq ∧ ruleCondition s.live n ≠ 1 ∧ ruleCondition s.live n ≠ 2)) →
    State.evalAtSecond closed s n = s) ∧
  ∀ (pre s : State) (n : Fin 24) (actual : Nat) (closed : Clock),
    let active :=
      windowActive (ruleStart s.live n) (ruleEnd s.live n) (ruleDays s.live n) (s.period.startSecond / 60) closed.weekday
    ∃ t, State.evalAtPeriod pre actual closed s n = t ∧ OnlyRuleTouched s t n ∧
    (ruleInUse s.live n = false ∨ active = false ∨ ruleMetric s.live n = some .lafmax ∨
      ruleMetric s.live n = some .lcpeak → t = s) ∧
    ∀ m, ruleInUse s.live n = true → active = true → ruleMetric s.live n = some m → (m = .laeq ∨ m = .la10 ∨ m = .la90) →
      let value := receptorValue s.live (ruleReceptor s.live n) (memberValue (coveredValue pre actual m))
      (value = none → t = s) ∧
      ∀ v h, value = some (v, h) → t.rule n = { s.rule n with lastPeriod := some v } ∧
        Judged s t .period n v h (s.rule n).lastPeriod closed

/-! ## Invariants that every step keeps -/

/-- State.reset meets every invariant. -/
def Obligations.InvariantsHoldAtReset : Prop :=
  StoreCanonical State.reset ∧ RegistersInRange State.reset ∧ LimitsValid State.reset ∧ RequestsInOrder State.reset ∧
    ShelvesInOrder State.reset ∧ ChannelsAgree State.reset ∧ MeasuresOnlyMeasuring State.reset

/-- Every step keeps the store in canonical form. -/
def Obligations.StepKeepsStoreCanonical : Prop := ∀ s t, StoreCanonical s → step s = .next t → StoreCanonical t

/-- Every step keeps site time, the head table, the port address, and every energy and energy sum in their ranges (R2, R12, R37,
R41, R49, R79, R183): no sum exceeds its present count of energies of 48 bits. -/
def Obligations.StepKeepsRegistersInRange : Prop := ∀ s t, RegistersInRange s → step s = .next t → RegistersInRange t

/-- The live limit set always passes validation (R105). -/
def Obligations.LiveLimitSetAlwaysPassesValidation : Prop := ∀ s t, LimitsValid s → step s = .next t → LimitsValid t

/-- Every step keeps the request queue, the slot states and the handed-over requests in order (R163 to R166). -/
def Obligations.StepKeepsRequestsInOrder : Prop := ∀ s t, RequestsInOrder s → step s = .next t → RequestsInOrder t

/-- Every step keeps the arrival lists without duplicates and every capture within its slot (R90, R149, R155, R157, R159). -/
def Obligations.StepKeepsShelvesInOrder : Prop := ∀ s t, ShelvesInOrder s → step s = .next t → ShelvesInOrder t

/-- Every step keeps each channel's counts in agreement (R56, R58). -/
def Obligations.StepKeepsChannelCountsInAgreement : Prop := ∀ s t, ChannelsAgree s → step s = .next t → ChannelsAgree t

/-- Every step keeps the part at rest outside MEASURING (R174), a channel open exactly while its head is not OFF (R53), and a
calibration on an ACTIVE head alone (R73). The exception is the model's: a completed calibration may stay on a head that the mark has
disabled, since the mark does not abort it (DEDUCED, log entry 7), between the mark and the end of the tick event, the stage `marked`
(DESIGN CHOICE, log entry 2). -/
def Obligations.StepKeepsPartAtRestOutsideMeasuring : Prop :=
  ∀ s t, MeasuresOnlyMeasuring s → step s = .next t → MeasuresOnlyMeasuring t
end

