-- ==== Sys2Proof/Laws/State.lean ====
section
/-! SUPPORT. What each named update leaves in every other field of the state, and what it leaves in its own table:
one lemma per field per update, so that no later proof unfolds a record update. -/

namespace Sys2Proof.Machine

open Sys2Proof

/-! ## Fields an update does not write -/

@[simp] theorem setHead_pending (s : State) (h : Fin 12) (x : Head) : (s.setHead h x).pending = s.pending := rfl
@[simp] theorem setHead_resetLow (s : State) (h : Fin 12) (x : Head) : (s.setHead h x).resetLow = s.resetLow := rfl
@[simp] theorem setHead_run (s : State) (h : Fin 12) (x : Head) : (s.setHead h x).run = s.run := rfl
@[simp] theorem setHead_lastClosed (s : State) (h : Fin 12) (x : Head) : (s.setHead h x).lastClosed = s.lastClosed := rfl
@[simp] theorem setHead_stage (s : State) (h : Fin 12) (x : Head) : (s.setHead h x).stage = s.stage := rfl
@[simp] theorem setHead_clock (s : State) (h : Fin 12) (x : Head) : (s.setHead h x).clock = s.clock := rfl
@[simp] theorem setHead_period (s : State) (h : Fin 12) (x : Head) : (s.setHead h x).period = s.period := rfl
@[simp] theorem setHead_clockSetting (s : State) (h : Fin 12) (x : Head) : (s.setHead h x).clockSetting = s.clockSetting := rfl
@[simp] theorem setHead_link (s : State) (h : Fin 12) (x : Head) : (s.setHead h x).link = s.link := rfl
@[simp] theorem setHead_channels (s : State) (h : Fin 12) (x : Head) : (s.setHead h x).channels = s.channels := rfl
@[simp] theorem setHead_calibrations (s : State) (h : Fin 12) (x : Head) : (s.setHead h x).calibrations = s.calibrations := rfl
@[simp] theorem setHead_live (s : State) (h : Fin 12) (x : Head) : (s.setHead h x).live = s.live := rfl
@[simp] theorem setHead_adoption (s : State) (h : Fin 12) (x : Head) : (s.setHead h x).adoption = s.adoption := rfl
@[simp] theorem setHead_rules (s : State) (h : Fin 12) (x : Head) : (s.setHead h x).rules = s.rules := rfl
@[simp] theorem setHead_events (s : State) (h : Fin 12) (x : Head) : (s.setHead h x).events = s.events := rfl
@[simp] theorem setHead_records (s : State) (h : Fin 12) (x : Head) : (s.setHead h x).records = s.records := rfl
@[simp] theorem setHead_trace (s : State) (h : Fin 12) (x : Head) : (s.setHead h x).trace = s.trace := rfl
@[simp] theorem setHead_requests (s : State) (h : Fin 12) (x : Head) : (s.setHead h x).requests = s.requests := rfl
@[simp] theorem setHead_store (s : State) (h : Fin 12) (x : Head) : (s.setHead h x).store = s.store := rfl
@[simp] theorem setHead_port (s : State) (h : Fin 12) (x : Head) : (s.setHead h x).port = s.port := rfl
@[simp] theorem setHead_notices (s : State) (h : Fin 12) (x : Head) : (s.setHead h x).notices = s.notices := rfl

@[simp] theorem setChannel_pending (s : State) (h : Fin 12) (x : Channel) : (s.setChannel h x).pending = s.pending := rfl
@[simp] theorem setChannel_resetLow (s : State) (h : Fin 12) (x : Channel) : (s.setChannel h x).resetLow = s.resetLow := rfl
@[simp] theorem setChannel_run (s : State) (h : Fin 12) (x : Channel) : (s.setChannel h x).run = s.run := rfl
@[simp] theorem setChannel_lastClosed (s : State) (h : Fin 12) (x : Channel) : (s.setChannel h x).lastClosed = s.lastClosed := rfl
@[simp] theorem setChannel_stage (s : State) (h : Fin 12) (x : Channel) : (s.setChannel h x).stage = s.stage := rfl
@[simp] theorem setChannel_clock (s : State) (h : Fin 12) (x : Channel) : (s.setChannel h x).clock = s.clock := rfl
@[simp] theorem setChannel_period (s : State) (h : Fin 12) (x : Channel) : (s.setChannel h x).period = s.period := rfl
@[simp] theorem setChannel_clockSetting (s : State) (h : Fin 12) (x : Channel) : (s.setChannel h x).clockSetting = s.clockSetting := rfl
@[simp] theorem setChannel_link (s : State) (h : Fin 12) (x : Channel) : (s.setChannel h x).link = s.link := rfl
@[simp] theorem setChannel_heads (s : State) (h : Fin 12) (x : Channel) : (s.setChannel h x).heads = s.heads := rfl
@[simp] theorem setChannel_calibrations (s : State) (h : Fin 12) (x : Channel) : (s.setChannel h x).calibrations = s.calibrations := rfl
@[simp] theorem setChannel_live (s : State) (h : Fin 12) (x : Channel) : (s.setChannel h x).live = s.live := rfl
@[simp] theorem setChannel_adoption (s : State) (h : Fin 12) (x : Channel) : (s.setChannel h x).adoption = s.adoption := rfl
@[simp] theorem setChannel_rules (s : State) (h : Fin 12) (x : Channel) : (s.setChannel h x).rules = s.rules := rfl
@[simp] theorem setChannel_events (s : State) (h : Fin 12) (x : Channel) : (s.setChannel h x).events = s.events := rfl
@[simp] theorem setChannel_records (s : State) (h : Fin 12) (x : Channel) : (s.setChannel h x).records = s.records := rfl
@[simp] theorem setChannel_trace (s : State) (h : Fin 12) (x : Channel) : (s.setChannel h x).trace = s.trace := rfl
@[simp] theorem setChannel_requests (s : State) (h : Fin 12) (x : Channel) : (s.setChannel h x).requests = s.requests := rfl
@[simp] theorem setChannel_store (s : State) (h : Fin 12) (x : Channel) : (s.setChannel h x).store = s.store := rfl
@[simp] theorem setChannel_port (s : State) (h : Fin 12) (x : Channel) : (s.setChannel h x).port = s.port := rfl
@[simp] theorem setChannel_notices (s : State) (h : Fin 12) (x : Channel) : (s.setChannel h x).notices = s.notices := rfl

@[simp] theorem setCalibration_pending (s : State) (h : Fin 12) (x : Calibration) : (s.setCalibration h x).pending = s.pending := rfl
@[simp] theorem setCalibration_resetLow (s : State) (h : Fin 12) (x : Calibration) : (s.setCalibration h x).resetLow = s.resetLow := rfl
@[simp] theorem setCalibration_run (s : State) (h : Fin 12) (x : Calibration) : (s.setCalibration h x).run = s.run := rfl
@[simp] theorem setCalibration_lastClosed (s : State) (h : Fin 12) (x : Calibration) : (s.setCalibration h x).lastClosed = s.lastClosed := rfl
@[simp] theorem setCalibration_stage (s : State) (h : Fin 12) (x : Calibration) : (s.setCalibration h x).stage = s.stage := rfl
@[simp] theorem setCalibration_clock (s : State) (h : Fin 12) (x : Calibration) : (s.setCalibration h x).clock = s.clock := rfl
@[simp] theorem setCalibration_period (s : State) (h : Fin 12) (x : Calibration) : (s.setCalibration h x).period = s.period := rfl
@[simp] theorem setCalibration_clockSetting (s : State) (h : Fin 12) (x : Calibration) : (s.setCalibration h x).clockSetting = s.clockSetting := rfl
@[simp] theorem setCalibration_link (s : State) (h : Fin 12) (x : Calibration) : (s.setCalibration h x).link = s.link := rfl
@[simp] theorem setCalibration_heads (s : State) (h : Fin 12) (x : Calibration) : (s.setCalibration h x).heads = s.heads := rfl
@[simp] theorem setCalibration_channels (s : State) (h : Fin 12) (x : Calibration) : (s.setCalibration h x).channels = s.channels := rfl
@[simp] theorem setCalibration_live (s : State) (h : Fin 12) (x : Calibration) : (s.setCalibration h x).live = s.live := rfl
@[simp] theorem setCalibration_adoption (s : State) (h : Fin 12) (x : Calibration) : (s.setCalibration h x).adoption = s.adoption := rfl
@[simp] theorem setCalibration_rules (s : State) (h : Fin 12) (x : Calibration) : (s.setCalibration h x).rules = s.rules := rfl
@[simp] theorem setCalibration_events (s : State) (h : Fin 12) (x : Calibration) : (s.setCalibration h x).events = s.events := rfl
@[simp] theorem setCalibration_records (s : State) (h : Fin 12) (x : Calibration) : (s.setCalibration h x).records = s.records := rfl
@[simp] theorem setCalibration_trace (s : State) (h : Fin 12) (x : Calibration) : (s.setCalibration h x).trace = s.trace := rfl
@[simp] theorem setCalibration_requests (s : State) (h : Fin 12) (x : Calibration) : (s.setCalibration h x).requests = s.requests := rfl
@[simp] theorem setCalibration_store (s : State) (h : Fin 12) (x : Calibration) : (s.setCalibration h x).store = s.store := rfl
@[simp] theorem setCalibration_port (s : State) (h : Fin 12) (x : Calibration) : (s.setCalibration h x).port = s.port := rfl
@[simp] theorem setCalibration_notices (s : State) (h : Fin 12) (x : Calibration) : (s.setCalibration h x).notices = s.notices := rfl

@[simp] theorem endCalibration_pending (s : State) (h : Fin 12) : (s.endCalibration h).pending = s.pending := rfl
@[simp] theorem endCalibration_resetLow (s : State) (h : Fin 12) : (s.endCalibration h).resetLow = s.resetLow := rfl
@[simp] theorem endCalibration_run (s : State) (h : Fin 12) : (s.endCalibration h).run = s.run := rfl
@[simp] theorem endCalibration_lastClosed (s : State) (h : Fin 12) : (s.endCalibration h).lastClosed = s.lastClosed := rfl
@[simp] theorem endCalibration_stage (s : State) (h : Fin 12) : (s.endCalibration h).stage = s.stage := rfl
@[simp] theorem endCalibration_clock (s : State) (h : Fin 12) : (s.endCalibration h).clock = s.clock := rfl
@[simp] theorem endCalibration_period (s : State) (h : Fin 12) : (s.endCalibration h).period = s.period := rfl
@[simp] theorem endCalibration_clockSetting (s : State) (h : Fin 12) : (s.endCalibration h).clockSetting = s.clockSetting := rfl
@[simp] theorem endCalibration_link (s : State) (h : Fin 12) : (s.endCalibration h).link = s.link := rfl
@[simp] theorem endCalibration_heads (s : State) (h : Fin 12) : (s.endCalibration h).heads = s.heads := rfl
@[simp] theorem endCalibration_channels (s : State) (h : Fin 12) : (s.endCalibration h).channels = s.channels := rfl
@[simp] theorem endCalibration_live (s : State) (h : Fin 12) : (s.endCalibration h).live = s.live := rfl
@[simp] theorem endCalibration_adoption (s : State) (h : Fin 12) : (s.endCalibration h).adoption = s.adoption := rfl
@[simp] theorem endCalibration_rules (s : State) (h : Fin 12) : (s.endCalibration h).rules = s.rules := rfl
@[simp] theorem endCalibration_events (s : State) (h : Fin 12) : (s.endCalibration h).events = s.events := rfl
@[simp] theorem endCalibration_records (s : State) (h : Fin 12) : (s.endCalibration h).records = s.records := rfl
@[simp] theorem endCalibration_trace (s : State) (h : Fin 12) : (s.endCalibration h).trace = s.trace := rfl
@[simp] theorem endCalibration_requests (s : State) (h : Fin 12) : (s.endCalibration h).requests = s.requests := rfl
@[simp] theorem endCalibration_store (s : State) (h : Fin 12) : (s.endCalibration h).store = s.store := rfl
@[simp] theorem endCalibration_port (s : State) (h : Fin 12) : (s.endCalibration h).port = s.port := rfl
@[simp] theorem endCalibration_notices (s : State) (h : Fin 12) : (s.endCalibration h).notices = s.notices := rfl

@[simp] theorem setBuffer_pending (s : State) (h : Fin 12) (x : Option Frame) : (s.setBuffer h x).pending = s.pending := rfl
@[simp] theorem setBuffer_resetLow (s : State) (h : Fin 12) (x : Option Frame) : (s.setBuffer h x).resetLow = s.resetLow := rfl
@[simp] theorem setBuffer_run (s : State) (h : Fin 12) (x : Option Frame) : (s.setBuffer h x).run = s.run := rfl
@[simp] theorem setBuffer_lastClosed (s : State) (h : Fin 12) (x : Option Frame) : (s.setBuffer h x).lastClosed = s.lastClosed := rfl
@[simp] theorem setBuffer_stage (s : State) (h : Fin 12) (x : Option Frame) : (s.setBuffer h x).stage = s.stage := rfl
@[simp] theorem setBuffer_clock (s : State) (h : Fin 12) (x : Option Frame) : (s.setBuffer h x).clock = s.clock := rfl
@[simp] theorem setBuffer_period (s : State) (h : Fin 12) (x : Option Frame) : (s.setBuffer h x).period = s.period := rfl
@[simp] theorem setBuffer_clockSetting (s : State) (h : Fin 12) (x : Option Frame) : (s.setBuffer h x).clockSetting = s.clockSetting := rfl
@[simp] theorem setBuffer_heads (s : State) (h : Fin 12) (x : Option Frame) : (s.setBuffer h x).heads = s.heads := rfl
@[simp] theorem setBuffer_channels (s : State) (h : Fin 12) (x : Option Frame) : (s.setBuffer h x).channels = s.channels := rfl
@[simp] theorem setBuffer_calibrations (s : State) (h : Fin 12) (x : Option Frame) : (s.setBuffer h x).calibrations = s.calibrations := rfl
@[simp] theorem setBuffer_live (s : State) (h : Fin 12) (x : Option Frame) : (s.setBuffer h x).live = s.live := rfl
@[simp] theorem setBuffer_adoption (s : State) (h : Fin 12) (x : Option Frame) : (s.setBuffer h x).adoption = s.adoption := rfl
@[simp] theorem setBuffer_rules (s : State) (h : Fin 12) (x : Option Frame) : (s.setBuffer h x).rules = s.rules := rfl
@[simp] theorem setBuffer_events (s : State) (h : Fin 12) (x : Option Frame) : (s.setBuffer h x).events = s.events := rfl
@[simp] theorem setBuffer_records (s : State) (h : Fin 12) (x : Option Frame) : (s.setBuffer h x).records = s.records := rfl
@[simp] theorem setBuffer_trace (s : State) (h : Fin 12) (x : Option Frame) : (s.setBuffer h x).trace = s.trace := rfl
@[simp] theorem setBuffer_requests (s : State) (h : Fin 12) (x : Option Frame) : (s.setBuffer h x).requests = s.requests := rfl
@[simp] theorem setBuffer_store (s : State) (h : Fin 12) (x : Option Frame) : (s.setBuffer h x).store = s.store := rfl
@[simp] theorem setBuffer_port (s : State) (h : Fin 12) (x : Option Frame) : (s.setBuffer h x).port = s.port := rfl
@[simp] theorem setBuffer_notices (s : State) (h : Fin 12) (x : Option Frame) : (s.setBuffer h x).notices = s.notices := rfl

@[simp] theorem setRule_pending (s : State) (n : Fin 24) (x : RuleState) : (s.setRule n x).pending = s.pending := rfl
@[simp] theorem setRule_resetLow (s : State) (n : Fin 24) (x : RuleState) : (s.setRule n x).resetLow = s.resetLow := rfl
@[simp] theorem setRule_run (s : State) (n : Fin 24) (x : RuleState) : (s.setRule n x).run = s.run := rfl
@[simp] theorem setRule_lastClosed (s : State) (n : Fin 24) (x : RuleState) : (s.setRule n x).lastClosed = s.lastClosed := rfl
@[simp] theorem setRule_stage (s : State) (n : Fin 24) (x : RuleState) : (s.setRule n x).stage = s.stage := rfl
@[simp] theorem setRule_clock (s : State) (n : Fin 24) (x : RuleState) : (s.setRule n x).clock = s.clock := rfl
@[simp] theorem setRule_period (s : State) (n : Fin 24) (x : RuleState) : (s.setRule n x).period = s.period := rfl
@[simp] theorem setRule_clockSetting (s : State) (n : Fin 24) (x : RuleState) : (s.setRule n x).clockSetting = s.clockSetting := rfl
@[simp] theorem setRule_link (s : State) (n : Fin 24) (x : RuleState) : (s.setRule n x).link = s.link := rfl
@[simp] theorem setRule_heads (s : State) (n : Fin 24) (x : RuleState) : (s.setRule n x).heads = s.heads := rfl
@[simp] theorem setRule_channels (s : State) (n : Fin 24) (x : RuleState) : (s.setRule n x).channels = s.channels := rfl
@[simp] theorem setRule_calibrations (s : State) (n : Fin 24) (x : RuleState) : (s.setRule n x).calibrations = s.calibrations := rfl
@[simp] theorem setRule_live (s : State) (n : Fin 24) (x : RuleState) : (s.setRule n x).live = s.live := rfl
@[simp] theorem setRule_adoption (s : State) (n : Fin 24) (x : RuleState) : (s.setRule n x).adoption = s.adoption := rfl
@[simp] theorem setRule_events (s : State) (n : Fin 24) (x : RuleState) : (s.setRule n x).events = s.events := rfl
@[simp] theorem setRule_records (s : State) (n : Fin 24) (x : RuleState) : (s.setRule n x).records = s.records := rfl
@[simp] theorem setRule_trace (s : State) (n : Fin 24) (x : RuleState) : (s.setRule n x).trace = s.trace := rfl
@[simp] theorem setRule_requests (s : State) (n : Fin 24) (x : RuleState) : (s.setRule n x).requests = s.requests := rfl
@[simp] theorem setRule_store (s : State) (n : Fin 24) (x : RuleState) : (s.setRule n x).store = s.store := rfl
@[simp] theorem setRule_port (s : State) (n : Fin 24) (x : RuleState) : (s.setRule n x).port = s.port := rfl
@[simp] theorem setRule_notices (s : State) (n : Fin 24) (x : RuleState) : (s.setRule n x).notices = s.notices := rfl

@[simp] theorem setSlot_pending (s : State) (n : Fin 8) (x : RequestSlot) : (s.setSlot n x).pending = s.pending := rfl
@[simp] theorem setSlot_resetLow (s : State) (n : Fin 8) (x : RequestSlot) : (s.setSlot n x).resetLow = s.resetLow := rfl
@[simp] theorem setSlot_run (s : State) (n : Fin 8) (x : RequestSlot) : (s.setSlot n x).run = s.run := rfl
@[simp] theorem setSlot_lastClosed (s : State) (n : Fin 8) (x : RequestSlot) : (s.setSlot n x).lastClosed = s.lastClosed := rfl
@[simp] theorem setSlot_stage (s : State) (n : Fin 8) (x : RequestSlot) : (s.setSlot n x).stage = s.stage := rfl
@[simp] theorem setSlot_clock (s : State) (n : Fin 8) (x : RequestSlot) : (s.setSlot n x).clock = s.clock := rfl
@[simp] theorem setSlot_period (s : State) (n : Fin 8) (x : RequestSlot) : (s.setSlot n x).period = s.period := rfl
@[simp] theorem setSlot_clockSetting (s : State) (n : Fin 8) (x : RequestSlot) : (s.setSlot n x).clockSetting = s.clockSetting := rfl
@[simp] theorem setSlot_link (s : State) (n : Fin 8) (x : RequestSlot) : (s.setSlot n x).link = s.link := rfl
@[simp] theorem setSlot_heads (s : State) (n : Fin 8) (x : RequestSlot) : (s.setSlot n x).heads = s.heads := rfl
@[simp] theorem setSlot_channels (s : State) (n : Fin 8) (x : RequestSlot) : (s.setSlot n x).channels = s.channels := rfl
@[simp] theorem setSlot_calibrations (s : State) (n : Fin 8) (x : RequestSlot) : (s.setSlot n x).calibrations = s.calibrations := rfl
@[simp] theorem setSlot_live (s : State) (n : Fin 8) (x : RequestSlot) : (s.setSlot n x).live = s.live := rfl
@[simp] theorem setSlot_adoption (s : State) (n : Fin 8) (x : RequestSlot) : (s.setSlot n x).adoption = s.adoption := rfl
@[simp] theorem setSlot_rules (s : State) (n : Fin 8) (x : RequestSlot) : (s.setSlot n x).rules = s.rules := rfl
@[simp] theorem setSlot_events (s : State) (n : Fin 8) (x : RequestSlot) : (s.setSlot n x).events = s.events := rfl
@[simp] theorem setSlot_records (s : State) (n : Fin 8) (x : RequestSlot) : (s.setSlot n x).records = s.records := rfl
@[simp] theorem setSlot_trace (s : State) (n : Fin 8) (x : RequestSlot) : (s.setSlot n x).trace = s.trace := rfl
@[simp] theorem setSlot_store (s : State) (n : Fin 8) (x : RequestSlot) : (s.setSlot n x).store = s.store := rfl
@[simp] theorem setSlot_port (s : State) (n : Fin 8) (x : RequestSlot) : (s.setSlot n x).port = s.port := rfl
@[simp] theorem setSlot_notices (s : State) (n : Fin 8) (x : RequestSlot) : (s.setSlot n x).notices = s.notices := rfl

@[simp] theorem pokeWords_pending (s : State) (a : Nat) (ws : List Word) : (s.pokeWords a ws).pending = s.pending := rfl
@[simp] theorem pokeWords_resetLow (s : State) (a : Nat) (ws : List Word) : (s.pokeWords a ws).resetLow = s.resetLow := rfl
@[simp] theorem pokeWords_run (s : State) (a : Nat) (ws : List Word) : (s.pokeWords a ws).run = s.run := rfl
@[simp] theorem pokeWords_lastClosed (s : State) (a : Nat) (ws : List Word) : (s.pokeWords a ws).lastClosed = s.lastClosed := rfl
@[simp] theorem pokeWords_stage (s : State) (a : Nat) (ws : List Word) : (s.pokeWords a ws).stage = s.stage := rfl
@[simp] theorem pokeWords_clock (s : State) (a : Nat) (ws : List Word) : (s.pokeWords a ws).clock = s.clock := rfl
@[simp] theorem pokeWords_period (s : State) (a : Nat) (ws : List Word) : (s.pokeWords a ws).period = s.period := rfl
@[simp] theorem pokeWords_clockSetting (s : State) (a : Nat) (ws : List Word) : (s.pokeWords a ws).clockSetting = s.clockSetting := rfl
@[simp] theorem pokeWords_link (s : State) (a : Nat) (ws : List Word) : (s.pokeWords a ws).link = s.link := rfl
@[simp] theorem pokeWords_heads (s : State) (a : Nat) (ws : List Word) : (s.pokeWords a ws).heads = s.heads := rfl
@[simp] theorem pokeWords_channels (s : State) (a : Nat) (ws : List Word) : (s.pokeWords a ws).channels = s.channels := rfl
@[simp] theorem pokeWords_calibrations (s : State) (a : Nat) (ws : List Word) : (s.pokeWords a ws).calibrations = s.calibrations := rfl
@[simp] theorem pokeWords_live (s : State) (a : Nat) (ws : List Word) : (s.pokeWords a ws).live = s.live := rfl
@[simp] theorem pokeWords_adoption (s : State) (a : Nat) (ws : List Word) : (s.pokeWords a ws).adoption = s.adoption := rfl
@[simp] theorem pokeWords_rules (s : State) (a : Nat) (ws : List Word) : (s.pokeWords a ws).rules = s.rules := rfl
@[simp] theorem pokeWords_events (s : State) (a : Nat) (ws : List Word) : (s.pokeWords a ws).events = s.events := rfl
@[simp] theorem pokeWords_records (s : State) (a : Nat) (ws : List Word) : (s.pokeWords a ws).records = s.records := rfl
@[simp] theorem pokeWords_trace (s : State) (a : Nat) (ws : List Word) : (s.pokeWords a ws).trace = s.trace := rfl
@[simp] theorem pokeWords_requests (s : State) (a : Nat) (ws : List Word) : (s.pokeWords a ws).requests = s.requests := rfl
@[simp] theorem pokeWords_port (s : State) (a : Nat) (ws : List Word) : (s.pokeWords a ws).port = s.port := rfl
@[simp] theorem pokeWords_notices (s : State) (a : Nat) (ws : List Word) : (s.pokeWords a ws).notices = s.notices := rfl

@[simp] theorem raise_pending (s : State) (c : NoticeClass) : (s.raise c).pending = s.pending := rfl
@[simp] theorem raise_resetLow (s : State) (c : NoticeClass) : (s.raise c).resetLow = s.resetLow := rfl
@[simp] theorem raise_run (s : State) (c : NoticeClass) : (s.raise c).run = s.run := rfl
@[simp] theorem raise_lastClosed (s : State) (c : NoticeClass) : (s.raise c).lastClosed = s.lastClosed := rfl
@[simp] theorem raise_stage (s : State) (c : NoticeClass) : (s.raise c).stage = s.stage := rfl
@[simp] theorem raise_clock (s : State) (c : NoticeClass) : (s.raise c).clock = s.clock := rfl
@[simp] theorem raise_period (s : State) (c : NoticeClass) : (s.raise c).period = s.period := rfl
@[simp] theorem raise_clockSetting (s : State) (c : NoticeClass) : (s.raise c).clockSetting = s.clockSetting := rfl
@[simp] theorem raise_link (s : State) (c : NoticeClass) : (s.raise c).link = s.link := rfl
@[simp] theorem raise_heads (s : State) (c : NoticeClass) : (s.raise c).heads = s.heads := rfl
@[simp] theorem raise_channels (s : State) (c : NoticeClass) : (s.raise c).channels = s.channels := rfl
@[simp] theorem raise_calibrations (s : State) (c : NoticeClass) : (s.raise c).calibrations = s.calibrations := rfl
@[simp] theorem raise_live (s : State) (c : NoticeClass) : (s.raise c).live = s.live := rfl
@[simp] theorem raise_adoption (s : State) (c : NoticeClass) : (s.raise c).adoption = s.adoption := rfl
@[simp] theorem raise_rules (s : State) (c : NoticeClass) : (s.raise c).rules = s.rules := rfl
@[simp] theorem raise_events (s : State) (c : NoticeClass) : (s.raise c).events = s.events := rfl
@[simp] theorem raise_records (s : State) (c : NoticeClass) : (s.raise c).records = s.records := rfl
@[simp] theorem raise_trace (s : State) (c : NoticeClass) : (s.raise c).trace = s.trace := rfl
@[simp] theorem raise_requests (s : State) (c : NoticeClass) : (s.raise c).requests = s.requests := rfl
@[simp] theorem raise_store (s : State) (c : NoticeClass) : (s.raise c).store = s.store := rfl
@[simp] theorem raise_port (s : State) (c : NoticeClass) : (s.raise c).port = s.port := rfl

@[simp] theorem unraise_pending (s : State) (c : NoticeClass) : (s.unraise c).pending = s.pending := rfl
@[simp] theorem unraise_resetLow (s : State) (c : NoticeClass) : (s.unraise c).resetLow = s.resetLow := rfl
@[simp] theorem unraise_run (s : State) (c : NoticeClass) : (s.unraise c).run = s.run := rfl
@[simp] theorem unraise_lastClosed (s : State) (c : NoticeClass) : (s.unraise c).lastClosed = s.lastClosed := rfl
@[simp] theorem unraise_stage (s : State) (c : NoticeClass) : (s.unraise c).stage = s.stage := rfl
@[simp] theorem unraise_clock (s : State) (c : NoticeClass) : (s.unraise c).clock = s.clock := rfl
@[simp] theorem unraise_period (s : State) (c : NoticeClass) : (s.unraise c).period = s.period := rfl
@[simp] theorem unraise_clockSetting (s : State) (c : NoticeClass) : (s.unraise c).clockSetting = s.clockSetting := rfl
@[simp] theorem unraise_link (s : State) (c : NoticeClass) : (s.unraise c).link = s.link := rfl
@[simp] theorem unraise_heads (s : State) (c : NoticeClass) : (s.unraise c).heads = s.heads := rfl
@[simp] theorem unraise_channels (s : State) (c : NoticeClass) : (s.unraise c).channels = s.channels := rfl
@[simp] theorem unraise_calibrations (s : State) (c : NoticeClass) : (s.unraise c).calibrations = s.calibrations := rfl
@[simp] theorem unraise_live (s : State) (c : NoticeClass) : (s.unraise c).live = s.live := rfl
@[simp] theorem unraise_adoption (s : State) (c : NoticeClass) : (s.unraise c).adoption = s.adoption := rfl
@[simp] theorem unraise_rules (s : State) (c : NoticeClass) : (s.unraise c).rules = s.rules := rfl
@[simp] theorem unraise_events (s : State) (c : NoticeClass) : (s.unraise c).events = s.events := rfl
@[simp] theorem unraise_records (s : State) (c : NoticeClass) : (s.unraise c).records = s.records := rfl
@[simp] theorem unraise_trace (s : State) (c : NoticeClass) : (s.unraise c).trace = s.trace := rfl
@[simp] theorem unraise_requests (s : State) (c : NoticeClass) : (s.unraise c).requests = s.requests := rfl
@[simp] theorem unraise_store (s : State) (c : NoticeClass) : (s.unraise c).store = s.store := rfl
@[simp] theorem unraise_port (s : State) (c : NoticeClass) : (s.unraise c).port = s.port := rfl

@[simp] theorem answer_pending (s : State) (n : Fin 8) (c : AnswerCode) (d : Nat) (r : List Word) : (s.answer n c d r).pending = s.pending := rfl
@[simp] theorem answer_resetLow (s : State) (n : Fin 8) (c : AnswerCode) (d : Nat) (r : List Word) : (s.answer n c d r).resetLow = s.resetLow := rfl
@[simp] theorem answer_run (s : State) (n : Fin 8) (c : AnswerCode) (d : Nat) (r : List Word) : (s.answer n c d r).run = s.run := rfl
@[simp] theorem answer_lastClosed (s : State) (n : Fin 8) (c : AnswerCode) (d : Nat) (r : List Word) : (s.answer n c d r).lastClosed = s.lastClosed := rfl
@[simp] theorem answer_stage (s : State) (n : Fin 8) (c : AnswerCode) (d : Nat) (r : List Word) : (s.answer n c d r).stage = s.stage := rfl
@[simp] theorem answer_clock (s : State) (n : Fin 8) (c : AnswerCode) (d : Nat) (r : List Word) : (s.answer n c d r).clock = s.clock := rfl
@[simp] theorem answer_period (s : State) (n : Fin 8) (c : AnswerCode) (d : Nat) (r : List Word) : (s.answer n c d r).period = s.period := rfl
@[simp] theorem answer_clockSetting (s : State) (n : Fin 8) (c : AnswerCode) (d : Nat) (r : List Word) : (s.answer n c d r).clockSetting = s.clockSetting := rfl
@[simp] theorem answer_link (s : State) (n : Fin 8) (c : AnswerCode) (d : Nat) (r : List Word) : (s.answer n c d r).link = s.link := rfl
@[simp] theorem answer_heads (s : State) (n : Fin 8) (c : AnswerCode) (d : Nat) (r : List Word) : (s.answer n c d r).heads = s.heads := rfl
@[simp] theorem answer_channels (s : State) (n : Fin 8) (c : AnswerCode) (d : Nat) (r : List Word) : (s.answer n c d r).channels = s.channels := rfl
@[simp] theorem answer_calibrations (s : State) (n : Fin 8) (c : AnswerCode) (d : Nat) (r : List Word) : (s.answer n c d r).calibrations = s.calibrations := rfl
@[simp] theorem answer_live (s : State) (n : Fin 8) (c : AnswerCode) (d : Nat) (r : List Word) : (s.answer n c d r).live = s.live := rfl
@[simp] theorem answer_adoption (s : State) (n : Fin 8) (c : AnswerCode) (d : Nat) (r : List Word) : (s.answer n c d r).adoption = s.adoption := rfl
@[simp] theorem answer_rules (s : State) (n : Fin 8) (c : AnswerCode) (d : Nat) (r : List Word) : (s.answer n c d r).rules = s.rules := rfl
@[simp] theorem answer_events (s : State) (n : Fin 8) (c : AnswerCode) (d : Nat) (r : List Word) : (s.answer n c d r).events = s.events := rfl
@[simp] theorem answer_records (s : State) (n : Fin 8) (c : AnswerCode) (d : Nat) (r : List Word) : (s.answer n c d r).records = s.records := rfl
@[simp] theorem answer_trace (s : State) (n : Fin 8) (c : AnswerCode) (d : Nat) (r : List Word) : (s.answer n c d r).trace = s.trace := rfl
@[simp] theorem answer_port (s : State) (n : Fin 8) (c : AnswerCode) (d : Nat) (r : List Word) : (s.answer n c d r).port = s.port := rfl

@[simp] theorem setTraceMode_pending (s : State) (m : TraceMode) : (s.setTraceMode m).pending = s.pending := rfl
@[simp] theorem setTraceMode_resetLow (s : State) (m : TraceMode) : (s.setTraceMode m).resetLow = s.resetLow := rfl
@[simp] theorem setTraceMode_run (s : State) (m : TraceMode) : (s.setTraceMode m).run = s.run := rfl
@[simp] theorem setTraceMode_lastClosed (s : State) (m : TraceMode) : (s.setTraceMode m).lastClosed = s.lastClosed := rfl
@[simp] theorem setTraceMode_stage (s : State) (m : TraceMode) : (s.setTraceMode m).stage = s.stage := rfl
@[simp] theorem setTraceMode_clock (s : State) (m : TraceMode) : (s.setTraceMode m).clock = s.clock := rfl
@[simp] theorem setTraceMode_period (s : State) (m : TraceMode) : (s.setTraceMode m).period = s.period := rfl
@[simp] theorem setTraceMode_clockSetting (s : State) (m : TraceMode) : (s.setTraceMode m).clockSetting = s.clockSetting := rfl
@[simp] theorem setTraceMode_link (s : State) (m : TraceMode) : (s.setTraceMode m).link = s.link := rfl
@[simp] theorem setTraceMode_heads (s : State) (m : TraceMode) : (s.setTraceMode m).heads = s.heads := rfl
@[simp] theorem setTraceMode_channels (s : State) (m : TraceMode) : (s.setTraceMode m).channels = s.channels := rfl
@[simp] theorem setTraceMode_calibrations (s : State) (m : TraceMode) : (s.setTraceMode m).calibrations = s.calibrations := rfl
@[simp] theorem setTraceMode_live (s : State) (m : TraceMode) : (s.setTraceMode m).live = s.live := rfl
@[simp] theorem setTraceMode_adoption (s : State) (m : TraceMode) : (s.setTraceMode m).adoption = s.adoption := rfl
@[simp] theorem setTraceMode_rules (s : State) (m : TraceMode) : (s.setTraceMode m).rules = s.rules := rfl
@[simp] theorem setTraceMode_events (s : State) (m : TraceMode) : (s.setTraceMode m).events = s.events := rfl
@[simp] theorem setTraceMode_records (s : State) (m : TraceMode) : (s.setTraceMode m).records = s.records := rfl
@[simp] theorem setTraceMode_requests (s : State) (m : TraceMode) : (s.setTraceMode m).requests = s.requests := rfl
@[simp] theorem setTraceMode_store (s : State) (m : TraceMode) : (s.setTraceMode m).store = s.store := rfl
@[simp] theorem setTraceMode_port (s : State) (m : TraceMode) : (s.setTraceMode m).port = s.port := rfl
@[simp] theorem setTraceMode_notices (s : State) (m : TraceMode) : (s.setTraceMode m).notices = s.notices := rfl

@[simp] theorem missTrigger_pending (s : State) : (s.missTrigger).pending = s.pending := rfl
@[simp] theorem missTrigger_resetLow (s : State) : (s.missTrigger).resetLow = s.resetLow := rfl
@[simp] theorem missTrigger_run (s : State) : (s.missTrigger).run = s.run := rfl
@[simp] theorem missTrigger_lastClosed (s : State) : (s.missTrigger).lastClosed = s.lastClosed := rfl
@[simp] theorem missTrigger_stage (s : State) : (s.missTrigger).stage = s.stage := rfl
@[simp] theorem missTrigger_clock (s : State) : (s.missTrigger).clock = s.clock := rfl
@[simp] theorem missTrigger_period (s : State) : (s.missTrigger).period = s.period := rfl
@[simp] theorem missTrigger_clockSetting (s : State) : (s.missTrigger).clockSetting = s.clockSetting := rfl
@[simp] theorem missTrigger_link (s : State) : (s.missTrigger).link = s.link := rfl
@[simp] theorem missTrigger_heads (s : State) : (s.missTrigger).heads = s.heads := rfl
@[simp] theorem missTrigger_channels (s : State) : (s.missTrigger).channels = s.channels := rfl
@[simp] theorem missTrigger_calibrations (s : State) : (s.missTrigger).calibrations = s.calibrations := rfl
@[simp] theorem missTrigger_live (s : State) : (s.missTrigger).live = s.live := rfl
@[simp] theorem missTrigger_adoption (s : State) : (s.missTrigger).adoption = s.adoption := rfl
@[simp] theorem missTrigger_rules (s : State) : (s.missTrigger).rules = s.rules := rfl
@[simp] theorem missTrigger_events (s : State) : (s.missTrigger).events = s.events := rfl
@[simp] theorem missTrigger_records (s : State) : (s.missTrigger).records = s.records := rfl
@[simp] theorem missTrigger_requests (s : State) : (s.missTrigger).requests = s.requests := rfl
@[simp] theorem missTrigger_store (s : State) : (s.missTrigger).store = s.store := rfl
@[simp] theorem missTrigger_port (s : State) : (s.missTrigger).port = s.port := rfl
@[simp] theorem missTrigger_notices (s : State) : (s.missTrigger).notices = s.notices := rfl

@[simp] theorem clearRules_pending (s : State) : (s.clearRules).pending = s.pending := rfl
@[simp] theorem clearRules_resetLow (s : State) : (s.clearRules).resetLow = s.resetLow := rfl
@[simp] theorem clearRules_run (s : State) : (s.clearRules).run = s.run := rfl
@[simp] theorem clearRules_lastClosed (s : State) : (s.clearRules).lastClosed = s.lastClosed := rfl
@[simp] theorem clearRules_stage (s : State) : (s.clearRules).stage = s.stage := rfl
@[simp] theorem clearRules_clock (s : State) : (s.clearRules).clock = s.clock := rfl
@[simp] theorem clearRules_period (s : State) : (s.clearRules).period = s.period := rfl
@[simp] theorem clearRules_clockSetting (s : State) : (s.clearRules).clockSetting = s.clockSetting := rfl
@[simp] theorem clearRules_link (s : State) : (s.clearRules).link = s.link := rfl
@[simp] theorem clearRules_heads (s : State) : (s.clearRules).heads = s.heads := rfl
@[simp] theorem clearRules_channels (s : State) : (s.clearRules).channels = s.channels := rfl
@[simp] theorem clearRules_calibrations (s : State) : (s.clearRules).calibrations = s.calibrations := rfl
@[simp] theorem clearRules_live (s : State) : (s.clearRules).live = s.live := rfl
@[simp] theorem clearRules_adoption (s : State) : (s.clearRules).adoption = s.adoption := rfl
@[simp] theorem clearRules_events (s : State) : (s.clearRules).events = s.events := rfl
@[simp] theorem clearRules_records (s : State) : (s.clearRules).records = s.records := rfl
@[simp] theorem clearRules_trace (s : State) : (s.clearRules).trace = s.trace := rfl
@[simp] theorem clearRules_requests (s : State) : (s.clearRules).requests = s.requests := rfl
@[simp] theorem clearRules_store (s : State) : (s.clearRules).store = s.store := rfl
@[simp] theorem clearRules_port (s : State) : (s.clearRules).port = s.port := rfl
@[simp] theorem clearRules_notices (s : State) : (s.clearRules).notices = s.notices := rfl

@[simp] theorem drive_pending (s : State) (d : PortData) : (s.drive d).pending = s.pending := rfl
@[simp] theorem drive_resetLow (s : State) (d : PortData) : (s.drive d).resetLow = s.resetLow := rfl
@[simp] theorem drive_run (s : State) (d : PortData) : (s.drive d).run = s.run := rfl
@[simp] theorem drive_lastClosed (s : State) (d : PortData) : (s.drive d).lastClosed = s.lastClosed := rfl
@[simp] theorem drive_stage (s : State) (d : PortData) : (s.drive d).stage = s.stage := rfl
@[simp] theorem drive_clock (s : State) (d : PortData) : (s.drive d).clock = s.clock := rfl
@[simp] theorem drive_period (s : State) (d : PortData) : (s.drive d).period = s.period := rfl
@[simp] theorem drive_clockSetting (s : State) (d : PortData) : (s.drive d).clockSetting = s.clockSetting := rfl
@[simp] theorem drive_link (s : State) (d : PortData) : (s.drive d).link = s.link := rfl
@[simp] theorem drive_heads (s : State) (d : PortData) : (s.drive d).heads = s.heads := rfl
@[simp] theorem drive_channels (s : State) (d : PortData) : (s.drive d).channels = s.channels := rfl
@[simp] theorem drive_calibrations (s : State) (d : PortData) : (s.drive d).calibrations = s.calibrations := rfl
@[simp] theorem drive_live (s : State) (d : PortData) : (s.drive d).live = s.live := rfl
@[simp] theorem drive_adoption (s : State) (d : PortData) : (s.drive d).adoption = s.adoption := rfl
@[simp] theorem drive_rules (s : State) (d : PortData) : (s.drive d).rules = s.rules := rfl
@[simp] theorem drive_events (s : State) (d : PortData) : (s.drive d).events = s.events := rfl
@[simp] theorem drive_records (s : State) (d : PortData) : (s.drive d).records = s.records := rfl
@[simp] theorem drive_trace (s : State) (d : PortData) : (s.drive d).trace = s.trace := rfl
@[simp] theorem drive_requests (s : State) (d : PortData) : (s.drive d).requests = s.requests := rfl
@[simp] theorem drive_store (s : State) (d : PortData) : (s.drive d).store = s.store := rfl
@[simp] theorem drive_notices (s : State) (d : PortData) : (s.drive d).notices = s.notices := rfl

@[simp] theorem stepWadr_pending (s : State) : (s.stepWadr).pending = s.pending := rfl
@[simp] theorem stepWadr_resetLow (s : State) : (s.stepWadr).resetLow = s.resetLow := rfl
@[simp] theorem stepWadr_run (s : State) : (s.stepWadr).run = s.run := rfl
@[simp] theorem stepWadr_lastClosed (s : State) : (s.stepWadr).lastClosed = s.lastClosed := rfl
@[simp] theorem stepWadr_stage (s : State) : (s.stepWadr).stage = s.stage := rfl
@[simp] theorem stepWadr_clock (s : State) : (s.stepWadr).clock = s.clock := rfl
@[simp] theorem stepWadr_period (s : State) : (s.stepWadr).period = s.period := rfl
@[simp] theorem stepWadr_clockSetting (s : State) : (s.stepWadr).clockSetting = s.clockSetting := rfl
@[simp] theorem stepWadr_link (s : State) : (s.stepWadr).link = s.link := rfl
@[simp] theorem stepWadr_heads (s : State) : (s.stepWadr).heads = s.heads := rfl
@[simp] theorem stepWadr_channels (s : State) : (s.stepWadr).channels = s.channels := rfl
@[simp] theorem stepWadr_calibrations (s : State) : (s.stepWadr).calibrations = s.calibrations := rfl
@[simp] theorem stepWadr_live (s : State) : (s.stepWadr).live = s.live := rfl
@[simp] theorem stepWadr_adoption (s : State) : (s.stepWadr).adoption = s.adoption := rfl
@[simp] theorem stepWadr_rules (s : State) : (s.stepWadr).rules = s.rules := rfl
@[simp] theorem stepWadr_events (s : State) : (s.stepWadr).events = s.events := rfl
@[simp] theorem stepWadr_records (s : State) : (s.stepWadr).records = s.records := rfl
@[simp] theorem stepWadr_trace (s : State) : (s.stepWadr).trace = s.trace := rfl
@[simp] theorem stepWadr_requests (s : State) : (s.stepWadr).requests = s.requests := rfl
@[simp] theorem stepWadr_store (s : State) : (s.stepWadr).store = s.store := rfl
@[simp] theorem stepWadr_notices (s : State) : (s.stepWadr).notices = s.notices := rfl

@[simp] theorem take_pending (s : State) (n : Fin 8) : (s.take n).pending = s.pending := rfl
@[simp] theorem take_resetLow (s : State) (n : Fin 8) : (s.take n).resetLow = s.resetLow := rfl
@[simp] theorem take_run (s : State) (n : Fin 8) : (s.take n).run = s.run := rfl
@[simp] theorem take_lastClosed (s : State) (n : Fin 8) : (s.take n).lastClosed = s.lastClosed := rfl
@[simp] theorem take_stage (s : State) (n : Fin 8) : (s.take n).stage = s.stage := rfl
@[simp] theorem take_clock (s : State) (n : Fin 8) : (s.take n).clock = s.clock := rfl
@[simp] theorem take_period (s : State) (n : Fin 8) : (s.take n).period = s.period := rfl
@[simp] theorem take_clockSetting (s : State) (n : Fin 8) : (s.take n).clockSetting = s.clockSetting := rfl
@[simp] theorem take_link (s : State) (n : Fin 8) : (s.take n).link = s.link := rfl
@[simp] theorem take_heads (s : State) (n : Fin 8) : (s.take n).heads = s.heads := rfl
@[simp] theorem take_channels (s : State) (n : Fin 8) : (s.take n).channels = s.channels := rfl
@[simp] theorem take_calibrations (s : State) (n : Fin 8) : (s.take n).calibrations = s.calibrations := rfl
@[simp] theorem take_live (s : State) (n : Fin 8) : (s.take n).live = s.live := rfl
@[simp] theorem take_adoption (s : State) (n : Fin 8) : (s.take n).adoption = s.adoption := rfl
@[simp] theorem take_rules (s : State) (n : Fin 8) : (s.take n).rules = s.rules := rfl
@[simp] theorem take_events (s : State) (n : Fin 8) : (s.take n).events = s.events := rfl
@[simp] theorem take_records (s : State) (n : Fin 8) : (s.take n).records = s.records := rfl
@[simp] theorem take_trace (s : State) (n : Fin 8) : (s.take n).trace = s.trace := rfl
@[simp] theorem take_store (s : State) (n : Fin 8) : (s.take n).store = s.store := rfl
@[simp] theorem take_port (s : State) (n : Fin 8) : (s.take n).port = s.port := rfl
@[simp] theorem take_notices (s : State) (n : Fin 8) : (s.take n).notices = s.notices := rfl

@[simp] theorem endService_pending (s : State) : (s.endService).pending = s.pending := rfl
@[simp] theorem endService_resetLow (s : State) : (s.endService).resetLow = s.resetLow := rfl
@[simp] theorem endService_run (s : State) : (s.endService).run = s.run := rfl
@[simp] theorem endService_lastClosed (s : State) : (s.endService).lastClosed = s.lastClosed := rfl
@[simp] theorem endService_stage (s : State) : (s.endService).stage = s.stage := rfl
@[simp] theorem endService_clock (s : State) : (s.endService).clock = s.clock := rfl
@[simp] theorem endService_period (s : State) : (s.endService).period = s.period := rfl
@[simp] theorem endService_clockSetting (s : State) : (s.endService).clockSetting = s.clockSetting := rfl
@[simp] theorem endService_link (s : State) : (s.endService).link = s.link := rfl
@[simp] theorem endService_heads (s : State) : (s.endService).heads = s.heads := rfl
@[simp] theorem endService_channels (s : State) : (s.endService).channels = s.channels := rfl
@[simp] theorem endService_calibrations (s : State) : (s.endService).calibrations = s.calibrations := rfl
@[simp] theorem endService_live (s : State) : (s.endService).live = s.live := rfl
@[simp] theorem endService_adoption (s : State) : (s.endService).adoption = s.adoption := rfl
@[simp] theorem endService_rules (s : State) : (s.endService).rules = s.rules := rfl
@[simp] theorem endService_events (s : State) : (s.endService).events = s.events := rfl
@[simp] theorem endService_records (s : State) : (s.endService).records = s.records := rfl
@[simp] theorem endService_trace (s : State) : (s.endService).trace = s.trace := rfl
@[simp] theorem endService_store (s : State) : (s.endService).store = s.store := rfl
@[simp] theorem endService_port (s : State) : (s.endService).port = s.port := rfl
@[simp] theorem endService_notices (s : State) : (s.endService).notices = s.notices := rfl

/-! ## Tables: the entry written, and the others -/

theorem vector_get_set_same {α : Type} {n : Nat} (v : Vector α n) (i : Fin n) (x : α) : (v.set i.val x i.isLt)[i] = x := by
  simp

theorem vector_get_set_ne {α : Type} {n : Nat} (v : Vector α n) (i j : Fin n) (x : α) (h : i ≠ j) :
    (v.set i.val x i.isLt)[j] = v[j] := by
  have hv : i.val ≠ j.val := fun e => h (Fin.ext e)
  simp [Fin.getElem_fin, Vector.getElem_set_ne, hv]

@[simp] theorem head_setHead_same (s : State) (i : Fin 12) (x : Head) : (s.setHead i x).head i = x :=
  vector_get_set_same _ i x

@[simp] theorem head_setHead_ne (s : State) (i j : Fin 12) (x : Head) (h : i ≠ j) : (s.setHead i x).head j = s.head j :=
  vector_get_set_ne _ i j x h

theorem head_setHead (s : State) (i j : Fin 12) (x : Head) : (s.setHead i x).head j = if i = j then x else s.head j := by
  by_cases h : i = j
  · subst h; simp
  · simp [h]

@[simp] theorem channel_setChannel_same (s : State) (i : Fin 12) (x : Channel) : (s.setChannel i x).channel i = x :=
  vector_get_set_same _ i x

@[simp] theorem channel_setChannel_ne (s : State) (i j : Fin 12) (x : Channel) (h : i ≠ j) : (s.setChannel i x).channel j = s.channel j :=
  vector_get_set_ne _ i j x h

theorem channel_setChannel (s : State) (i j : Fin 12) (x : Channel) : (s.setChannel i x).channel j = if i = j then x else s.channel j := by
  by_cases h : i = j
  · subst h; simp
  · simp [h]

@[simp] theorem calRecord_setCalibration_same (s : State) (i : Fin 12) (x : Calibration) : (s.setCalibration i x).calRecord i = x :=
  vector_get_set_same _ i x

@[simp] theorem calRecord_setCalibration_ne (s : State) (i j : Fin 12) (x : Calibration) (h : i ≠ j) : (s.setCalibration i x).calRecord j = s.calRecord j :=
  vector_get_set_ne _ i j x h

theorem calRecord_setCalibration (s : State) (i j : Fin 12) (x : Calibration) : (s.setCalibration i x).calRecord j = if i = j then x else s.calRecord j := by
  by_cases h : i = j
  · subst h; simp
  · simp [h]

@[simp] theorem buffer_setBuffer_same (s : State) (i : Fin 12) (x : Option Frame) : (s.setBuffer i x).buffer i = x :=
  vector_get_set_same _ i x

@[simp] theorem buffer_setBuffer_ne (s : State) (i j : Fin 12) (x : Option Frame) (h : i ≠ j) : (s.setBuffer i x).buffer j = s.buffer j :=
  vector_get_set_ne _ i j x h

theorem buffer_setBuffer (s : State) (i j : Fin 12) (x : Option Frame) : (s.setBuffer i x).buffer j = if i = j then x else s.buffer j := by
  by_cases h : i = j
  · subst h; simp
  · simp [h]

@[simp] theorem rule_setRule_same (s : State) (i : Fin 24) (x : RuleState) : (s.setRule i x).rule i = x :=
  vector_get_set_same _ i x

@[simp] theorem rule_setRule_ne (s : State) (i j : Fin 24) (x : RuleState) (h : i ≠ j) : (s.setRule i x).rule j = s.rule j :=
  vector_get_set_ne _ i j x h

theorem rule_setRule (s : State) (i j : Fin 24) (x : RuleState) : (s.setRule i x).rule j = if i = j then x else s.rule j := by
  by_cases h : i = j
  · subst h; simp
  · simp [h]

@[simp] theorem slot_setSlot_same (s : State) (i : Fin 8) (x : RequestSlot) : (s.setSlot i x).slot i = x :=
  vector_get_set_same _ i x

@[simp] theorem slot_setSlot_ne (s : State) (i j : Fin 8) (x : RequestSlot) (h : i ≠ j) : (s.setSlot i x).slot j = s.slot j :=
  vector_get_set_ne _ i j x h

theorem slot_setSlot (s : State) (i j : Fin 8) (x : RequestSlot) : (s.setSlot i x).slot j = if i = j then x else s.slot j := by
  by_cases h : i = j
  · subst h; simp
  · simp [h]

/-- The calibration in progress after a record is written: the record itself when it says so. -/
theorem calibration_setCalibration (s : State) (i j : Fin 12) (x : Calibration) :
    (s.setCalibration i x).calibration j = if i = j then (if x.inProgress then some x else none) else s.calibration j := by
  unfold State.calibration
  rw [calRecord_setCalibration]
  by_cases h : i = j <;> simp [h]

@[simp] theorem calibration_endCalibration_same (s : State) (h : Fin 12) : (s.endCalibration h).calibration h = none := by
  simp [State.endCalibration, calibration_setCalibration]

@[simp] theorem calibration_endCalibration_ne (s : State) (i j : Fin 12) (h : i ≠ j) :
    (s.endCalibration i).calibration j = s.calibration j := by
  simp [State.endCalibration, calibration_setCalibration, h]

/-! ## Reading a table through an update of another -/

@[simp] theorem channel_setHead_keep (s : State) (h : Fin 12) (x : Head) (i : Fin 12) : (s.setHead h x).channel i = s.channel i := rfl
@[simp] theorem calRecord_setHead_keep (s : State) (h : Fin 12) (x : Head) (i : Fin 12) : (s.setHead h x).calRecord i = s.calRecord i := rfl
@[simp] theorem calibration_setHead_keep (s : State) (h : Fin 12) (x : Head) (i : Fin 12) : (s.setHead h x).calibration i = s.calibration i := rfl
@[simp] theorem buffer_setHead_keep (s : State) (h : Fin 12) (x : Head) (i : Fin 12) : (s.setHead h x).buffer i = s.buffer i := rfl
@[simp] theorem rule_setHead_keep (s : State) (h : Fin 12) (x : Head) (i : Fin 24) : (s.setHead h x).rule i = s.rule i := rfl
@[simp] theorem slot_setHead_keep (s : State) (h : Fin 12) (x : Head) (i : Fin 8) : (s.setHead h x).slot i = s.slot i := rfl
@[simp] theorem peekWord_setHead_keep (s : State) (h : Fin 12) (x : Head) (i : Nat) : (s.setHead h x).peekWord i = s.peekWord i := rfl
@[simp] theorem enabled_setHead_keep (s : State) (h : Fin 12) (x : Head) (i : Fin 12) : (s.setHead h x).enabled i = s.enabled i := rfl

@[simp] theorem head_setChannel_keep (s : State) (h : Fin 12) (x : Channel) (i : Fin 12) : (s.setChannel h x).head i = s.head i := rfl
@[simp] theorem calRecord_setChannel_keep (s : State) (h : Fin 12) (x : Channel) (i : Fin 12) : (s.setChannel h x).calRecord i = s.calRecord i := rfl
@[simp] theorem calibration_setChannel_keep (s : State) (h : Fin 12) (x : Channel) (i : Fin 12) : (s.setChannel h x).calibration i = s.calibration i := rfl
@[simp] theorem buffer_setChannel_keep (s : State) (h : Fin 12) (x : Channel) (i : Fin 12) : (s.setChannel h x).buffer i = s.buffer i := rfl
@[simp] theorem rule_setChannel_keep (s : State) (h : Fin 12) (x : Channel) (i : Fin 24) : (s.setChannel h x).rule i = s.rule i := rfl
@[simp] theorem slot_setChannel_keep (s : State) (h : Fin 12) (x : Channel) (i : Fin 8) : (s.setChannel h x).slot i = s.slot i := rfl
@[simp] theorem peekWord_setChannel_keep (s : State) (h : Fin 12) (x : Channel) (i : Nat) : (s.setChannel h x).peekWord i = s.peekWord i := rfl
@[simp] theorem enabled_setChannel_keep (s : State) (h : Fin 12) (x : Channel) (i : Fin 12) : (s.setChannel h x).enabled i = s.enabled i := rfl

@[simp] theorem head_setCalibration_keep (s : State) (h : Fin 12) (x : Calibration) (i : Fin 12) : (s.setCalibration h x).head i = s.head i := rfl
@[simp] theorem channel_setCalibration_keep (s : State) (h : Fin 12) (x : Calibration) (i : Fin 12) : (s.setCalibration h x).channel i = s.channel i := rfl
@[simp] theorem buffer_setCalibration_keep (s : State) (h : Fin 12) (x : Calibration) (i : Fin 12) : (s.setCalibration h x).buffer i = s.buffer i := rfl
@[simp] theorem rule_setCalibration_keep (s : State) (h : Fin 12) (x : Calibration) (i : Fin 24) : (s.setCalibration h x).rule i = s.rule i := rfl
@[simp] theorem slot_setCalibration_keep (s : State) (h : Fin 12) (x : Calibration) (i : Fin 8) : (s.setCalibration h x).slot i = s.slot i := rfl
@[simp] theorem peekWord_setCalibration_keep (s : State) (h : Fin 12) (x : Calibration) (i : Nat) : (s.setCalibration h x).peekWord i = s.peekWord i := rfl
@[simp] theorem enabled_setCalibration_keep (s : State) (h : Fin 12) (x : Calibration) (i : Fin 12) : (s.setCalibration h x).enabled i = s.enabled i := rfl

@[simp] theorem head_endCalibration_keep (s : State) (h : Fin 12) (i : Fin 12) : (s.endCalibration h).head i = s.head i := rfl
@[simp] theorem channel_endCalibration_keep (s : State) (h : Fin 12) (i : Fin 12) : (s.endCalibration h).channel i = s.channel i := rfl
@[simp] theorem buffer_endCalibration_keep (s : State) (h : Fin 12) (i : Fin 12) : (s.endCalibration h).buffer i = s.buffer i := rfl
@[simp] theorem rule_endCalibration_keep (s : State) (h : Fin 12) (i : Fin 24) : (s.endCalibration h).rule i = s.rule i := rfl
@[simp] theorem slot_endCalibration_keep (s : State) (h : Fin 12) (i : Fin 8) : (s.endCalibration h).slot i = s.slot i := rfl
@[simp] theorem peekWord_endCalibration_keep (s : State) (h : Fin 12) (i : Nat) : (s.endCalibration h).peekWord i = s.peekWord i := rfl
@[simp] theorem enabled_endCalibration_keep (s : State) (h : Fin 12) (i : Fin 12) : (s.endCalibration h).enabled i = s.enabled i := rfl

@[simp] theorem head_setBuffer_keep (s : State) (h : Fin 12) (x : Option Frame) (i : Fin 12) : (s.setBuffer h x).head i = s.head i := rfl
@[simp] theorem channel_setBuffer_keep (s : State) (h : Fin 12) (x : Option Frame) (i : Fin 12) : (s.setBuffer h x).channel i = s.channel i := rfl
@[simp] theorem calRecord_setBuffer_keep (s : State) (h : Fin 12) (x : Option Frame) (i : Fin 12) : (s.setBuffer h x).calRecord i = s.calRecord i := rfl
@[simp] theorem calibration_setBuffer_keep (s : State) (h : Fin 12) (x : Option Frame) (i : Fin 12) : (s.setBuffer h x).calibration i = s.calibration i := rfl
@[simp] theorem rule_setBuffer_keep (s : State) (h : Fin 12) (x : Option Frame) (i : Fin 24) : (s.setBuffer h x).rule i = s.rule i := rfl
@[simp] theorem slot_setBuffer_keep (s : State) (h : Fin 12) (x : Option Frame) (i : Fin 8) : (s.setBuffer h x).slot i = s.slot i := rfl
@[simp] theorem peekWord_setBuffer_keep (s : State) (h : Fin 12) (x : Option Frame) (i : Nat) : (s.setBuffer h x).peekWord i = s.peekWord i := rfl
@[simp] theorem enabled_setBuffer_keep (s : State) (h : Fin 12) (x : Option Frame) (i : Fin 12) : (s.setBuffer h x).enabled i = s.enabled i := rfl

@[simp] theorem head_setRule_keep (s : State) (n : Fin 24) (x : RuleState) (i : Fin 12) : (s.setRule n x).head i = s.head i := rfl
@[simp] theorem channel_setRule_keep (s : State) (n : Fin 24) (x : RuleState) (i : Fin 12) : (s.setRule n x).channel i = s.channel i := rfl
@[simp] theorem calRecord_setRule_keep (s : State) (n : Fin 24) (x : RuleState) (i : Fin 12) : (s.setRule n x).calRecord i = s.calRecord i := rfl
@[simp] theorem calibration_setRule_keep (s : State) (n : Fin 24) (x : RuleState) (i : Fin 12) : (s.setRule n x).calibration i = s.calibration i := rfl
@[simp] theorem buffer_setRule_keep (s : State) (n : Fin 24) (x : RuleState) (i : Fin 12) : (s.setRule n x).buffer i = s.buffer i := rfl
@[simp] theorem slot_setRule_keep (s : State) (n : Fin 24) (x : RuleState) (i : Fin 8) : (s.setRule n x).slot i = s.slot i := rfl
@[simp] theorem peekWord_setRule_keep (s : State) (n : Fin 24) (x : RuleState) (i : Nat) : (s.setRule n x).peekWord i = s.peekWord i := rfl
@[simp] theorem enabled_setRule_keep (s : State) (n : Fin 24) (x : RuleState) (i : Fin 12) : (s.setRule n x).enabled i = s.enabled i := rfl

@[simp] theorem head_setSlot_keep (s : State) (n : Fin 8) (x : RequestSlot) (i : Fin 12) : (s.setSlot n x).head i = s.head i := rfl
@[simp] theorem channel_setSlot_keep (s : State) (n : Fin 8) (x : RequestSlot) (i : Fin 12) : (s.setSlot n x).channel i = s.channel i := rfl
@[simp] theorem calRecord_setSlot_keep (s : State) (n : Fin 8) (x : RequestSlot) (i : Fin 12) : (s.setSlot n x).calRecord i = s.calRecord i := rfl
@[simp] theorem calibration_setSlot_keep (s : State) (n : Fin 8) (x : RequestSlot) (i : Fin 12) : (s.setSlot n x).calibration i = s.calibration i := rfl
@[simp] theorem buffer_setSlot_keep (s : State) (n : Fin 8) (x : RequestSlot) (i : Fin 12) : (s.setSlot n x).buffer i = s.buffer i := rfl
@[simp] theorem rule_setSlot_keep (s : State) (n : Fin 8) (x : RequestSlot) (i : Fin 24) : (s.setSlot n x).rule i = s.rule i := rfl
@[simp] theorem peekWord_setSlot_keep (s : State) (n : Fin 8) (x : RequestSlot) (i : Nat) : (s.setSlot n x).peekWord i = s.peekWord i := rfl
@[simp] theorem enabled_setSlot_keep (s : State) (n : Fin 8) (x : RequestSlot) (i : Fin 12) : (s.setSlot n x).enabled i = s.enabled i := rfl

@[simp] theorem head_pokeWords_keep (s : State) (a : Nat) (ws : List Word) (i : Fin 12) : (s.pokeWords a ws).head i = s.head i := rfl
@[simp] theorem channel_pokeWords_keep (s : State) (a : Nat) (ws : List Word) (i : Fin 12) : (s.pokeWords a ws).channel i = s.channel i := rfl
@[simp] theorem calRecord_pokeWords_keep (s : State) (a : Nat) (ws : List Word) (i : Fin 12) : (s.pokeWords a ws).calRecord i = s.calRecord i := rfl
@[simp] theorem calibration_pokeWords_keep (s : State) (a : Nat) (ws : List Word) (i : Fin 12) : (s.pokeWords a ws).calibration i = s.calibration i := rfl
@[simp] theorem buffer_pokeWords_keep (s : State) (a : Nat) (ws : List Word) (i : Fin 12) : (s.pokeWords a ws).buffer i = s.buffer i := rfl
@[simp] theorem rule_pokeWords_keep (s : State) (a : Nat) (ws : List Word) (i : Fin 24) : (s.pokeWords a ws).rule i = s.rule i := rfl
@[simp] theorem slot_pokeWords_keep (s : State) (a : Nat) (ws : List Word) (i : Fin 8) : (s.pokeWords a ws).slot i = s.slot i := rfl

@[simp] theorem head_raise_keep (s : State) (c : NoticeClass) (i : Fin 12) : (s.raise c).head i = s.head i := rfl
@[simp] theorem channel_raise_keep (s : State) (c : NoticeClass) (i : Fin 12) : (s.raise c).channel i = s.channel i := rfl
@[simp] theorem calRecord_raise_keep (s : State) (c : NoticeClass) (i : Fin 12) : (s.raise c).calRecord i = s.calRecord i := rfl
@[simp] theorem calibration_raise_keep (s : State) (c : NoticeClass) (i : Fin 12) : (s.raise c).calibration i = s.calibration i := rfl
@[simp] theorem buffer_raise_keep (s : State) (c : NoticeClass) (i : Fin 12) : (s.raise c).buffer i = s.buffer i := rfl
@[simp] theorem rule_raise_keep (s : State) (c : NoticeClass) (i : Fin 24) : (s.raise c).rule i = s.rule i := rfl
@[simp] theorem slot_raise_keep (s : State) (c : NoticeClass) (i : Fin 8) : (s.raise c).slot i = s.slot i := rfl
@[simp] theorem peekWord_raise_keep (s : State) (c : NoticeClass) (i : Nat) : (s.raise c).peekWord i = s.peekWord i := rfl
@[simp] theorem enabled_raise_keep (s : State) (c : NoticeClass) (i : Fin 12) : (s.raise c).enabled i = s.enabled i := rfl

@[simp] theorem head_unraise_keep (s : State) (c : NoticeClass) (i : Fin 12) : (s.unraise c).head i = s.head i := rfl
@[simp] theorem channel_unraise_keep (s : State) (c : NoticeClass) (i : Fin 12) : (s.unraise c).channel i = s.channel i := rfl
@[simp] theorem calRecord_unraise_keep (s : State) (c : NoticeClass) (i : Fin 12) : (s.unraise c).calRecord i = s.calRecord i := rfl
@[simp] theorem calibration_unraise_keep (s : State) (c : NoticeClass) (i : Fin 12) : (s.unraise c).calibration i = s.calibration i := rfl
@[simp] theorem buffer_unraise_keep (s : State) (c : NoticeClass) (i : Fin 12) : (s.unraise c).buffer i = s.buffer i := rfl
@[simp] theorem rule_unraise_keep (s : State) (c : NoticeClass) (i : Fin 24) : (s.unraise c).rule i = s.rule i := rfl
@[simp] theorem slot_unraise_keep (s : State) (c : NoticeClass) (i : Fin 8) : (s.unraise c).slot i = s.slot i := rfl
@[simp] theorem peekWord_unraise_keep (s : State) (c : NoticeClass) (i : Nat) : (s.unraise c).peekWord i = s.peekWord i := rfl
@[simp] theorem enabled_unraise_keep (s : State) (c : NoticeClass) (i : Fin 12) : (s.unraise c).enabled i = s.enabled i := rfl

@[simp] theorem head_answer_keep (s : State) (n : Fin 8) (c : AnswerCode) (d : Nat) (r : List Word) (i : Fin 12) : (s.answer n c d r).head i = s.head i := rfl
@[simp] theorem channel_answer_keep (s : State) (n : Fin 8) (c : AnswerCode) (d : Nat) (r : List Word) (i : Fin 12) : (s.answer n c d r).channel i = s.channel i := rfl
@[simp] theorem calRecord_answer_keep (s : State) (n : Fin 8) (c : AnswerCode) (d : Nat) (r : List Word) (i : Fin 12) : (s.answer n c d r).calRecord i = s.calRecord i := rfl
@[simp] theorem calibration_answer_keep (s : State) (n : Fin 8) (c : AnswerCode) (d : Nat) (r : List Word) (i : Fin 12) : (s.answer n c d r).calibration i = s.calibration i := rfl
@[simp] theorem buffer_answer_keep (s : State) (n : Fin 8) (c : AnswerCode) (d : Nat) (r : List Word) (i : Fin 12) : (s.answer n c d r).buffer i = s.buffer i := rfl
@[simp] theorem rule_answer_keep (s : State) (n : Fin 8) (c : AnswerCode) (d : Nat) (r : List Word) (i : Fin 24) : (s.answer n c d r).rule i = s.rule i := rfl

@[simp] theorem head_setTraceMode_keep (s : State) (m : TraceMode) (i : Fin 12) : (s.setTraceMode m).head i = s.head i := rfl
@[simp] theorem channel_setTraceMode_keep (s : State) (m : TraceMode) (i : Fin 12) : (s.setTraceMode m).channel i = s.channel i := rfl
@[simp] theorem calRecord_setTraceMode_keep (s : State) (m : TraceMode) (i : Fin 12) : (s.setTraceMode m).calRecord i = s.calRecord i := rfl
@[simp] theorem calibration_setTraceMode_keep (s : State) (m : TraceMode) (i : Fin 12) : (s.setTraceMode m).calibration i = s.calibration i := rfl
@[simp] theorem buffer_setTraceMode_keep (s : State) (m : TraceMode) (i : Fin 12) : (s.setTraceMode m).buffer i = s.buffer i := rfl
@[simp] theorem rule_setTraceMode_keep (s : State) (m : TraceMode) (i : Fin 24) : (s.setTraceMode m).rule i = s.rule i := rfl
@[simp] theorem slot_setTraceMode_keep (s : State) (m : TraceMode) (i : Fin 8) : (s.setTraceMode m).slot i = s.slot i := rfl
@[simp] theorem peekWord_setTraceMode_keep (s : State) (m : TraceMode) (i : Nat) : (s.setTraceMode m).peekWord i = s.peekWord i := rfl
@[simp] theorem enabled_setTraceMode_keep (s : State) (m : TraceMode) (i : Fin 12) : (s.setTraceMode m).enabled i = s.enabled i := rfl

@[simp] theorem head_missTrigger_keep (s : State) (i : Fin 12) : (s.missTrigger).head i = s.head i := rfl
@[simp] theorem channel_missTrigger_keep (s : State) (i : Fin 12) : (s.missTrigger).channel i = s.channel i := rfl
@[simp] theorem calRecord_missTrigger_keep (s : State) (i : Fin 12) : (s.missTrigger).calRecord i = s.calRecord i := rfl
@[simp] theorem calibration_missTrigger_keep (s : State) (i : Fin 12) : (s.missTrigger).calibration i = s.calibration i := rfl
@[simp] theorem buffer_missTrigger_keep (s : State) (i : Fin 12) : (s.missTrigger).buffer i = s.buffer i := rfl
@[simp] theorem rule_missTrigger_keep (s : State) (i : Fin 24) : (s.missTrigger).rule i = s.rule i := rfl
@[simp] theorem slot_missTrigger_keep (s : State) (i : Fin 8) : (s.missTrigger).slot i = s.slot i := rfl
@[simp] theorem peekWord_missTrigger_keep (s : State) (i : Nat) : (s.missTrigger).peekWord i = s.peekWord i := rfl
@[simp] theorem enabled_missTrigger_keep (s : State) (i : Fin 12) : (s.missTrigger).enabled i = s.enabled i := rfl

@[simp] theorem head_clearRules_keep (s : State) (i : Fin 12) : (s.clearRules).head i = s.head i := rfl
@[simp] theorem channel_clearRules_keep (s : State) (i : Fin 12) : (s.clearRules).channel i = s.channel i := rfl
@[simp] theorem calRecord_clearRules_keep (s : State) (i : Fin 12) : (s.clearRules).calRecord i = s.calRecord i := rfl
@[simp] theorem calibration_clearRules_keep (s : State) (i : Fin 12) : (s.clearRules).calibration i = s.calibration i := rfl
@[simp] theorem buffer_clearRules_keep (s : State) (i : Fin 12) : (s.clearRules).buffer i = s.buffer i := rfl
@[simp] theorem slot_clearRules_keep (s : State) (i : Fin 8) : (s.clearRules).slot i = s.slot i := rfl
@[simp] theorem peekWord_clearRules_keep (s : State) (i : Nat) : (s.clearRules).peekWord i = s.peekWord i := rfl
@[simp] theorem enabled_clearRules_keep (s : State) (i : Fin 12) : (s.clearRules).enabled i = s.enabled i := rfl

@[simp] theorem head_drive_keep (s : State) (d : PortData) (i : Fin 12) : (s.drive d).head i = s.head i := rfl
@[simp] theorem channel_drive_keep (s : State) (d : PortData) (i : Fin 12) : (s.drive d).channel i = s.channel i := rfl
@[simp] theorem calRecord_drive_keep (s : State) (d : PortData) (i : Fin 12) : (s.drive d).calRecord i = s.calRecord i := rfl
@[simp] theorem calibration_drive_keep (s : State) (d : PortData) (i : Fin 12) : (s.drive d).calibration i = s.calibration i := rfl
@[simp] theorem buffer_drive_keep (s : State) (d : PortData) (i : Fin 12) : (s.drive d).buffer i = s.buffer i := rfl
@[simp] theorem rule_drive_keep (s : State) (d : PortData) (i : Fin 24) : (s.drive d).rule i = s.rule i := rfl
@[simp] theorem slot_drive_keep (s : State) (d : PortData) (i : Fin 8) : (s.drive d).slot i = s.slot i := rfl
@[simp] theorem peekWord_drive_keep (s : State) (d : PortData) (i : Nat) : (s.drive d).peekWord i = s.peekWord i := rfl
@[simp] theorem enabled_drive_keep (s : State) (d : PortData) (i : Fin 12) : (s.drive d).enabled i = s.enabled i := rfl

@[simp] theorem head_stepWadr_keep (s : State) (i : Fin 12) : (s.stepWadr).head i = s.head i := rfl
@[simp] theorem channel_stepWadr_keep (s : State) (i : Fin 12) : (s.stepWadr).channel i = s.channel i := rfl
@[simp] theorem calRecord_stepWadr_keep (s : State) (i : Fin 12) : (s.stepWadr).calRecord i = s.calRecord i := rfl
@[simp] theorem calibration_stepWadr_keep (s : State) (i : Fin 12) : (s.stepWadr).calibration i = s.calibration i := rfl
@[simp] theorem buffer_stepWadr_keep (s : State) (i : Fin 12) : (s.stepWadr).buffer i = s.buffer i := rfl
@[simp] theorem rule_stepWadr_keep (s : State) (i : Fin 24) : (s.stepWadr).rule i = s.rule i := rfl
@[simp] theorem slot_stepWadr_keep (s : State) (i : Fin 8) : (s.stepWadr).slot i = s.slot i := rfl
@[simp] theorem peekWord_stepWadr_keep (s : State) (i : Nat) : (s.stepWadr).peekWord i = s.peekWord i := rfl
@[simp] theorem enabled_stepWadr_keep (s : State) (i : Fin 12) : (s.stepWadr).enabled i = s.enabled i := rfl

@[simp] theorem head_take_keep (s : State) (n : Fin 8) (i : Fin 12) : (s.take n).head i = s.head i := rfl
@[simp] theorem channel_take_keep (s : State) (n : Fin 8) (i : Fin 12) : (s.take n).channel i = s.channel i := rfl
@[simp] theorem calRecord_take_keep (s : State) (n : Fin 8) (i : Fin 12) : (s.take n).calRecord i = s.calRecord i := rfl
@[simp] theorem calibration_take_keep (s : State) (n : Fin 8) (i : Fin 12) : (s.take n).calibration i = s.calibration i := rfl
@[simp] theorem buffer_take_keep (s : State) (n : Fin 8) (i : Fin 12) : (s.take n).buffer i = s.buffer i := rfl
@[simp] theorem rule_take_keep (s : State) (n : Fin 8) (i : Fin 24) : (s.take n).rule i = s.rule i := rfl
@[simp] theorem peekWord_take_keep (s : State) (n : Fin 8) (i : Nat) : (s.take n).peekWord i = s.peekWord i := rfl
@[simp] theorem enabled_take_keep (s : State) (n : Fin 8) (i : Fin 12) : (s.take n).enabled i = s.enabled i := rfl

@[simp] theorem head_endService_keep (s : State) (i : Fin 12) : (s.endService).head i = s.head i := rfl
@[simp] theorem channel_endService_keep (s : State) (i : Fin 12) : (s.endService).channel i = s.channel i := rfl
@[simp] theorem calRecord_endService_keep (s : State) (i : Fin 12) : (s.endService).calRecord i = s.calRecord i := rfl
@[simp] theorem calibration_endService_keep (s : State) (i : Fin 12) : (s.endService).calibration i = s.calibration i := rfl
@[simp] theorem buffer_endService_keep (s : State) (i : Fin 12) : (s.endService).buffer i = s.buffer i := rfl
@[simp] theorem rule_endService_keep (s : State) (i : Fin 24) : (s.endService).rule i = s.rule i := rfl
@[simp] theorem peekWord_endService_keep (s : State) (i : Nat) : (s.endService).peekWord i = s.peekWord i := rfl
@[simp] theorem enabled_endService_keep (s : State) (i : Fin 12) : (s.endService).enabled i = s.enabled i := rfl

/-! ## What the updates leave in their own field -/

@[simp] theorem setTraceMode_mode (s : State) (m : TraceMode) : (s.setTraceMode m).trace.mode = m := rfl
@[simp] theorem setTraceMode_list (s : State) (m : TraceMode) : (s.setTraceMode m).trace.list = s.trace.list := rfl
@[simp] theorem setTraceMode_settings (s : State) (m : TraceMode) : (s.setTraceMode m).trace.settings = s.trace.settings := rfl
@[simp] theorem setTraceMode_number (s : State) (m : TraceMode) : (s.setTraceMode m).trace.number = s.trace.number := rfl
@[simp] theorem setTraceMode_missed (s : State) (m : TraceMode) : (s.setTraceMode m).trace.missed = s.trace.missed := rfl
@[simp] theorem setBuffer_tickOpen (s : State) (h : Fin 12) (x : Option Frame) : (s.setBuffer h x).link.tickOpen = s.link.tickOpen := rfl
@[simp] theorem setBuffer_nextMark (s : State) (h : Fin 12) (x : Option Frame) : (s.setBuffer h x).link.nextMark = s.link.nextMark := rfl
@[simp] theorem setBuffer_badNote (s : State) (h : Fin 12) (x : Option Frame) : (s.setBuffer h x).link.badNote = s.link.badNote := rfl
@[simp] theorem setBuffer_receiver (s : State) (h : Fin 12) (x : Option Frame) : (s.setBuffer h x).link.receiver = s.link.receiver := rfl
@[simp] theorem setSlot_queue (s : State) (n : Fin 8) (x : RequestSlot) : (s.setSlot n x).requests.queue = s.requests.queue := rfl
@[simp] theorem setSlot_inService (s : State) (n : Fin 8) (x : RequestSlot) : (s.setSlot n x).requests.inService = s.requests.inService := rfl
@[simp] theorem answer_queue (s : State) (n : Fin 8) (c : AnswerCode) (d : Nat) (r : List Word) :
    (s.answer n c d r).requests.queue = s.requests.queue := rfl
@[simp] theorem answer_inService (s : State) (n : Fin 8) (c : AnswerCode) (d : Nat) (r : List Word) :
    (s.answer n c d r).requests.inService = s.requests.inService := rfl
@[simp] theorem endService_inService (s : State) : s.endService.requests.inService = none := rfl
@[simp] theorem endService_queue (s : State) : s.endService.requests.queue = s.requests.queue := rfl
@[simp] theorem endService_slots (s : State) : s.endService.requests.slots = s.requests.slots := rfl
@[simp] theorem slot_endService (s : State) (n : Fin 8) : s.endService.slot n = s.slot n := rfl
@[simp] theorem take_queue (s : State) (n : Fin 8) : (s.take n).requests.queue = s.requests.queue.tail := rfl
@[simp] theorem take_inService (s : State) (n : Fin 8) : (s.take n).requests.inService = some n := rfl
@[simp] theorem raise_mask (s : State) (c : NoticeClass) : (s.raise c).notices.mask = s.notices.mask := rfl
@[simp] theorem unraise_mask (s : State) (c : NoticeClass) : (s.unraise c).notices.mask = s.notices.mask := rfl
@[simp] theorem answer_mask (s : State) (n : Fin 8) (c : AnswerCode) (d : Nat) (r : List Word) :
    (s.answer n c d r).notices.mask = s.notices.mask := rfl
@[simp] theorem drive_wadr (s : State) (d : PortData) : (s.drive d).port.wadr = s.port.wadr := rfl
@[simp] theorem drive_wide (s : State) (d : PortData) : (s.drive d).port.wide = s.port.wide := rfl
@[simp] theorem drive_readOut (s : State) (d : PortData) : (s.drive d).port.readOut = d := rfl
@[simp] theorem stepWadr_wadr (s : State) : s.stepWadr.port.wadr = s.port.addrAfter := rfl

theorem slot_take (s : State) (n m : Fin 8) :
    (s.take n).slot m = if n = m then { s.slot n with state := .active } else s.slot m :=
  slot_setSlot s n m _

theorem slot_answer (s : State) (n m : Fin 8) (c : AnswerCode) (d : Nat) (r : List Word) :
    (s.answer n c d r).slot m = if n = m then { s.slot n with state := .answered } else s.slot m :=
  slot_setSlot (s.pokeWords _ _) n m _

@[simp] theorem isPending_raise_same (s : State) (c : NoticeClass) : (s.raise c).isPending c = true := by
  cases c <;> simp [State.isPending, State.raise, NoticeClass.bit, NoticeClass.number]

theorem isPending_raise (s : State) (c d : NoticeClass) :
    (s.raise c).isPending d = (decide (c = d) || s.isPending d) := by
  cases c <;> cases d <;> simp [State.isPending, State.raise, NoticeClass.bit, NoticeClass.number]

theorem isPending_unraise (s : State) (c d : NoticeClass) :
    (s.unraise c).isPending d = (!decide (c = d) && s.isPending d) := by
  cases c <;> cases d <;> simp [State.isPending, State.unraise, NoticeClass.bit, NoticeClass.number]

end Sys2Proof.Machine
end

