-- ==== Sys2Proof/Laws/Frames.lean ====
section
/-! SUPPORT. What each shared operation leaves unchanged: one lemma per operation, for every field it does not write. -/

namespace Sys2Proof.Machine

open Sys2Proof

/-- A fold of an operation that keeps a view keeps it too. -/
theorem foldl_keep {σ α β : Type} (p : σ → β) (f : σ → α → σ) (h : ∀ s a, p (f s a) = p s) (l : List α) (s : σ) :
    p (l.foldl f s) = p s := by
  induction l generalizing s with
  | nil => rfl
  | cons a l ih => simp [List.foldl_cons, ih, h]

/-- A fold whose other steps keep the view of one item: past the fold the view is what that item's own step makes of a state
with the view from before. -/
theorem foldl_at {σ α β : Type} (p : σ → β) (f : σ → α → σ) (a : α) (h : ∀ s b, b ≠ a → p (f s b) = p s) (l : List α)
    (hl : l.Nodup) (s : σ) :
    (a ∉ l → p (l.foldl f s) = p s) ∧ (a ∈ l → ∃ u, p u = p s ∧ p (l.foldl f s) = p (f u a)) := by
  induction l generalizing s with
  | nil => simp
  | cons b l ih =>
    obtain ⟨hb, hl⟩ := List.nodup_cons.mp hl
    obtain ⟨out, inn⟩ := ih hl (f s b)
    rw [List.foldl_cons]
    by_cases hab : b = a
    · subst hab
      exact ⟨fun hn => absurd List.mem_cons_self hn, fun _ => ⟨s, rfl, out hb⟩⟩
    · refine ⟨fun hn => (out fun hm => hn (List.mem_cons_of_mem b hm)).trans (h s b hab), fun hm => ?_⟩
      obtain ⟨u, hu, he⟩ := inn (by simpa [Ne.symm hab] using hm)
      exact ⟨u, hu.trans (h s b hab), he⟩

/-! ## Shelves -/

@[simp] theorem postRecord_frame (s : State) (k : RecordKind) (b : List Word) (n : Fin 48) :
    (s.postRecord k b n).pending = s.pending ∧ (s.postRecord k b n).resetLow = s.resetLow ∧
    (s.postRecord k b n).run = s.run ∧ (s.postRecord k b n).lastClosed = s.lastClosed ∧
    (s.postRecord k b n).stage = s.stage ∧ (s.postRecord k b n).clock = s.clock ∧
    (s.postRecord k b n).period = s.period ∧ (s.postRecord k b n).clockSetting = s.clockSetting ∧
    (s.postRecord k b n).link = s.link ∧ (s.postRecord k b n).heads = s.heads ∧
    (s.postRecord k b n).channels = s.channels ∧ (s.postRecord k b n).calibrations = s.calibrations ∧
    (s.postRecord k b n).live = s.live ∧ (s.postRecord k b n).adoption = s.adoption ∧
    (s.postRecord k b n).rules = s.rules ∧ (s.postRecord k b n).events = s.events ∧
    (s.postRecord k b n).trace = s.trace ∧ (s.postRecord k b n).requests = s.requests ∧
    (s.postRecord k b n).port = s.port := by
  simp [State.postRecord]

@[simp] theorem handPeriodRecord_frame (s : State) (h : Fin 12) (b : Nat → List Word) :
    (s.handPeriodRecord h b).pending = s.pending ∧ (s.handPeriodRecord h b).resetLow = s.resetLow ∧
    (s.handPeriodRecord h b).run = s.run ∧ (s.handPeriodRecord h b).lastClosed = s.lastClosed ∧
    (s.handPeriodRecord h b).stage = s.stage ∧ (s.handPeriodRecord h b).clock = s.clock ∧
    (s.handPeriodRecord h b).period = s.period ∧ (s.handPeriodRecord h b).clockSetting = s.clockSetting ∧
    (s.handPeriodRecord h b).link = s.link ∧ (s.handPeriodRecord h b).heads = s.heads ∧
    (s.handPeriodRecord h b).channels = s.channels ∧ (s.handPeriodRecord h b).calibrations = s.calibrations ∧
    (s.handPeriodRecord h b).live = s.live ∧ (s.handPeriodRecord h b).adoption = s.adoption ∧
    (s.handPeriodRecord h b).rules = s.rules ∧ (s.handPeriodRecord h b).events = s.events ∧
    (s.handPeriodRecord h b).trace = s.trace ∧ (s.handPeriodRecord h b).requests = s.requests ∧
    (s.handPeriodRecord h b).port = s.port := by
  unfold State.handPeriodRecord; (try dsimp only); (repeat' split) <;> simp

@[simp] theorem postEvent_frame (s : State) (e : EventData) :
    (s.postEvent e).pending = s.pending ∧ (s.postEvent e).resetLow = s.resetLow ∧ (s.postEvent e).run = s.run ∧
    (s.postEvent e).lastClosed = s.lastClosed ∧ (s.postEvent e).stage = s.stage ∧ (s.postEvent e).clock = s.clock ∧
    (s.postEvent e).period = s.period ∧ (s.postEvent e).clockSetting = s.clockSetting ∧
    (s.postEvent e).link = s.link ∧ (s.postEvent e).heads = s.heads ∧ (s.postEvent e).channels = s.channels ∧
    (s.postEvent e).calibrations = s.calibrations ∧ (s.postEvent e).live = s.live ∧
    (s.postEvent e).adoption = s.adoption ∧ (s.postEvent e).rules = s.rules ∧ (s.postEvent e).records = s.records ∧
    (s.postEvent e).trace = s.trace ∧ (s.postEvent e).requests = s.requests ∧ (s.postEvent e).port = s.port := by
  unfold State.postEvent; (try dsimp only); (repeat' split) <;> simp

@[simp] theorem releaseEvent_frame (s : State) (n : Fin 32) :
    (s.releaseEvent n).pending = s.pending ∧ (s.releaseEvent n).resetLow = s.resetLow ∧
    (s.releaseEvent n).run = s.run ∧ (s.releaseEvent n).lastClosed = s.lastClosed ∧
    (s.releaseEvent n).stage = s.stage ∧ (s.releaseEvent n).clock = s.clock ∧ (s.releaseEvent n).period = s.period ∧
    (s.releaseEvent n).clockSetting = s.clockSetting ∧ (s.releaseEvent n).link = s.link ∧
    (s.releaseEvent n).heads = s.heads ∧ (s.releaseEvent n).channels = s.channels ∧
    (s.releaseEvent n).calibrations = s.calibrations ∧ (s.releaseEvent n).live = s.live ∧
    (s.releaseEvent n).adoption = s.adoption ∧ (s.releaseEvent n).rules = s.rules ∧
    (s.releaseEvent n).records = s.records ∧ (s.releaseEvent n).trace = s.trace ∧
    (s.releaseEvent n).requests = s.requests ∧ (s.releaseEvent n).store = s.store ∧
    (s.releaseEvent n).port = s.port := by
  unfold State.releaseEvent; (try dsimp only); (repeat' split) <;> simp

@[simp] theorem releaseRecord_frame (s : State) (n : Fin 48) :
    (s.releaseRecord n).pending = s.pending ∧ (s.releaseRecord n).resetLow = s.resetLow ∧
    (s.releaseRecord n).run = s.run ∧ (s.releaseRecord n).lastClosed = s.lastClosed ∧
    (s.releaseRecord n).stage = s.stage ∧ (s.releaseRecord n).clock = s.clock ∧
    (s.releaseRecord n).period = s.period ∧ (s.releaseRecord n).clockSetting = s.clockSetting ∧
    (s.releaseRecord n).link = s.link ∧ (s.releaseRecord n).heads = s.heads ∧
    (s.releaseRecord n).channels = s.channels ∧ (s.releaseRecord n).calibrations = s.calibrations ∧
    (s.releaseRecord n).live = s.live ∧ (s.releaseRecord n).adoption = s.adoption ∧
    (s.releaseRecord n).rules = s.rules ∧ (s.releaseRecord n).events = s.events ∧
    (s.releaseRecord n).trace = s.trace ∧ (s.releaseRecord n).requests = s.requests ∧
    (s.releaseRecord n).store = s.store ∧ (s.releaseRecord n).port = s.port := by
  unfold State.releaseRecord; (try dsimp only); (repeat' split) <;> simp

@[simp] theorem releaseTrace_frame (s : State) (n : Fin 2) :
    (s.releaseTrace n).pending = s.pending ∧ (s.releaseTrace n).resetLow = s.resetLow ∧
    (s.releaseTrace n).run = s.run ∧ (s.releaseTrace n).lastClosed = s.lastClosed ∧
    (s.releaseTrace n).stage = s.stage ∧ (s.releaseTrace n).clock = s.clock ∧ (s.releaseTrace n).period = s.period ∧
    (s.releaseTrace n).clockSetting = s.clockSetting ∧ (s.releaseTrace n).link = s.link ∧
    (s.releaseTrace n).heads = s.heads ∧ (s.releaseTrace n).channels = s.channels ∧
    (s.releaseTrace n).calibrations = s.calibrations ∧ (s.releaseTrace n).live = s.live ∧
    (s.releaseTrace n).adoption = s.adoption ∧ (s.releaseTrace n).rules = s.rules ∧
    (s.releaseTrace n).events = s.events ∧ (s.releaseTrace n).records = s.records ∧
    (s.releaseTrace n).requests = s.requests ∧ (s.releaseTrace n).store = s.store ∧
    (s.releaseTrace n).port = s.port := by
  unfold State.releaseTrace; (try dsimp only); (repeat' split) <;> simp

@[simp] theorem releaseAnswer_frame (s : State) (n : Fin 8) :
    (s.releaseAnswer n).pending = s.pending ∧ (s.releaseAnswer n).resetLow = s.resetLow ∧
    (s.releaseAnswer n).run = s.run ∧ (s.releaseAnswer n).lastClosed = s.lastClosed ∧
    (s.releaseAnswer n).stage = s.stage ∧ (s.releaseAnswer n).clock = s.clock ∧
    (s.releaseAnswer n).period = s.period ∧ (s.releaseAnswer n).clockSetting = s.clockSetting ∧
    (s.releaseAnswer n).link = s.link ∧ (s.releaseAnswer n).heads = s.heads ∧
    (s.releaseAnswer n).channels = s.channels ∧ (s.releaseAnswer n).calibrations = s.calibrations ∧
    (s.releaseAnswer n).live = s.live ∧ (s.releaseAnswer n).adoption = s.adoption ∧
    (s.releaseAnswer n).rules = s.rules ∧ (s.releaseAnswer n).events = s.events ∧
    (s.releaseAnswer n).records = s.records ∧ (s.releaseAnswer n).trace = s.trace ∧
    (s.releaseAnswer n).store = s.store ∧ (s.releaseAnswer n).port = s.port := by
  unfold State.releaseAnswer; (try dsimp only); (repeat' split) <;> simp

@[simp] theorem release_frame (s : State) (r : Release) :
    (s.release r).pending = s.pending ∧ (s.release r).resetLow = s.resetLow ∧ (s.release r).run = s.run ∧
    (s.release r).lastClosed = s.lastClosed ∧ (s.release r).stage = s.stage ∧ (s.release r).clock = s.clock ∧
    (s.release r).period = s.period ∧ (s.release r).clockSetting = s.clockSetting ∧ (s.release r).link = s.link ∧
    (s.release r).heads = s.heads ∧ (s.release r).channels = s.channels ∧
    (s.release r).calibrations = s.calibrations ∧ (s.release r).live = s.live ∧ (s.release r).adoption = s.adoption ∧
    (s.release r).rules = s.rules ∧ (s.release r).store = s.store ∧ (s.release r).port = s.port := by
  cases r <;> simp [State.release]

/-! ## Trace unit -/

@[simp] theorem trigger_frame (s : State) (t : Trigger) :
    (s.trigger t).pending = s.pending ∧ (s.trigger t).resetLow = s.resetLow ∧ (s.trigger t).run = s.run ∧
    (s.trigger t).lastClosed = s.lastClosed ∧ (s.trigger t).stage = s.stage ∧ (s.trigger t).clock = s.clock ∧
    (s.trigger t).period = s.period ∧ (s.trigger t).clockSetting = s.clockSetting ∧ (s.trigger t).link = s.link ∧
    (s.trigger t).heads = s.heads ∧ (s.trigger t).channels = s.channels ∧
    (s.trigger t).calibrations = s.calibrations ∧ (s.trigger t).live = s.live ∧ (s.trigger t).adoption = s.adoption ∧
    (s.trigger t).rules = s.rules ∧ (s.trigger t).events = s.events ∧ (s.trigger t).records = s.records ∧
    (s.trigger t).requests = s.requests ∧ (s.trigger t).store = s.store ∧ (s.trigger t).port = s.port ∧
    (s.trigger t).notices = s.notices := by
  unfold State.trigger; (repeat' split) <;> simp

@[simp] theorem takeSamples_frame (s : State) :
    (s.takeSamples).pending = s.pending ∧ (s.takeSamples).resetLow = s.resetLow ∧ (s.takeSamples).run = s.run ∧
    (s.takeSamples).lastClosed = s.lastClosed ∧ (s.takeSamples).stage = s.stage ∧ (s.takeSamples).clock = s.clock ∧
    (s.takeSamples).period = s.period ∧ (s.takeSamples).clockSetting = s.clockSetting ∧
    (s.takeSamples).link = s.link ∧ (s.takeSamples).heads = s.heads ∧ (s.takeSamples).channels = s.channels ∧
    (s.takeSamples).calibrations = s.calibrations ∧ (s.takeSamples).live = s.live ∧
    (s.takeSamples).adoption = s.adoption ∧ (s.takeSamples).rules = s.rules ∧ (s.takeSamples).events = s.events ∧
    (s.takeSamples).records = s.records ∧ (s.takeSamples).requests = s.requests ∧ (s.takeSamples).store = s.store ∧
    (s.takeSamples).port = s.port ∧ (s.takeSamples).notices = s.notices := by
  unfold State.takeSamples; (repeat' split) <;> simp

@[simp] theorem departHead_frame (s : State) (h : Fin 12) :
    (s.departHead h).pending = s.pending ∧ (s.departHead h).resetLow = s.resetLow ∧ (s.departHead h).run = s.run ∧
    (s.departHead h).lastClosed = s.lastClosed ∧ (s.departHead h).stage = s.stage ∧ (s.departHead h).clock = s.clock ∧
    (s.departHead h).period = s.period ∧ (s.departHead h).clockSetting = s.clockSetting ∧
    (s.departHead h).link = s.link ∧ (s.departHead h).heads = s.heads ∧ (s.departHead h).channels = s.channels ∧
    (s.departHead h).calibrations = s.calibrations ∧ (s.departHead h).live = s.live ∧
    (s.departHead h).adoption = s.adoption ∧ (s.departHead h).rules = s.rules ∧ (s.departHead h).events = s.events ∧
    (s.departHead h).records = s.records ∧ (s.departHead h).requests = s.requests ∧ (s.departHead h).store = s.store ∧
    (s.departHead h).port = s.port ∧ (s.departHead h).notices = s.notices := by
  unfold State.departHead; (repeat' split) <;> simp

@[simp] theorem completeCapture_frame (s : State) (c : Capture) (b : Bool) (m : TraceMode) :
    (s.completeCapture c b m).pending = s.pending ∧ (s.completeCapture c b m).resetLow = s.resetLow ∧
    (s.completeCapture c b m).run = s.run ∧ (s.completeCapture c b m).lastClosed = s.lastClosed ∧
    (s.completeCapture c b m).stage = s.stage ∧ (s.completeCapture c b m).clock = s.clock ∧
    (s.completeCapture c b m).period = s.period ∧ (s.completeCapture c b m).clockSetting = s.clockSetting ∧
    (s.completeCapture c b m).link = s.link ∧ (s.completeCapture c b m).heads = s.heads ∧
    (s.completeCapture c b m).channels = s.channels ∧ (s.completeCapture c b m).calibrations = s.calibrations ∧
    (s.completeCapture c b m).live = s.live ∧ (s.completeCapture c b m).adoption = s.adoption ∧
    (s.completeCapture c b m).rules = s.rules ∧ (s.completeCapture c b m).events = s.events ∧
    (s.completeCapture c b m).records = s.records ∧ (s.completeCapture c b m).requests = s.requests ∧
    (s.completeCapture c b m).port = s.port := by
  unfold State.completeCapture; dsimp only; split <;> simp

@[simp] theorem completeIfDue_frame (s : State) :
    (s.completeIfDue).pending = s.pending ∧ (s.completeIfDue).resetLow = s.resetLow ∧ (s.completeIfDue).run = s.run ∧
    (s.completeIfDue).lastClosed = s.lastClosed ∧ (s.completeIfDue).stage = s.stage ∧
    (s.completeIfDue).clock = s.clock ∧ (s.completeIfDue).period = s.period ∧
    (s.completeIfDue).clockSetting = s.clockSetting ∧ (s.completeIfDue).link = s.link ∧
    (s.completeIfDue).heads = s.heads ∧ (s.completeIfDue).channels = s.channels ∧
    (s.completeIfDue).calibrations = s.calibrations ∧ (s.completeIfDue).live = s.live ∧
    (s.completeIfDue).adoption = s.adoption ∧ (s.completeIfDue).rules = s.rules ∧
    (s.completeIfDue).events = s.events ∧ (s.completeIfDue).records = s.records ∧
    (s.completeIfDue).requests = s.requests ∧ (s.completeIfDue).port = s.port := by
  unfold State.completeIfDue; (repeat' split) <;> simp

@[simp] theorem truncateCapture_frame (s : State) (m : TraceMode) :
    (s.truncateCapture m).pending = s.pending ∧ (s.truncateCapture m).resetLow = s.resetLow ∧
    (s.truncateCapture m).run = s.run ∧ (s.truncateCapture m).lastClosed = s.lastClosed ∧
    (s.truncateCapture m).stage = s.stage ∧ (s.truncateCapture m).clock = s.clock ∧
    (s.truncateCapture m).period = s.period ∧ (s.truncateCapture m).clockSetting = s.clockSetting ∧
    (s.truncateCapture m).link = s.link ∧ (s.truncateCapture m).heads = s.heads ∧
    (s.truncateCapture m).channels = s.channels ∧ (s.truncateCapture m).calibrations = s.calibrations ∧
    (s.truncateCapture m).live = s.live ∧ (s.truncateCapture m).adoption = s.adoption ∧
    (s.truncateCapture m).rules = s.rules ∧ (s.truncateCapture m).events = s.events ∧
    (s.truncateCapture m).records = s.records ∧ (s.truncateCapture m).requests = s.requests ∧
    (s.truncateCapture m).port = s.port := by
  unfold State.truncateCapture; (repeat' split) <;> simp

@[simp] theorem disarm_frame (s : State) :
    (s.disarm).pending = s.pending ∧ (s.disarm).resetLow = s.resetLow ∧ (s.disarm).run = s.run ∧
    (s.disarm).lastClosed = s.lastClosed ∧ (s.disarm).stage = s.stage ∧ (s.disarm).clock = s.clock ∧
    (s.disarm).period = s.period ∧ (s.disarm).clockSetting = s.clockSetting ∧ (s.disarm).link = s.link ∧
    (s.disarm).heads = s.heads ∧ (s.disarm).channels = s.channels ∧ (s.disarm).calibrations = s.calibrations ∧
    (s.disarm).live = s.live ∧ (s.disarm).adoption = s.adoption ∧ (s.disarm).rules = s.rules ∧
    (s.disarm).events = s.events ∧ (s.disarm).records = s.records ∧ (s.disarm).requests = s.requests ∧
    (s.disarm).port = s.port := by
  simp [State.disarm]

/-! ## Channels and calibration -/

@[simp] theorem abortCalibration_frame (s : State) (h : Fin 12) (r : AbortReason) :
    (s.abortCalibration h r).pending = s.pending ∧ (s.abortCalibration h r).resetLow = s.resetLow ∧
    (s.abortCalibration h r).run = s.run ∧ (s.abortCalibration h r).lastClosed = s.lastClosed ∧
    (s.abortCalibration h r).stage = s.stage ∧ (s.abortCalibration h r).clock = s.clock ∧
    (s.abortCalibration h r).period = s.period ∧ (s.abortCalibration h r).clockSetting = s.clockSetting ∧
    (s.abortCalibration h r).link = s.link ∧ (s.abortCalibration h r).heads = s.heads ∧
    (s.abortCalibration h r).channels = s.channels ∧ (s.abortCalibration h r).live = s.live ∧
    (s.abortCalibration h r).adoption = s.adoption ∧ (s.abortCalibration h r).rules = s.rules ∧
    (s.abortCalibration h r).events = s.events ∧ (s.abortCalibration h r).records = s.records ∧
    (s.abortCalibration h r).trace = s.trace ∧ (s.abortCalibration h r).port = s.port := by
  unfold State.abortCalibration; (repeat' split) <;> simp

@[simp] theorem feedCalibration_frame (s : State) (h : Fin 12) (f : Frame) :
    (s.feedCalibration h f).pending = s.pending ∧ (s.feedCalibration h f).resetLow = s.resetLow ∧
    (s.feedCalibration h f).run = s.run ∧ (s.feedCalibration h f).lastClosed = s.lastClosed ∧
    (s.feedCalibration h f).stage = s.stage ∧ (s.feedCalibration h f).clock = s.clock ∧
    (s.feedCalibration h f).period = s.period ∧ (s.feedCalibration h f).clockSetting = s.clockSetting ∧
    (s.feedCalibration h f).link = s.link ∧ (s.feedCalibration h f).heads = s.heads ∧
    (s.feedCalibration h f).channels = s.channels ∧ (s.feedCalibration h f).live = s.live ∧
    (s.feedCalibration h f).adoption = s.adoption ∧ (s.feedCalibration h f).rules = s.rules ∧
    (s.feedCalibration h f).events = s.events ∧ (s.feedCalibration h f).records = s.records ∧
    (s.feedCalibration h f).trace = s.trace ∧ (s.feedCalibration h f).port = s.port := by
  unfold State.feedCalibration; (repeat' split) <;> simp

@[simp] theorem setTrim_frame (s : State) (h : Fin 12) (t : Int) :
    (s.setTrim h t).pending = s.pending ∧ (s.setTrim h t).resetLow = s.resetLow ∧ (s.setTrim h t).run = s.run ∧
    (s.setTrim h t).lastClosed = s.lastClosed ∧ (s.setTrim h t).stage = s.stage ∧ (s.setTrim h t).clock = s.clock ∧
    (s.setTrim h t).period = s.period ∧ (s.setTrim h t).clockSetting = s.clockSetting ∧
    (s.setTrim h t).link = s.link ∧ (s.setTrim h t).calibrations = s.calibrations ∧ (s.setTrim h t).live = s.live ∧
    (s.setTrim h t).adoption = s.adoption ∧ (s.setTrim h t).rules = s.rules ∧ (s.setTrim h t).events = s.events ∧
    (s.setTrim h t).records = s.records ∧ (s.setTrim h t).trace = s.trace ∧ (s.setTrim h t).requests = s.requests ∧
    (s.setTrim h t).store = s.store ∧ (s.setTrim h t).port = s.port ∧ (s.setTrim h t).notices = s.notices := by
  unfold State.setTrim; dsimp only; split <;> simp

@[simp] theorem completeCalibration_frame (s : State) (h : Fin 12) :
    (s.completeCalibration h).pending = s.pending ∧ (s.completeCalibration h).resetLow = s.resetLow ∧
    (s.completeCalibration h).run = s.run ∧ (s.completeCalibration h).lastClosed = s.lastClosed ∧
    (s.completeCalibration h).stage = s.stage ∧ (s.completeCalibration h).clock = s.clock ∧
    (s.completeCalibration h).period = s.period ∧ (s.completeCalibration h).clockSetting = s.clockSetting ∧
    (s.completeCalibration h).link = s.link ∧ (s.completeCalibration h).live = s.live ∧
    (s.completeCalibration h).adoption = s.adoption ∧ (s.completeCalibration h).rules = s.rules ∧
    (s.completeCalibration h).events = s.events ∧ (s.completeCalibration h).records = s.records ∧
    (s.completeCalibration h).trace = s.trace ∧ (s.completeCalibration h).port = s.port := by
  unfold State.completeCalibration; (try dsimp only); (repeat' split) <;> simp

@[simp] theorem channelTick_frame (s : State) (h : Fin 12) (o : Option Frame) :
    (s.channelTick h o).pending = s.pending ∧ (s.channelTick h o).resetLow = s.resetLow ∧
    (s.channelTick h o).run = s.run ∧ (s.channelTick h o).lastClosed = s.lastClosed ∧
    (s.channelTick h o).stage = s.stage ∧ (s.channelTick h o).clock = s.clock ∧
    (s.channelTick h o).period = s.period ∧ (s.channelTick h o).clockSetting = s.clockSetting ∧
    (s.channelTick h o).link = s.link ∧ (s.channelTick h o).heads = s.heads ∧ (s.channelTick h o).live = s.live ∧
    (s.channelTick h o).adoption = s.adoption ∧ (s.channelTick h o).rules = s.rules ∧
    (s.channelTick h o).events = s.events ∧ (s.channelTick h o).records = s.records ∧
    (s.channelTick h o).trace = s.trace ∧ (s.channelTick h o).port = s.port := by
  unfold State.channelTick; (try dsimp only); (repeat' split) <;> simp

@[simp] theorem writePages_frame (s : State) (st : Stamp) :
    (s.writePages st).pending = s.pending ∧ (s.writePages st).resetLow = s.resetLow ∧ (s.writePages st).run = s.run ∧
    (s.writePages st).lastClosed = s.lastClosed ∧ (s.writePages st).stage = s.stage ∧
    (s.writePages st).clock = s.clock ∧ (s.writePages st).period = s.period ∧
    (s.writePages st).clockSetting = s.clockSetting ∧ (s.writePages st).link = s.link ∧
    (s.writePages st).heads = s.heads ∧ (s.writePages st).channels = s.channels ∧
    (s.writePages st).calibrations = s.calibrations ∧ (s.writePages st).live = s.live ∧
    (s.writePages st).adoption = s.adoption ∧ (s.writePages st).rules = s.rules ∧
    (s.writePages st).events = s.events ∧ (s.writePages st).records = s.records ∧ (s.writePages st).trace = s.trace ∧
    (s.writePages st).requests = s.requests ∧ (s.writePages st).port = s.port ∧
    (s.writePages st).notices = s.notices := by
  unfold State.writePages
  exact ⟨(foldl_keep State.pending _ (fun t x => by simp) _ _).trans (foldl_keep State.pending _ (fun t x => by simp) _ _),
    (foldl_keep State.resetLow _ (fun t x => by simp) _ _).trans (foldl_keep State.resetLow _ (fun t x => by simp) _ _),
    (foldl_keep State.run _ (fun t x => by simp) _ _).trans (foldl_keep State.run _ (fun t x => by simp) _ _),
    (foldl_keep State.lastClosed _ (fun t x => by simp) _ _).trans (foldl_keep State.lastClosed _ (fun t x => by simp) _ _),
    (foldl_keep State.stage _ (fun t x => by simp) _ _).trans (foldl_keep State.stage _ (fun t x => by simp) _ _),
    (foldl_keep State.clock _ (fun t x => by simp) _ _).trans (foldl_keep State.clock _ (fun t x => by simp) _ _),
    (foldl_keep State.period _ (fun t x => by simp) _ _).trans (foldl_keep State.period _ (fun t x => by simp) _ _),
    (foldl_keep State.clockSetting _ (fun t x => by simp) _ _).trans (foldl_keep State.clockSetting _ (fun t x => by simp) _ _),
    (foldl_keep State.link _ (fun t x => by simp) _ _).trans (foldl_keep State.link _ (fun t x => by simp) _ _),
    (foldl_keep State.heads _ (fun t x => by simp) _ _).trans (foldl_keep State.heads _ (fun t x => by simp) _ _),
    (foldl_keep State.channels _ (fun t x => by simp) _ _).trans (foldl_keep State.channels _ (fun t x => by simp) _ _),
    (foldl_keep State.calibrations _ (fun t x => by simp) _ _).trans (foldl_keep State.calibrations _ (fun t x => by simp) _ _),
    (foldl_keep State.live _ (fun t x => by simp) _ _).trans (foldl_keep State.live _ (fun t x => by simp) _ _),
    (foldl_keep State.adoption _ (fun t x => by simp) _ _).trans (foldl_keep State.adoption _ (fun t x => by simp) _ _),
    (foldl_keep State.rules _ (fun t x => by simp) _ _).trans (foldl_keep State.rules _ (fun t x => by simp) _ _),
    (foldl_keep State.events _ (fun t x => by simp) _ _).trans (foldl_keep State.events _ (fun t x => by simp) _ _),
    (foldl_keep State.records _ (fun t x => by simp) _ _).trans (foldl_keep State.records _ (fun t x => by simp) _ _),
    (foldl_keep State.trace _ (fun t x => by simp) _ _).trans (foldl_keep State.trace _ (fun t x => by simp) _ _),
    (foldl_keep State.requests _ (fun t x => by simp) _ _).trans (foldl_keep State.requests _ (fun t x => by simp) _ _),
    (foldl_keep State.port _ (fun t x => by simp) _ _).trans (foldl_keep State.port _ (fun t x => by simp) _ _),
    (foldl_keep State.notices _ (fun t x => by simp) _ _).trans (foldl_keep State.notices _ (fun t x => by simp) _ _)⟩

@[simp] theorem writeClosedPages_frame (s : State) (st : Stamp) :
    (s.writeClosedPages st).pending = s.pending ∧ (s.writeClosedPages st).resetLow = s.resetLow ∧
    (s.writeClosedPages st).run = s.run ∧ (s.writeClosedPages st).lastClosed = s.lastClosed ∧
    (s.writeClosedPages st).stage = s.stage ∧ (s.writeClosedPages st).clock = s.clock ∧
    (s.writeClosedPages st).period = s.period ∧ (s.writeClosedPages st).clockSetting = s.clockSetting ∧
    (s.writeClosedPages st).link = s.link ∧ (s.writeClosedPages st).heads = s.heads ∧
    (s.writeClosedPages st).channels = s.channels ∧ (s.writeClosedPages st).calibrations = s.calibrations ∧
    (s.writeClosedPages st).live = s.live ∧ (s.writeClosedPages st).adoption = s.adoption ∧
    (s.writeClosedPages st).rules = s.rules ∧ (s.writeClosedPages st).events = s.events ∧
    (s.writeClosedPages st).records = s.records ∧ (s.writeClosedPages st).trace = s.trace ∧
    (s.writeClosedPages st).requests = s.requests ∧ (s.writeClosedPages st).port = s.port ∧
    (s.writeClosedPages st).notices = s.notices := by
  unfold State.writeClosedPages
  exact ⟨(foldl_keep State.pending _ (fun t x => by simp) _ _).trans (foldl_keep State.pending _ (fun t x => by simp) _ _),
    (foldl_keep State.resetLow _ (fun t x => by simp) _ _).trans (foldl_keep State.resetLow _ (fun t x => by simp) _ _),
    (foldl_keep State.run _ (fun t x => by simp) _ _).trans (foldl_keep State.run _ (fun t x => by simp) _ _),
    (foldl_keep State.lastClosed _ (fun t x => by simp) _ _).trans (foldl_keep State.lastClosed _ (fun t x => by simp) _ _),
    (foldl_keep State.stage _ (fun t x => by simp) _ _).trans (foldl_keep State.stage _ (fun t x => by simp) _ _),
    (foldl_keep State.clock _ (fun t x => by simp) _ _).trans (foldl_keep State.clock _ (fun t x => by simp) _ _),
    (foldl_keep State.period _ (fun t x => by simp) _ _).trans (foldl_keep State.period _ (fun t x => by simp) _ _),
    (foldl_keep State.clockSetting _ (fun t x => by simp) _ _).trans (foldl_keep State.clockSetting _ (fun t x => by simp) _ _),
    (foldl_keep State.link _ (fun t x => by simp) _ _).trans (foldl_keep State.link _ (fun t x => by simp) _ _),
    (foldl_keep State.heads _ (fun t x => by simp) _ _).trans (foldl_keep State.heads _ (fun t x => by simp) _ _),
    (foldl_keep State.channels _ (fun t x => by simp) _ _).trans (foldl_keep State.channels _ (fun t x => by simp) _ _),
    (foldl_keep State.calibrations _ (fun t x => by simp) _ _).trans (foldl_keep State.calibrations _ (fun t x => by simp) _ _),
    (foldl_keep State.live _ (fun t x => by simp) _ _).trans (foldl_keep State.live _ (fun t x => by simp) _ _),
    (foldl_keep State.adoption _ (fun t x => by simp) _ _).trans (foldl_keep State.adoption _ (fun t x => by simp) _ _),
    (foldl_keep State.rules _ (fun t x => by simp) _ _).trans (foldl_keep State.rules _ (fun t x => by simp) _ _),
    (foldl_keep State.events _ (fun t x => by simp) _ _).trans (foldl_keep State.events _ (fun t x => by simp) _ _),
    (foldl_keep State.records _ (fun t x => by simp) _ _).trans (foldl_keep State.records _ (fun t x => by simp) _ _),
    (foldl_keep State.trace _ (fun t x => by simp) _ _).trans (foldl_keep State.trace _ (fun t x => by simp) _ _),
    (foldl_keep State.requests _ (fun t x => by simp) _ _).trans (foldl_keep State.requests _ (fun t x => by simp) _ _),
    (foldl_keep State.port _ (fun t x => by simp) _ _).trans (foldl_keep State.port _ (fun t x => by simp) _ _),
    (foldl_keep State.notices _ (fun t x => by simp) _ _).trans (foldl_keep State.notices _ (fun t x => by simp) _ _)⟩

@[simp] theorem clearSeconds_frame (s : State) :
    (s.clearSeconds).pending = s.pending ∧ (s.clearSeconds).resetLow = s.resetLow ∧ (s.clearSeconds).run = s.run ∧
    (s.clearSeconds).lastClosed = s.lastClosed ∧ (s.clearSeconds).stage = s.stage ∧ (s.clearSeconds).clock = s.clock ∧
    (s.clearSeconds).period = s.period ∧ (s.clearSeconds).clockSetting = s.clockSetting ∧
    (s.clearSeconds).link = s.link ∧ (s.clearSeconds).heads = s.heads ∧
    (s.clearSeconds).calibrations = s.calibrations ∧ (s.clearSeconds).live = s.live ∧
    (s.clearSeconds).adoption = s.adoption ∧ (s.clearSeconds).rules = s.rules ∧ (s.clearSeconds).events = s.events ∧
    (s.clearSeconds).records = s.records ∧ (s.clearSeconds).trace = s.trace ∧ (s.clearSeconds).requests = s.requests ∧
    (s.clearSeconds).store = s.store ∧ (s.clearSeconds).port = s.port ∧ (s.clearSeconds).notices = s.notices := by
  unfold State.clearSeconds
  exact ⟨foldl_keep State.pending _ (fun t x => by split <;> simp) _ _,
    foldl_keep State.resetLow _ (fun t x => by split <;> simp) _ _,
    foldl_keep State.run _ (fun t x => by split <;> simp) _ _,
    foldl_keep State.lastClosed _ (fun t x => by split <;> simp) _ _,
    foldl_keep State.stage _ (fun t x => by split <;> simp) _ _,
    foldl_keep State.clock _ (fun t x => by split <;> simp) _ _,
    foldl_keep State.period _ (fun t x => by split <;> simp) _ _,
    foldl_keep State.clockSetting _ (fun t x => by split <;> simp) _ _,
    foldl_keep State.link _ (fun t x => by split <;> simp) _ _,
    foldl_keep State.heads _ (fun t x => by split <;> simp) _ _,
    foldl_keep State.calibrations _ (fun t x => by split <;> simp) _ _,
    foldl_keep State.live _ (fun t x => by split <;> simp) _ _,
    foldl_keep State.adoption _ (fun t x => by split <;> simp) _ _,
    foldl_keep State.rules _ (fun t x => by split <;> simp) _ _,
    foldl_keep State.events _ (fun t x => by split <;> simp) _ _,
    foldl_keep State.records _ (fun t x => by split <;> simp) _ _,
    foldl_keep State.trace _ (fun t x => by split <;> simp) _ _,
    foldl_keep State.requests _ (fun t x => by split <;> simp) _ _,
    foldl_keep State.store _ (fun t x => by split <;> simp) _ _,
    foldl_keep State.port _ (fun t x => by split <;> simp) _ _,
    foldl_keep State.notices _ (fun t x => by split <;> simp) _ _⟩

@[simp] theorem closeChannel_frame (s : State) (h : Fin 12) (c : Bool) (n : Nat) :
    (s.closeChannel h c n).pending = s.pending ∧ (s.closeChannel h c n).resetLow = s.resetLow ∧
    (s.closeChannel h c n).run = s.run ∧ (s.closeChannel h c n).lastClosed = s.lastClosed ∧
    (s.closeChannel h c n).stage = s.stage ∧ (s.closeChannel h c n).clock = s.clock ∧
    (s.closeChannel h c n).period = s.period ∧ (s.closeChannel h c n).clockSetting = s.clockSetting ∧
    (s.closeChannel h c n).link = s.link ∧ (s.closeChannel h c n).heads = s.heads ∧
    (s.closeChannel h c n).calibrations = s.calibrations ∧ (s.closeChannel h c n).live = s.live ∧
    (s.closeChannel h c n).adoption = s.adoption ∧ (s.closeChannel h c n).rules = s.rules ∧
    (s.closeChannel h c n).events = s.events ∧ (s.closeChannel h c n).trace = s.trace ∧
    (s.closeChannel h c n).requests = s.requests ∧ (s.closeChannel h c n).port = s.port := by
  simp [State.closeChannel]

@[simp] theorem openForPeriod_frame (s : State) :
    (s.openForPeriod).pending = s.pending ∧ (s.openForPeriod).resetLow = s.resetLow ∧ (s.openForPeriod).run = s.run ∧
    (s.openForPeriod).lastClosed = s.lastClosed ∧ (s.openForPeriod).stage = s.stage ∧
    (s.openForPeriod).clock = s.clock ∧ (s.openForPeriod).period = s.period ∧
    (s.openForPeriod).clockSetting = s.clockSetting ∧ (s.openForPeriod).link = s.link ∧
    (s.openForPeriod).heads = s.heads ∧ (s.openForPeriod).calibrations = s.calibrations ∧
    (s.openForPeriod).live = s.live ∧ (s.openForPeriod).adoption = s.adoption ∧ (s.openForPeriod).rules = s.rules ∧
    (s.openForPeriod).events = s.events ∧ (s.openForPeriod).records = s.records ∧ (s.openForPeriod).trace = s.trace ∧
    (s.openForPeriod).requests = s.requests ∧ (s.openForPeriod).store = s.store ∧ (s.openForPeriod).port = s.port ∧
    (s.openForPeriod).notices = s.notices := by
  unfold State.openForPeriod
  exact ⟨foldl_keep State.pending _ (fun t x => by split <;> simp) _ _,
    foldl_keep State.resetLow _ (fun t x => by split <;> simp) _ _,
    foldl_keep State.run _ (fun t x => by split <;> simp) _ _,
    foldl_keep State.lastClosed _ (fun t x => by split <;> simp) _ _,
    foldl_keep State.stage _ (fun t x => by split <;> simp) _ _,
    foldl_keep State.clock _ (fun t x => by split <;> simp) _ _,
    foldl_keep State.period _ (fun t x => by split <;> simp) _ _,
    foldl_keep State.clockSetting _ (fun t x => by split <;> simp) _ _,
    foldl_keep State.link _ (fun t x => by split <;> simp) _ _,
    foldl_keep State.heads _ (fun t x => by split <;> simp) _ _,
    foldl_keep State.calibrations _ (fun t x => by split <;> simp) _ _,
    foldl_keep State.live _ (fun t x => by split <;> simp) _ _,
    foldl_keep State.adoption _ (fun t x => by split <;> simp) _ _,
    foldl_keep State.rules _ (fun t x => by split <;> simp) _ _,
    foldl_keep State.events _ (fun t x => by split <;> simp) _ _,
    foldl_keep State.records _ (fun t x => by split <;> simp) _ _,
    foldl_keep State.trace _ (fun t x => by split <;> simp) _ _,
    foldl_keep State.requests _ (fun t x => by split <;> simp) _ _,
    foldl_keep State.store _ (fun t x => by split <;> simp) _ _,
    foldl_keep State.port _ (fun t x => by split <;> simp) _ _,
    foldl_keep State.notices _ (fun t x => by split <;> simp) _ _⟩

/-! ## Heads -/

@[simp] theorem forgetActive_frame (s : State) (h : Fin 12) :
    (s.forgetActive h).pending = s.pending ∧ (s.forgetActive h).resetLow = s.resetLow ∧
    (s.forgetActive h).run = s.run ∧ (s.forgetActive h).lastClosed = s.lastClosed ∧
    (s.forgetActive h).stage = s.stage ∧ (s.forgetActive h).clock = s.clock ∧ (s.forgetActive h).period = s.period ∧
    (s.forgetActive h).clockSetting = s.clockSetting ∧ (s.forgetActive h).link = s.link ∧
    (s.forgetActive h).heads = s.heads ∧ (s.forgetActive h).calibrations = s.calibrations ∧
    (s.forgetActive h).live = s.live ∧ (s.forgetActive h).adoption = s.adoption ∧ (s.forgetActive h).rules = s.rules ∧
    (s.forgetActive h).events = s.events ∧ (s.forgetActive h).records = s.records ∧
    (s.forgetActive h).requests = s.requests ∧ (s.forgetActive h).store = s.store ∧ (s.forgetActive h).port = s.port ∧
    (s.forgetActive h).notices = s.notices := by
  simp [State.forgetActive]

@[simp] theorem leaveActive_frame (s : State) (h : Fin 12) (r : AbortReason) :
    (s.leaveActive h r).pending = s.pending ∧ (s.leaveActive h r).resetLow = s.resetLow ∧
    (s.leaveActive h r).run = s.run ∧ (s.leaveActive h r).lastClosed = s.lastClosed ∧
    (s.leaveActive h r).stage = s.stage ∧ (s.leaveActive h r).clock = s.clock ∧
    (s.leaveActive h r).period = s.period ∧ (s.leaveActive h r).clockSetting = s.clockSetting ∧
    (s.leaveActive h r).link = s.link ∧ (s.leaveActive h r).heads = s.heads ∧ (s.leaveActive h r).live = s.live ∧
    (s.leaveActive h r).adoption = s.adoption ∧ (s.leaveActive h r).rules = s.rules ∧
    (s.leaveActive h r).events = s.events ∧ (s.leaveActive h r).records = s.records ∧
    (s.leaveActive h r).port = s.port := by
  simp [State.leaveActive]

@[simp] theorem leaveAtMark_frame (s : State) (h : Fin 12) :
    (s.leaveAtMark h).pending = s.pending ∧ (s.leaveAtMark h).resetLow = s.resetLow ∧ (s.leaveAtMark h).run = s.run ∧
    (s.leaveAtMark h).lastClosed = s.lastClosed ∧ (s.leaveAtMark h).stage = s.stage ∧
    (s.leaveAtMark h).clock = s.clock ∧ (s.leaveAtMark h).period = s.period ∧
    (s.leaveAtMark h).clockSetting = s.clockSetting ∧ (s.leaveAtMark h).link = s.link ∧
    (s.leaveAtMark h).heads = s.heads ∧ (s.leaveAtMark h).live = s.live ∧ (s.leaveAtMark h).adoption = s.adoption ∧
    (s.leaveAtMark h).rules = s.rules ∧ (s.leaveAtMark h).events = s.events ∧ (s.leaveAtMark h).records = s.records ∧
    (s.leaveAtMark h).port = s.port := by
  unfold State.leaveAtMark; (repeat' split) <;> simp

@[simp] theorem joinComplete_frame (s : State) (h : Fin 12) (f : Frame) :
    (s.joinComplete h f).pending = s.pending ∧ (s.joinComplete h f).resetLow = s.resetLow ∧
    (s.joinComplete h f).run = s.run ∧ (s.joinComplete h f).lastClosed = s.lastClosed ∧
    (s.joinComplete h f).stage = s.stage ∧ (s.joinComplete h f).clock = s.clock ∧
    (s.joinComplete h f).period = s.period ∧ (s.joinComplete h f).clockSetting = s.clockSetting ∧
    (s.joinComplete h f).link = s.link ∧ (s.joinComplete h f).calibrations = s.calibrations ∧
    (s.joinComplete h f).live = s.live ∧ (s.joinComplete h f).adoption = s.adoption ∧
    (s.joinComplete h f).rules = s.rules ∧ (s.joinComplete h f).events = s.events ∧
    (s.joinComplete h f).records = s.records ∧ (s.joinComplete h f).trace = s.trace ∧
    (s.joinComplete h f).requests = s.requests ∧ (s.joinComplete h f).store = s.store ∧
    (s.joinComplete h f).port = s.port := by
  unfold State.joinComplete; dsimp only; split <;> simp

@[simp] theorem loseHead_frame (s : State) (h : Fin 12) :
    (s.loseHead h).pending = s.pending ∧ (s.loseHead h).resetLow = s.resetLow ∧ (s.loseHead h).run = s.run ∧
    (s.loseHead h).lastClosed = s.lastClosed ∧ (s.loseHead h).stage = s.stage ∧ (s.loseHead h).clock = s.clock ∧
    (s.loseHead h).period = s.period ∧ (s.loseHead h).clockSetting = s.clockSetting ∧ (s.loseHead h).link = s.link ∧
    (s.loseHead h).live = s.live ∧ (s.loseHead h).adoption = s.adoption ∧ (s.loseHead h).rules = s.rules ∧
    (s.loseHead h).events = s.events ∧ (s.loseHead h).records = s.records ∧ (s.loseHead h).port = s.port := by
  simp [State.loseHead]

@[simp] theorem headStep_frame (s : State) (h : Fin 12) (o : Option Frame) :
    (s.headStep h o).pending = s.pending ∧ (s.headStep h o).resetLow = s.resetLow ∧ (s.headStep h o).run = s.run ∧
    (s.headStep h o).lastClosed = s.lastClosed ∧ (s.headStep h o).stage = s.stage ∧ (s.headStep h o).clock = s.clock ∧
    (s.headStep h o).period = s.period ∧ (s.headStep h o).clockSetting = s.clockSetting ∧
    (s.headStep h o).link = s.link ∧ (s.headStep h o).live = s.live ∧ (s.headStep h o).adoption = s.adoption ∧
    (s.headStep h o).rules = s.rules ∧ (s.headStep h o).events = s.events ∧ (s.headStep h o).records = s.records ∧
    (s.headStep h o).port = s.port := by
  unfold State.headStep; (try dsimp only); (repeat' split) <;> simp

@[simp] theorem settleHead_frame (s : State) (h : Fin 12) :
    (s.settleHead h).pending = s.pending ∧ (s.settleHead h).resetLow = s.resetLow ∧ (s.settleHead h).run = s.run ∧
    (s.settleHead h).lastClosed = s.lastClosed ∧ (s.settleHead h).stage = s.stage ∧ (s.settleHead h).clock = s.clock ∧
    (s.settleHead h).period = s.period ∧ (s.settleHead h).clockSetting = s.clockSetting ∧
    (s.settleHead h).live = s.live ∧ (s.settleHead h).adoption = s.adoption ∧ (s.settleHead h).rules = s.rules ∧
    (s.settleHead h).events = s.events ∧ (s.settleHead h).records = s.records ∧ (s.settleHead h).port = s.port := by
  simp [State.settleHead]

@[simp] theorem enableAtMark_frame (s : State) (h : Fin 12) :
    (s.enableAtMark h).pending = s.pending ∧ (s.enableAtMark h).resetLow = s.resetLow ∧
    (s.enableAtMark h).run = s.run ∧ (s.enableAtMark h).lastClosed = s.lastClosed ∧
    (s.enableAtMark h).stage = s.stage ∧ (s.enableAtMark h).clock = s.clock ∧ (s.enableAtMark h).period = s.period ∧
    (s.enableAtMark h).clockSetting = s.clockSetting ∧ (s.enableAtMark h).link = s.link ∧
    (s.enableAtMark h).calibrations = s.calibrations ∧ (s.enableAtMark h).live = s.live ∧
    (s.enableAtMark h).adoption = s.adoption ∧ (s.enableAtMark h).rules = s.rules ∧
    (s.enableAtMark h).events = s.events ∧ (s.enableAtMark h).records = s.records ∧
    (s.enableAtMark h).trace = s.trace ∧ (s.enableAtMark h).requests = s.requests ∧
    (s.enableAtMark h).store = s.store ∧ (s.enableAtMark h).port = s.port ∧
    (s.enableAtMark h).notices = s.notices := by
  simp [State.enableAtMark]

@[simp] theorem disableAtMark_frame (s : State) (h : Fin 12) :
    (s.disableAtMark h).pending = s.pending ∧ (s.disableAtMark h).resetLow = s.resetLow ∧
    (s.disableAtMark h).run = s.run ∧ (s.disableAtMark h).lastClosed = s.lastClosed ∧
    (s.disableAtMark h).stage = s.stage ∧ (s.disableAtMark h).clock = s.clock ∧
    (s.disableAtMark h).period = s.period ∧ (s.disableAtMark h).clockSetting = s.clockSetting ∧
    (s.disableAtMark h).link = s.link ∧ (s.disableAtMark h).live = s.live ∧
    (s.disableAtMark h).adoption = s.adoption ∧ (s.disableAtMark h).rules = s.rules ∧
    (s.disableAtMark h).events = s.events ∧ (s.disableAtMark h).port = s.port := by
  unfold State.disableAtMark; (try dsimp only); (repeat' split) <;> simp

@[simp] theorem markHead_frame (s : State) (h : Fin 12) :
    (s.markHead h).pending = s.pending ∧ (s.markHead h).resetLow = s.resetLow ∧ (s.markHead h).run = s.run ∧
    (s.markHead h).lastClosed = s.lastClosed ∧ (s.markHead h).stage = s.stage ∧ (s.markHead h).clock = s.clock ∧
    (s.markHead h).period = s.period ∧ (s.markHead h).clockSetting = s.clockSetting ∧ (s.markHead h).link = s.link ∧
    (s.markHead h).live = s.live ∧ (s.markHead h).adoption = s.adoption ∧ (s.markHead h).rules = s.rules ∧
    (s.markHead h).events = s.events ∧ (s.markHead h).port = s.port := by
  unfold State.markHead; (repeat' split) <;> simp

@[simp] theorem startHeads_frame (s : State) :
    (s.startHeads).pending = s.pending ∧ (s.startHeads).resetLow = s.resetLow ∧ (s.startHeads).run = s.run ∧
    (s.startHeads).lastClosed = s.lastClosed ∧ (s.startHeads).stage = s.stage ∧ (s.startHeads).clock = s.clock ∧
    (s.startHeads).period = s.period ∧ (s.startHeads).clockSetting = s.clockSetting ∧ (s.startHeads).link = s.link ∧
    (s.startHeads).calibrations = s.calibrations ∧ (s.startHeads).live = s.live ∧
    (s.startHeads).adoption = s.adoption ∧ (s.startHeads).rules = s.rules ∧ (s.startHeads).events = s.events ∧
    (s.startHeads).records = s.records ∧ (s.startHeads).trace = s.trace ∧ (s.startHeads).requests = s.requests ∧
    (s.startHeads).store = s.store ∧ (s.startHeads).port = s.port ∧ (s.startHeads).notices = s.notices := by
  unfold State.startHeads
  exact ⟨foldl_keep State.pending _ (fun t x => by split <;> simp) _ _,
    foldl_keep State.resetLow _ (fun t x => by split <;> simp) _ _,
    foldl_keep State.run _ (fun t x => by split <;> simp) _ _,
    foldl_keep State.lastClosed _ (fun t x => by split <;> simp) _ _,
    foldl_keep State.stage _ (fun t x => by split <;> simp) _ _,
    foldl_keep State.clock _ (fun t x => by split <;> simp) _ _,
    foldl_keep State.period _ (fun t x => by split <;> simp) _ _,
    foldl_keep State.clockSetting _ (fun t x => by split <;> simp) _ _,
    foldl_keep State.link _ (fun t x => by split <;> simp) _ _,
    foldl_keep State.calibrations _ (fun t x => by split <;> simp) _ _,
    foldl_keep State.live _ (fun t x => by split <;> simp) _ _,
    foldl_keep State.adoption _ (fun t x => by split <;> simp) _ _,
    foldl_keep State.rules _ (fun t x => by split <;> simp) _ _,
    foldl_keep State.events _ (fun t x => by split <;> simp) _ _,
    foldl_keep State.records _ (fun t x => by split <;> simp) _ _,
    foldl_keep State.trace _ (fun t x => by split <;> simp) _ _,
    foldl_keep State.requests _ (fun t x => by split <;> simp) _ _,
    foldl_keep State.store _ (fun t x => by split <;> simp) _ _,
    foldl_keep State.port _ (fun t x => by split <;> simp) _ _,
    foldl_keep State.notices _ (fun t x => by split <;> simp) _ _⟩

@[simp] theorem leaveAtStop_frame (s : State) (h : Fin 12) :
    (s.leaveAtStop h).pending = s.pending ∧ (s.leaveAtStop h).resetLow = s.resetLow ∧ (s.leaveAtStop h).run = s.run ∧
    (s.leaveAtStop h).lastClosed = s.lastClosed ∧ (s.leaveAtStop h).stage = s.stage ∧
    (s.leaveAtStop h).clock = s.clock ∧ (s.leaveAtStop h).period = s.period ∧
    (s.leaveAtStop h).clockSetting = s.clockSetting ∧ (s.leaveAtStop h).link = s.link ∧
    (s.leaveAtStop h).live = s.live ∧ (s.leaveAtStop h).adoption = s.adoption ∧
    (s.leaveAtStop h).rules = s.rules ∧ (s.leaveAtStop h).events = s.events ∧
    (s.leaveAtStop h).records = s.records ∧ (s.leaveAtStop h).port = s.port := by
  unfold State.leaveAtStop; (repeat' split) <;> simp

@[simp] theorem stopHead_frame (s : State) (h : Fin 12) :
    (s.stopHead h).pending = s.pending ∧ (s.stopHead h).resetLow = s.resetLow ∧ (s.stopHead h).run = s.run ∧
    (s.stopHead h).lastClosed = s.lastClosed ∧ (s.stopHead h).stage = s.stage ∧ (s.stopHead h).clock = s.clock ∧
    (s.stopHead h).period = s.period ∧ (s.stopHead h).clockSetting = s.clockSetting ∧ (s.stopHead h).link = s.link ∧
    (s.stopHead h).live = s.live ∧ (s.stopHead h).adoption = s.adoption ∧ (s.stopHead h).rules = s.rules ∧
    (s.stopHead h).events = s.events ∧ (s.stopHead h).records = s.records ∧ (s.stopHead h).port = s.port := by
  unfold State.stopHead; (try dsimp only); (repeat' split) <;> simp

@[simp] theorem stopHeads_frame (s : State) :
    (s.stopHeads).pending = s.pending ∧ (s.stopHeads).resetLow = s.resetLow ∧ (s.stopHeads).run = s.run ∧
    (s.stopHeads).lastClosed = s.lastClosed ∧ (s.stopHeads).stage = s.stage ∧ (s.stopHeads).clock = s.clock ∧
    (s.stopHeads).period = s.period ∧ (s.stopHeads).clockSetting = s.clockSetting ∧ (s.stopHeads).link = s.link ∧
    (s.stopHeads).live = s.live ∧ (s.stopHeads).adoption = s.adoption ∧ (s.stopHeads).rules = s.rules ∧
    (s.stopHeads).events = s.events ∧ (s.stopHeads).records = s.records ∧ (s.stopHeads).port = s.port := by
  unfold State.stopHeads
  exact ⟨foldl_keep State.pending _ (fun t x => by simp) _ _,
    foldl_keep State.resetLow _ (fun t x => by simp) _ _,
    foldl_keep State.run _ (fun t x => by simp) _ _,
    foldl_keep State.lastClosed _ (fun t x => by simp) _ _,
    foldl_keep State.stage _ (fun t x => by simp) _ _,
    foldl_keep State.clock _ (fun t x => by simp) _ _,
    foldl_keep State.period _ (fun t x => by simp) _ _,
    foldl_keep State.clockSetting _ (fun t x => by simp) _ _,
    foldl_keep State.link _ (fun t x => by simp) _ _,
    foldl_keep State.live _ (fun t x => by simp) _ _,
    foldl_keep State.adoption _ (fun t x => by simp) _ _,
    foldl_keep State.rules _ (fun t x => by simp) _ _,
    foldl_keep State.events _ (fun t x => by simp) _ _,
    foldl_keep State.records _ (fun t x => by simp) _ _,
    foldl_keep State.port _ (fun t x => by simp) _ _⟩

/-! ## Evaluator -/

@[simp] theorem raiseRule_frame (s : State) (k : TriggerKind) (n : Fin 24) (b : Nat × Nat) (f : CompareFlags) (c : Clock) :
    (s.raiseRule k n b f c).pending = s.pending ∧ (s.raiseRule k n b f c).resetLow = s.resetLow ∧
    (s.raiseRule k n b f c).run = s.run ∧ (s.raiseRule k n b f c).lastClosed = s.lastClosed ∧
    (s.raiseRule k n b f c).stage = s.stage ∧ (s.raiseRule k n b f c).clock = s.clock ∧
    (s.raiseRule k n b f c).period = s.period ∧ (s.raiseRule k n b f c).clockSetting = s.clockSetting ∧
    (s.raiseRule k n b f c).link = s.link ∧ (s.raiseRule k n b f c).heads = s.heads ∧
    (s.raiseRule k n b f c).channels = s.channels ∧ (s.raiseRule k n b f c).calibrations = s.calibrations ∧
    (s.raiseRule k n b f c).live = s.live ∧ (s.raiseRule k n b f c).adoption = s.adoption ∧
    (s.raiseRule k n b f c).rules = s.rules ∧ (s.raiseRule k n b f c).records = s.records ∧
    (s.raiseRule k n b f c).requests = s.requests ∧ (s.raiseRule k n b f c).port = s.port := by
  unfold State.raiseRule; dsimp only; split <;> simp

@[simp] theorem evalInstant_frame (s : State) (n : Fin 24) (m : Metric) (c : Clock) :
    (s.evalInstant n m c).pending = s.pending ∧ (s.evalInstant n m c).resetLow = s.resetLow ∧
    (s.evalInstant n m c).run = s.run ∧ (s.evalInstant n m c).lastClosed = s.lastClosed ∧
    (s.evalInstant n m c).stage = s.stage ∧ (s.evalInstant n m c).clock = s.clock ∧
    (s.evalInstant n m c).period = s.period ∧ (s.evalInstant n m c).clockSetting = s.clockSetting ∧
    (s.evalInstant n m c).link = s.link ∧ (s.evalInstant n m c).heads = s.heads ∧
    (s.evalInstant n m c).channels = s.channels ∧ (s.evalInstant n m c).calibrations = s.calibrations ∧
    (s.evalInstant n m c).live = s.live ∧ (s.evalInstant n m c).adoption = s.adoption ∧
    (s.evalInstant n m c).records = s.records ∧ (s.evalInstant n m c).requests = s.requests ∧
    (s.evalInstant n m c).port = s.port := by
  unfold State.evalInstant; (try dsimp only); (repeat' split) <;> simp

@[simp] theorem evalCertain_frame (s : State) (n : Fin 24) (c : Clock) :
    (s.evalCertain n c).pending = s.pending ∧ (s.evalCertain n c).resetLow = s.resetLow ∧
    (s.evalCertain n c).run = s.run ∧ (s.evalCertain n c).lastClosed = s.lastClosed ∧
    (s.evalCertain n c).stage = s.stage ∧ (s.evalCertain n c).clock = s.clock ∧
    (s.evalCertain n c).period = s.period ∧ (s.evalCertain n c).clockSetting = s.clockSetting ∧
    (s.evalCertain n c).link = s.link ∧ (s.evalCertain n c).heads = s.heads ∧
    (s.evalCertain n c).channels = s.channels ∧ (s.evalCertain n c).calibrations = s.calibrations ∧
    (s.evalCertain n c).live = s.live ∧ (s.evalCertain n c).adoption = s.adoption ∧
    (s.evalCertain n c).records = s.records ∧ (s.evalCertain n c).requests = s.requests ∧
    (s.evalCertain n c).port = s.port := by
  unfold State.evalCertain; (try dsimp only); (repeat' split) <;> simp

@[simp] theorem evalAtSecond_frame (s : State) (c : Clock) (n : Fin 24) :
    (State.evalAtSecond c s n).pending = s.pending ∧ (State.evalAtSecond c s n).resetLow = s.resetLow ∧
    (State.evalAtSecond c s n).run = s.run ∧ (State.evalAtSecond c s n).lastClosed = s.lastClosed ∧
    (State.evalAtSecond c s n).stage = s.stage ∧ (State.evalAtSecond c s n).clock = s.clock ∧
    (State.evalAtSecond c s n).period = s.period ∧ (State.evalAtSecond c s n).clockSetting = s.clockSetting ∧
    (State.evalAtSecond c s n).link = s.link ∧ (State.evalAtSecond c s n).heads = s.heads ∧
    (State.evalAtSecond c s n).channels = s.channels ∧ (State.evalAtSecond c s n).calibrations = s.calibrations ∧
    (State.evalAtSecond c s n).live = s.live ∧ (State.evalAtSecond c s n).adoption = s.adoption ∧
    (State.evalAtSecond c s n).records = s.records ∧ (State.evalAtSecond c s n).requests = s.requests ∧
    (State.evalAtSecond c s n).port = s.port := by
  unfold State.evalAtSecond; (repeat' split) <;> simp

@[simp] theorem evalSecond_frame (s : State) (c : Clock) :
    (s.evalSecond c).pending = s.pending ∧ (s.evalSecond c).resetLow = s.resetLow ∧ (s.evalSecond c).run = s.run ∧
    (s.evalSecond c).lastClosed = s.lastClosed ∧ (s.evalSecond c).stage = s.stage ∧ (s.evalSecond c).clock = s.clock ∧
    (s.evalSecond c).period = s.period ∧ (s.evalSecond c).clockSetting = s.clockSetting ∧
    (s.evalSecond c).link = s.link ∧ (s.evalSecond c).heads = s.heads ∧ (s.evalSecond c).channels = s.channels ∧
    (s.evalSecond c).calibrations = s.calibrations ∧ (s.evalSecond c).live = s.live ∧
    (s.evalSecond c).adoption = s.adoption ∧ (s.evalSecond c).records = s.records ∧
    (s.evalSecond c).requests = s.requests ∧ (s.evalSecond c).port = s.port := by
  unfold State.evalSecond
  exact ⟨foldl_keep State.pending _ (fun t x => by simp) _ _,
    foldl_keep State.resetLow _ (fun t x => by simp) _ _,
    foldl_keep State.run _ (fun t x => by simp) _ _,
    foldl_keep State.lastClosed _ (fun t x => by simp) _ _,
    foldl_keep State.stage _ (fun t x => by simp) _ _,
    foldl_keep State.clock _ (fun t x => by simp) _ _,
    foldl_keep State.period _ (fun t x => by simp) _ _,
    foldl_keep State.clockSetting _ (fun t x => by simp) _ _,
    foldl_keep State.link _ (fun t x => by simp) _ _,
    foldl_keep State.heads _ (fun t x => by simp) _ _,
    foldl_keep State.channels _ (fun t x => by simp) _ _,
    foldl_keep State.calibrations _ (fun t x => by simp) _ _,
    foldl_keep State.live _ (fun t x => by simp) _ _,
    foldl_keep State.adoption _ (fun t x => by simp) _ _,
    foldl_keep State.records _ (fun t x => by simp) _ _,
    foldl_keep State.requests _ (fun t x => by simp) _ _,
    foldl_keep State.port _ (fun t x => by simp) _ _⟩

@[simp] theorem evalAtPeriod_frame (s : State) (pre : State) (a : Nat) (c : Clock) (n : Fin 24) :
    (State.evalAtPeriod pre a c s n).pending = s.pending ∧ (State.evalAtPeriod pre a c s n).resetLow = s.resetLow ∧
    (State.evalAtPeriod pre a c s n).run = s.run ∧ (State.evalAtPeriod pre a c s n).lastClosed = s.lastClosed ∧
    (State.evalAtPeriod pre a c s n).stage = s.stage ∧ (State.evalAtPeriod pre a c s n).clock = s.clock ∧
    (State.evalAtPeriod pre a c s n).period = s.period ∧
    (State.evalAtPeriod pre a c s n).clockSetting = s.clockSetting ∧ (State.evalAtPeriod pre a c s n).link = s.link ∧
    (State.evalAtPeriod pre a c s n).heads = s.heads ∧ (State.evalAtPeriod pre a c s n).channels = s.channels ∧
    (State.evalAtPeriod pre a c s n).calibrations = s.calibrations ∧ (State.evalAtPeriod pre a c s n).live = s.live ∧
    (State.evalAtPeriod pre a c s n).adoption = s.adoption ∧ (State.evalAtPeriod pre a c s n).records = s.records ∧
    (State.evalAtPeriod pre a c s n).requests = s.requests ∧ (State.evalAtPeriod pre a c s n).port = s.port := by
  unfold State.evalAtPeriod; (try dsimp only); (repeat' split) <;> simp

@[simp] theorem evalPeriod_frame (s : State) (pre : State) (a : Nat) (c : Clock) :
    (s.evalPeriod pre a c).pending = s.pending ∧ (s.evalPeriod pre a c).resetLow = s.resetLow ∧
    (s.evalPeriod pre a c).run = s.run ∧ (s.evalPeriod pre a c).lastClosed = s.lastClosed ∧
    (s.evalPeriod pre a c).stage = s.stage ∧ (s.evalPeriod pre a c).clock = s.clock ∧
    (s.evalPeriod pre a c).period = s.period ∧ (s.evalPeriod pre a c).clockSetting = s.clockSetting ∧
    (s.evalPeriod pre a c).link = s.link ∧ (s.evalPeriod pre a c).heads = s.heads ∧
    (s.evalPeriod pre a c).channels = s.channels ∧ (s.evalPeriod pre a c).calibrations = s.calibrations ∧
    (s.evalPeriod pre a c).live = s.live ∧ (s.evalPeriod pre a c).adoption = s.adoption ∧
    (s.evalPeriod pre a c).records = s.records ∧ (s.evalPeriod pre a c).requests = s.requests ∧
    (s.evalPeriod pre a c).port = s.port := by
  unfold State.evalPeriod
  exact ⟨foldl_keep State.pending _ (fun t x => by simp) _ _,
    foldl_keep State.resetLow _ (fun t x => by simp) _ _,
    foldl_keep State.run _ (fun t x => by simp) _ _,
    foldl_keep State.lastClosed _ (fun t x => by simp) _ _,
    foldl_keep State.stage _ (fun t x => by simp) _ _,
    foldl_keep State.clock _ (fun t x => by simp) _ _,
    foldl_keep State.period _ (fun t x => by simp) _ _,
    foldl_keep State.clockSetting _ (fun t x => by simp) _ _,
    foldl_keep State.link _ (fun t x => by simp) _ _,
    foldl_keep State.heads _ (fun t x => by simp) _ _,
    foldl_keep State.channels _ (fun t x => by simp) _ _,
    foldl_keep State.calibrations _ (fun t x => by simp) _ _,
    foldl_keep State.live _ (fun t x => by simp) _ _,
    foldl_keep State.adoption _ (fun t x => by simp) _ _,
    foldl_keep State.records _ (fun t x => by simp) _ _,
    foldl_keep State.requests _ (fun t x => by simp) _ _,
    foldl_keep State.port _ (fun t x => by simp) _ _⟩

@[simp] theorem clearLatches_frame (s : State) :
    (s.clearLatches).pending = s.pending ∧ (s.clearLatches).resetLow = s.resetLow ∧ (s.clearLatches).run = s.run ∧
    (s.clearLatches).lastClosed = s.lastClosed ∧ (s.clearLatches).stage = s.stage ∧ (s.clearLatches).clock = s.clock ∧
    (s.clearLatches).period = s.period ∧ (s.clearLatches).clockSetting = s.clockSetting ∧
    (s.clearLatches).link = s.link ∧ (s.clearLatches).heads = s.heads ∧ (s.clearLatches).channels = s.channels ∧
    (s.clearLatches).calibrations = s.calibrations ∧ (s.clearLatches).live = s.live ∧
    (s.clearLatches).adoption = s.adoption ∧ (s.clearLatches).events = s.events ∧
    (s.clearLatches).records = s.records ∧ (s.clearLatches).trace = s.trace ∧ (s.clearLatches).requests = s.requests ∧
    (s.clearLatches).store = s.store ∧ (s.clearLatches).port = s.port ∧ (s.clearLatches).notices = s.notices := by
  unfold State.clearLatches
  exact ⟨foldl_keep State.pending _ (fun t x => by simp) _ _,
    foldl_keep State.resetLow _ (fun t x => by simp) _ _,
    foldl_keep State.run _ (fun t x => by simp) _ _,
    foldl_keep State.lastClosed _ (fun t x => by simp) _ _,
    foldl_keep State.stage _ (fun t x => by simp) _ _,
    foldl_keep State.clock _ (fun t x => by simp) _ _,
    foldl_keep State.period _ (fun t x => by simp) _ _,
    foldl_keep State.clockSetting _ (fun t x => by simp) _ _,
    foldl_keep State.link _ (fun t x => by simp) _ _,
    foldl_keep State.heads _ (fun t x => by simp) _ _,
    foldl_keep State.channels _ (fun t x => by simp) _ _,
    foldl_keep State.calibrations _ (fun t x => by simp) _ _,
    foldl_keep State.live _ (fun t x => by simp) _ _,
    foldl_keep State.adoption _ (fun t x => by simp) _ _,
    foldl_keep State.events _ (fun t x => by simp) _ _,
    foldl_keep State.records _ (fun t x => by simp) _ _,
    foldl_keep State.trace _ (fun t x => by simp) _ _,
    foldl_keep State.requests _ (fun t x => by simp) _ _,
    foldl_keep State.store _ (fun t x => by simp) _ _,
    foldl_keep State.port _ (fun t x => by simp) _ _,
    foldl_keep State.notices _ (fun t x => by simp) _ _⟩

/-! ## Periods -/

@[simp] theorem adopt_frame (s : State) :
    (s.adopt).pending = s.pending ∧ (s.adopt).resetLow = s.resetLow ∧ (s.adopt).run = s.run ∧
    (s.adopt).lastClosed = s.lastClosed ∧ (s.adopt).stage = s.stage ∧ (s.adopt).clock = s.clock ∧
    (s.adopt).period = s.period ∧ (s.adopt).clockSetting = s.clockSetting ∧ (s.adopt).link = s.link ∧
    (s.adopt).heads = s.heads ∧ (s.adopt).channels = s.channels ∧ (s.adopt).calibrations = s.calibrations ∧
    (s.adopt).adoption = s.adoption ∧ (s.adopt).events = s.events ∧ (s.adopt).records = s.records ∧
    (s.adopt).trace = s.trace ∧ (s.adopt).requests = s.requests ∧ (s.adopt).store = s.store ∧
    (s.adopt).port = s.port ∧ (s.adopt).notices = s.notices := by
  simp [State.adopt]

@[simp] theorem completeAdoption_frame (s : State) (k : EndKind) :
    (s.completeAdoption k).pending = s.pending ∧ (s.completeAdoption k).resetLow = s.resetLow ∧
    (s.completeAdoption k).run = s.run ∧ (s.completeAdoption k).lastClosed = s.lastClosed ∧
    (s.completeAdoption k).stage = s.stage ∧ (s.completeAdoption k).clock = s.clock ∧
    (s.completeAdoption k).period = s.period ∧ (s.completeAdoption k).clockSetting = s.clockSetting ∧
    (s.completeAdoption k).link = s.link ∧ (s.completeAdoption k).heads = s.heads ∧
    (s.completeAdoption k).channels = s.channels ∧ (s.completeAdoption k).calibrations = s.calibrations ∧
    (s.completeAdoption k).events = s.events ∧ (s.completeAdoption k).records = s.records ∧
    (s.completeAdoption k).trace = s.trace ∧ (s.completeAdoption k).port = s.port := by
  unfold State.completeAdoption; (try dsimp only); (repeat' split) <;> simp

@[simp] theorem closeChannels_frame (s : State) (b : Bool) (n : Nat) :
    (s.closeChannels b n).pending = s.pending ∧ (s.closeChannels b n).resetLow = s.resetLow ∧
    (s.closeChannels b n).run = s.run ∧ (s.closeChannels b n).lastClosed = s.lastClosed ∧
    (s.closeChannels b n).stage = s.stage ∧ (s.closeChannels b n).clock = s.clock ∧
    (s.closeChannels b n).period = s.period ∧ (s.closeChannels b n).clockSetting = s.clockSetting ∧
    (s.closeChannels b n).link = s.link ∧ (s.closeChannels b n).heads = s.heads ∧
    (s.closeChannels b n).calibrations = s.calibrations ∧ (s.closeChannels b n).live = s.live ∧
    (s.closeChannels b n).adoption = s.adoption ∧ (s.closeChannels b n).rules = s.rules ∧
    (s.closeChannels b n).events = s.events ∧ (s.closeChannels b n).trace = s.trace ∧
    (s.closeChannels b n).requests = s.requests ∧ (s.closeChannels b n).port = s.port := by
  unfold State.closeChannels
  exact ⟨foldl_keep State.pending _ (fun t x => by split <;> simp) _ _,
    foldl_keep State.resetLow _ (fun t x => by split <;> simp) _ _,
    foldl_keep State.run _ (fun t x => by split <;> simp) _ _,
    foldl_keep State.lastClosed _ (fun t x => by split <;> simp) _ _,
    foldl_keep State.stage _ (fun t x => by split <;> simp) _ _,
    foldl_keep State.clock _ (fun t x => by split <;> simp) _ _,
    foldl_keep State.period _ (fun t x => by split <;> simp) _ _,
    foldl_keep State.clockSetting _ (fun t x => by split <;> simp) _ _,
    foldl_keep State.link _ (fun t x => by split <;> simp) _ _,
    foldl_keep State.heads _ (fun t x => by split <;> simp) _ _,
    foldl_keep State.calibrations _ (fun t x => by split <;> simp) _ _,
    foldl_keep State.live _ (fun t x => by split <;> simp) _ _,
    foldl_keep State.adoption _ (fun t x => by split <;> simp) _ _,
    foldl_keep State.rules _ (fun t x => by split <;> simp) _ _,
    foldl_keep State.events _ (fun t x => by split <;> simp) _ _,
    foldl_keep State.trace _ (fun t x => by split <;> simp) _ _,
    foldl_keep State.requests _ (fun t x => by split <;> simp) _ _,
    foldl_keep State.port _ (fun t x => by split <;> simp) _ _⟩

@[simp] theorem endPeriod_frame (s : State) (k : EndKind) (n : Nat) (c : Clock) :
    (s.endPeriod k n c).pending = s.pending ∧ (s.endPeriod k n c).resetLow = s.resetLow ∧
    (s.endPeriod k n c).run = s.run ∧ (s.endPeriod k n c).lastClosed = s.lastClosed ∧
    (s.endPeriod k n c).stage = s.stage ∧ (s.endPeriod k n c).clock = s.clock ∧
    (s.endPeriod k n c).clockSetting = s.clockSetting ∧ (s.endPeriod k n c).link = s.link ∧
    (s.endPeriod k n c).heads = s.heads ∧ (s.endPeriod k n c).calibrations = s.calibrations ∧
    (s.endPeriod k n c).port = s.port := by
  unfold State.endPeriod; dsimp only; split <;> simp

@[simp] theorem beginPeriod_frame (s : State) (b : Bool) :
    (s.beginPeriod b).pending = s.pending ∧ (s.beginPeriod b).resetLow = s.resetLow ∧ (s.beginPeriod b).run = s.run ∧
    (s.beginPeriod b).lastClosed = s.lastClosed ∧ (s.beginPeriod b).stage = s.stage ∧
    (s.beginPeriod b).clock = s.clock ∧ (s.beginPeriod b).clockSetting = s.clockSetting ∧
    (s.beginPeriod b).link = s.link ∧ (s.beginPeriod b).heads = s.heads ∧
    (s.beginPeriod b).calibrations = s.calibrations ∧ (s.beginPeriod b).live = s.live ∧
    (s.beginPeriod b).adoption = s.adoption ∧ (s.beginPeriod b).rules = s.rules ∧
    (s.beginPeriod b).events = s.events ∧ (s.beginPeriod b).records = s.records ∧ (s.beginPeriod b).trace = s.trace ∧
    (s.beginPeriod b).requests = s.requests ∧ (s.beginPeriod b).store = s.store ∧ (s.beginPeriod b).port = s.port ∧
    (s.beginPeriod b).notices = s.notices := by
  simp [State.beginPeriod]

@[simp] theorem applySetting_frame (s : State) :
    (s.applySetting).pending = s.pending ∧ (s.applySetting).resetLow = s.resetLow ∧ (s.applySetting).run = s.run ∧
    (s.applySetting).lastClosed = s.lastClosed ∧ (s.applySetting).stage = s.stage ∧
    (s.applySetting).period = s.period ∧ (s.applySetting).link = s.link ∧ (s.applySetting).heads = s.heads ∧
    (s.applySetting).channels = s.channels ∧ (s.applySetting).calibrations = s.calibrations ∧
    (s.applySetting).live = s.live ∧ (s.applySetting).adoption = s.adoption ∧ (s.applySetting).rules = s.rules ∧
    (s.applySetting).events = s.events ∧ (s.applySetting).records = s.records ∧ (s.applySetting).trace = s.trace ∧
    (s.applySetting).port = s.port := by
  unfold State.applySetting; (try dsimp only); (repeat' split) <;> simp

@[simp] theorem replaceStep_frame (s : State) (x : ClockSetting) :
    (s.replaceStep x).pending = s.pending ∧ (s.replaceStep x).resetLow = s.resetLow ∧ (s.replaceStep x).run = s.run ∧
    (s.replaceStep x).lastClosed = s.lastClosed ∧ (s.replaceStep x).stage = s.stage ∧
    (s.replaceStep x).link = s.link ∧ (s.replaceStep x).heads = s.heads ∧
    (s.replaceStep x).calibrations = s.calibrations ∧ (s.replaceStep x).port = s.port := by
  simp [State.replaceStep]

/-! ## Link -/

@[simp] theorem endFrame_frame (s : State) (h : Fin 12) (cs : List Byte) (b : Bool) :
    (s.endFrame h cs b).pending = s.pending ∧ (s.endFrame h cs b).resetLow = s.resetLow ∧
    (s.endFrame h cs b).run = s.run ∧ (s.endFrame h cs b).lastClosed = s.lastClosed ∧
    (s.endFrame h cs b).stage = s.stage ∧ (s.endFrame h cs b).clock = s.clock ∧
    (s.endFrame h cs b).period = s.period ∧ (s.endFrame h cs b).clockSetting = s.clockSetting ∧
    (s.endFrame h cs b).channels = s.channels ∧ (s.endFrame h cs b).calibrations = s.calibrations ∧
    (s.endFrame h cs b).live = s.live ∧ (s.endFrame h cs b).adoption = s.adoption ∧
    (s.endFrame h cs b).rules = s.rules ∧ (s.endFrame h cs b).events = s.events ∧
    (s.endFrame h cs b).records = s.records ∧ (s.endFrame h cs b).trace = s.trace ∧
    (s.endFrame h cs b).requests = s.requests ∧ (s.endFrame h cs b).store = s.store ∧
    (s.endFrame h cs b).port = s.port ∧ (s.endFrame h cs b).notices = s.notices := by
  unfold State.endFrame; dsimp only; split <;> simp

@[simp] theorem endCollection_frame (s : State) :
    (s.endCollection).pending = s.pending ∧ (s.endCollection).resetLow = s.resetLow ∧ (s.endCollection).run = s.run ∧
    (s.endCollection).lastClosed = s.lastClosed ∧ (s.endCollection).stage = s.stage ∧
    (s.endCollection).clock = s.clock ∧ (s.endCollection).period = s.period ∧
    (s.endCollection).clockSetting = s.clockSetting ∧ (s.endCollection).channels = s.channels ∧
    (s.endCollection).calibrations = s.calibrations ∧ (s.endCollection).live = s.live ∧
    (s.endCollection).adoption = s.adoption ∧ (s.endCollection).rules = s.rules ∧
    (s.endCollection).events = s.events ∧ (s.endCollection).records = s.records ∧ (s.endCollection).trace = s.trace ∧
    (s.endCollection).requests = s.requests ∧ (s.endCollection).store = s.store ∧ (s.endCollection).port = s.port ∧
    (s.endCollection).notices = s.notices := by
  unfold State.endCollection; (repeat' split) <;> simp

@[simp] theorem receive_frame (s : State) (c : LinkChar) :
    (s.receive c).pending = s.pending ∧ (s.receive c).resetLow = s.resetLow ∧ (s.receive c).run = s.run ∧
    (s.receive c).lastClosed = s.lastClosed ∧ (s.receive c).stage = s.stage ∧ (s.receive c).clock = s.clock ∧
    (s.receive c).period = s.period ∧ (s.receive c).clockSetting = s.clockSetting ∧
    (s.receive c).channels = s.channels ∧ (s.receive c).calibrations = s.calibrations ∧ (s.receive c).live = s.live ∧
    (s.receive c).adoption = s.adoption ∧ (s.receive c).rules = s.rules ∧ (s.receive c).events = s.events ∧
    (s.receive c).records = s.records ∧ (s.receive c).trace = s.trace ∧ (s.receive c).requests = s.requests ∧
    (s.receive c).store = s.store ∧ (s.receive c).port = s.port ∧ (s.receive c).notices = s.notices := by
  unfold State.receive; (try dsimp only); (repeat' split) <;> simp

@[simp] theorem receiveAll_frame (s : State) (cs : List PairChar) :
    (s.receiveAll cs).pending = s.pending ∧ (s.receiveAll cs).resetLow = s.resetLow ∧ (s.receiveAll cs).run = s.run ∧
    (s.receiveAll cs).lastClosed = s.lastClosed ∧ (s.receiveAll cs).stage = s.stage ∧
    (s.receiveAll cs).clock = s.clock ∧ (s.receiveAll cs).period = s.period ∧
    (s.receiveAll cs).clockSetting = s.clockSetting ∧ (s.receiveAll cs).channels = s.channels ∧
    (s.receiveAll cs).calibrations = s.calibrations ∧ (s.receiveAll cs).live = s.live ∧
    (s.receiveAll cs).adoption = s.adoption ∧ (s.receiveAll cs).rules = s.rules ∧
    (s.receiveAll cs).events = s.events ∧ (s.receiveAll cs).records = s.records ∧ (s.receiveAll cs).trace = s.trace ∧
    (s.receiveAll cs).requests = s.requests ∧ (s.receiveAll cs).store = s.store ∧ (s.receiveAll cs).port = s.port ∧
    (s.receiveAll cs).notices = s.notices := by
  unfold State.receiveAll
  split
  · exact ⟨foldl_keep State.pending _ (fun t x => by simp) _ _,
    foldl_keep State.resetLow _ (fun t x => by simp) _ _,
    foldl_keep State.run _ (fun t x => by simp) _ _,
    foldl_keep State.lastClosed _ (fun t x => by simp) _ _,
    foldl_keep State.stage _ (fun t x => by simp) _ _,
    foldl_keep State.clock _ (fun t x => by simp) _ _,
    foldl_keep State.period _ (fun t x => by simp) _ _,
    foldl_keep State.clockSetting _ (fun t x => by simp) _ _,
    foldl_keep State.channels _ (fun t x => by simp) _ _,
    foldl_keep State.calibrations _ (fun t x => by simp) _ _,
    foldl_keep State.live _ (fun t x => by simp) _ _,
    foldl_keep State.adoption _ (fun t x => by simp) _ _,
    foldl_keep State.rules _ (fun t x => by simp) _ _,
    foldl_keep State.events _ (fun t x => by simp) _ _,
    foldl_keep State.records _ (fun t x => by simp) _ _,
    foldl_keep State.trace _ (fun t x => by simp) _ _,
    foldl_keep State.requests _ (fun t x => by simp) _ _,
    foldl_keep State.store _ (fun t x => by simp) _ _,
    foldl_keep State.port _ (fun t x => by simp) _ _,
    foldl_keep State.notices _ (fun t x => by simp) _ _⟩
  · simp

@[simp] theorem abandonTick_frame (s : State) :
    (s.abandonTick).pending = s.pending ∧ (s.abandonTick).resetLow = s.resetLow ∧ (s.abandonTick).run = s.run ∧
    (s.abandonTick).lastClosed = s.lastClosed ∧ (s.abandonTick).stage = .idle ∧ (s.abandonTick).clock = s.clock ∧
    (s.abandonTick).period = s.period ∧ (s.abandonTick).clockSetting = s.clockSetting ∧
    (s.abandonTick).heads = s.heads ∧ (s.abandonTick).channels = s.channels ∧
    (s.abandonTick).calibrations = s.calibrations ∧ (s.abandonTick).live = s.live ∧
    (s.abandonTick).adoption = s.adoption ∧ (s.abandonTick).rules = s.rules ∧ (s.abandonTick).events = s.events ∧
    (s.abandonTick).records = s.records ∧ (s.abandonTick).trace = s.trace ∧ (s.abandonTick).requests = s.requests ∧
    (s.abandonTick).store = s.store ∧ (s.abandonTick).port = s.port := by
  unfold State.abandonTick; dsimp only; split <;> simp

/-! ## Tick event -/

@[simp] theorem beginTick_frame (s : State) :
    (s.beginTick).pending = s.pending ∧ (s.beginTick).resetLow = s.resetLow ∧ (s.beginTick).run = s.run ∧
    (s.beginTick).lastClosed = s.lastClosed ∧ (s.beginTick).period = s.period ∧
    (s.beginTick).clockSetting = s.clockSetting ∧ (s.beginTick).channels = s.channels ∧
    (s.beginTick).calibrations = s.calibrations ∧ (s.beginTick).live = s.live ∧ (s.beginTick).adoption = s.adoption ∧
    (s.beginTick).rules = s.rules ∧ (s.beginTick).events = s.events ∧ (s.beginTick).records = s.records ∧
    (s.beginTick).trace = s.trace ∧ (s.beginTick).requests = s.requests ∧ (s.beginTick).store = s.store ∧
    (s.beginTick).port = s.port ∧ (s.beginTick).notices = s.notices := by
  unfold State.beginTick; (try dsimp only); (repeat' split) <;> simp

@[simp] theorem closeHead_frame (s : State) (h : Fin 12) :
    (s.closeHead h).pending = s.pending ∧ (s.closeHead h).resetLow = s.resetLow ∧ (s.closeHead h).run = s.run ∧
    (s.closeHead h).lastClosed = s.lastClosed ∧ (s.closeHead h).clock = s.clock ∧ (s.closeHead h).period = s.period ∧
    (s.closeHead h).clockSetting = s.clockSetting ∧ (s.closeHead h).live = s.live ∧
    (s.closeHead h).adoption = s.adoption ∧ (s.closeHead h).rules = s.rules ∧ (s.closeHead h).events = s.events ∧
    (s.closeHead h).records = s.records ∧ (s.closeHead h).port = s.port := by
  unfold State.closeHead; (try dsimp only); (repeat' split) <;> simp

@[simp] theorem closeTick_frame (s : State) :
    (s.closeTick).pending = s.pending ∧ (s.closeTick).resetLow = s.resetLow ∧ (s.closeTick).run = s.run ∧
    (s.closeTick).lastClosed = s.lastClosed ∧ (s.closeTick).clock = s.clock ∧ (s.closeTick).period = s.period ∧
    (s.closeTick).clockSetting = s.clockSetting ∧ (s.closeTick).live = s.live ∧ (s.closeTick).adoption = s.adoption ∧
    (s.closeTick).rules = s.rules ∧ (s.closeTick).events = s.events ∧ (s.closeTick).records = s.records ∧
    (s.closeTick).port = s.port := by
  unfold State.closeTick
  split
  · simp only [takeSamples_frame]
    exact ⟨foldl_keep State.pending _ (fun t x => by simp) _ _,
    foldl_keep State.resetLow _ (fun t x => by simp) _ _,
    foldl_keep State.run _ (fun t x => by simp) _ _,
    foldl_keep State.lastClosed _ (fun t x => by simp) _ _,
    foldl_keep State.clock _ (fun t x => by simp) _ _,
    foldl_keep State.period _ (fun t x => by simp) _ _,
    foldl_keep State.clockSetting _ (fun t x => by simp) _ _,
    foldl_keep State.live _ (fun t x => by simp) _ _,
    foldl_keep State.adoption _ (fun t x => by simp) _ _,
    foldl_keep State.rules _ (fun t x => by simp) _ _,
    foldl_keep State.events _ (fun t x => by simp) _ _,
    foldl_keep State.records _ (fun t x => by simp) _ _,
    foldl_keep State.port _ (fun t x => by simp) _ _⟩
  · simp

@[simp] theorem captureStage_frame (s : State) :
    (s.captureStage).pending = s.pending ∧ (s.captureStage).resetLow = s.resetLow ∧ (s.captureStage).run = s.run ∧
    (s.captureStage).lastClosed = s.lastClosed ∧ (s.captureStage).clock = s.clock ∧
    (s.captureStage).period = s.period ∧ (s.captureStage).clockSetting = s.clockSetting ∧
    (s.captureStage).link = s.link ∧ (s.captureStage).heads = s.heads ∧ (s.captureStage).channels = s.channels ∧
    (s.captureStage).calibrations = s.calibrations ∧ (s.captureStage).live = s.live ∧
    (s.captureStage).adoption = s.adoption ∧ (s.captureStage).rules = s.rules ∧ (s.captureStage).events = s.events ∧
    (s.captureStage).records = s.records ∧ (s.captureStage).requests = s.requests ∧
    (s.captureStage).port = s.port := by
  unfold State.captureStage; (try dsimp only); (repeat' split) <;> simp

@[simp] theorem examineNote_frame (s : State) :
    (s.examineNote).pending = s.pending ∧ (s.examineNote).resetLow = s.resetLow ∧ (s.examineNote).run = s.run ∧
    (s.examineNote).lastClosed = s.lastClosed ∧ (s.examineNote).stage = s.stage ∧ (s.examineNote).clock = s.clock ∧
    (s.examineNote).period = s.period ∧ (s.examineNote).clockSetting = s.clockSetting ∧
    (s.examineNote).heads = s.heads ∧ (s.examineNote).channels = s.channels ∧
    (s.examineNote).calibrations = s.calibrations ∧ (s.examineNote).live = s.live ∧
    (s.examineNote).adoption = s.adoption ∧ (s.examineNote).rules = s.rules ∧ (s.examineNote).events = s.events ∧
    (s.examineNote).records = s.records ∧ (s.examineNote).trace = s.trace ∧ (s.examineNote).requests = s.requests ∧
    (s.examineNote).store = s.store ∧ (s.examineNote).port = s.port := by
  unfold State.examineNote; (try dsimp only); (repeat' split) <;> simp

@[simp] theorem closeSecond_frame (s : State) :
    (s.closeSecond).pending = s.pending ∧ (s.closeSecond).resetLow = s.resetLow ∧ (s.closeSecond).run = s.run ∧
    (s.closeSecond).stage = s.stage ∧ (s.closeSecond).clock = s.clock ∧ (s.closeSecond).period = s.period ∧
    (s.closeSecond).clockSetting = s.clockSetting ∧ (s.closeSecond).heads = s.heads ∧
    (s.closeSecond).calibrations = s.calibrations ∧ (s.closeSecond).live = s.live ∧
    (s.closeSecond).adoption = s.adoption ∧ (s.closeSecond).records = s.records ∧
    (s.closeSecond).requests = s.requests ∧ (s.closeSecond).port = s.port := by
  simp [State.closeSecond]

@[simp] theorem secondStage_frame (s : State) :
    (s.secondStage).pending = s.pending ∧ (s.secondStage).resetLow = s.resetLow ∧ (s.secondStage).run = s.run ∧
    (s.secondStage).heads = s.heads ∧ (s.secondStage).calibrations = s.calibrations ∧
    (s.secondStage).port = s.port := by
  unfold State.secondStage; (try dsimp only); (repeat' split) <;> simp

@[simp] theorem periodStage_frame (s : State) :
    (s.periodStage).pending = s.pending ∧ (s.periodStage).resetLow = s.resetLow ∧ (s.periodStage).run = s.run ∧
    (s.periodStage).lastClosed = s.lastClosed ∧ (s.periodStage).clockSetting = s.clockSetting ∧
    (s.periodStage).link = s.link ∧ (s.periodStage).heads = s.heads ∧ (s.periodStage).calibrations = s.calibrations ∧
    (s.periodStage).port = s.port := by
  unfold State.periodStage; (try dsimp only); (repeat' split) <;> simp

@[simp] theorem markStage_frame (s : State) :
    (s.markStage).pending = s.pending ∧ (s.markStage).resetLow = s.resetLow ∧ (s.markStage).run = s.run ∧
    (s.markStage).lastClosed = s.lastClosed ∧ (s.markStage).clock = s.clock ∧ (s.markStage).period = s.period ∧
    (s.markStage).clockSetting = s.clockSetting ∧ (s.markStage).live = s.live ∧ (s.markStage).adoption = s.adoption ∧
    (s.markStage).rules = s.rules ∧ (s.markStage).events = s.events ∧ (s.markStage).port = s.port := by
  unfold State.markStage
  split
  · dsimp only
    exact ⟨foldl_keep State.pending _ (fun t x => by simp) _ _,
    foldl_keep State.resetLow _ (fun t x => by simp) _ _,
    foldl_keep State.run _ (fun t x => by simp) _ _,
    foldl_keep State.lastClosed _ (fun t x => by simp) _ _,
    foldl_keep State.clock _ (fun t x => by simp) _ _,
    foldl_keep State.period _ (fun t x => by simp) _ _,
    foldl_keep State.clockSetting _ (fun t x => by simp) _ _,
    foldl_keep State.live _ (fun t x => by simp) _ _,
    foldl_keep State.adoption _ (fun t x => by simp) _ _,
    foldl_keep State.rules _ (fun t x => by simp) _ _,
    foldl_keep State.events _ (fun t x => by simp) _ _,
    foldl_keep State.port _ (fun t x => by simp) _ _⟩
  · simp

@[simp] theorem calibrationStage_frame (s : State) :
    (s.calibrationStage).pending = s.pending ∧ (s.calibrationStage).resetLow = s.resetLow ∧
    (s.calibrationStage).run = s.run ∧ (s.calibrationStage).lastClosed = s.lastClosed ∧
    (s.calibrationStage).clock = s.clock ∧ (s.calibrationStage).period = s.period ∧
    (s.calibrationStage).clockSetting = s.clockSetting ∧ (s.calibrationStage).link = s.link ∧
    (s.calibrationStage).live = s.live ∧ (s.calibrationStage).adoption = s.adoption ∧
    (s.calibrationStage).rules = s.rules ∧ (s.calibrationStage).events = s.events ∧
    (s.calibrationStage).records = s.records ∧ (s.calibrationStage).trace = s.trace ∧
    (s.calibrationStage).port = s.port := by
  unfold State.calibrationStage
  split
  · dsimp only
    exact ⟨foldl_keep State.pending _ (fun t x => by simp) _ _,
    foldl_keep State.resetLow _ (fun t x => by simp) _ _,
    foldl_keep State.run _ (fun t x => by simp) _ _,
    foldl_keep State.lastClosed _ (fun t x => by simp) _ _,
    foldl_keep State.clock _ (fun t x => by simp) _ _,
    foldl_keep State.period _ (fun t x => by simp) _ _,
    foldl_keep State.clockSetting _ (fun t x => by simp) _ _,
    foldl_keep State.link _ (fun t x => by simp) _ _,
    foldl_keep State.live _ (fun t x => by simp) _ _,
    foldl_keep State.adoption _ (fun t x => by simp) _ _,
    foldl_keep State.rules _ (fun t x => by simp) _ _,
    foldl_keep State.events _ (fun t x => by simp) _ _,
    foldl_keep State.records _ (fun t x => by simp) _ _,
    foldl_keep State.trace _ (fun t x => by simp) _ _,
    foldl_keep State.port _ (fun t x => by simp) _ _⟩
  · simp

@[simp] theorem finishClose_frame (s : State) :
    (s.finishClose).pending = s.pending ∧ (s.finishClose).resetLow = s.resetLow ∧ (s.finishClose).run = s.run ∧
    (s.finishClose).port = s.port := by
  simp [State.finishClose]

@[simp] theorem finishBeforeMark_frame (s : State) :
    (s.finishBeforeMark).pending = s.pending ∧ (s.finishBeforeMark).resetLow = s.resetLow ∧
    (s.finishBeforeMark).run = s.run ∧ (s.finishBeforeMark).port = s.port := by
  simp [State.finishBeforeMark]

@[simp] theorem finishTick_frame (s : State) :
    (s.finishTick).pending = s.pending ∧ (s.finishTick).resetLow = s.resetLow ∧ (s.finishTick).run = s.run ∧
    (s.finishTick).port = s.port := by
  simp [State.finishTick]

/-! ## Port -/

@[simp] theorem writeWadr_frame (s : State) (a0 : Bool) (d : Word) :
    (s.writeWadr a0 d).pending = s.pending ∧ (s.writeWadr a0 d).resetLow = s.resetLow ∧
    (s.writeWadr a0 d).run = s.run ∧ (s.writeWadr a0 d).lastClosed = s.lastClosed ∧
    (s.writeWadr a0 d).stage = s.stage ∧ (s.writeWadr a0 d).clock = s.clock ∧ (s.writeWadr a0 d).period = s.period ∧
    (s.writeWadr a0 d).clockSetting = s.clockSetting ∧ (s.writeWadr a0 d).link = s.link ∧
    (s.writeWadr a0 d).heads = s.heads ∧ (s.writeWadr a0 d).channels = s.channels ∧
    (s.writeWadr a0 d).calibrations = s.calibrations ∧ (s.writeWadr a0 d).live = s.live ∧
    (s.writeWadr a0 d).adoption = s.adoption ∧ (s.writeWadr a0 d).rules = s.rules ∧
    (s.writeWadr a0 d).events = s.events ∧ (s.writeWadr a0 d).records = s.records ∧
    (s.writeWadr a0 d).trace = s.trace ∧ (s.writeWadr a0 d).requests = s.requests ∧
    (s.writeWadr a0 d).store = s.store ∧ (s.writeWadr a0 d).notices = s.notices := by
  simp [State.writeWadr]

@[simp] theorem writeControl_frame (s : State) (a0 : Bool) (d : Word) :
    (s.writeControl a0 d).pending = s.pending ∧ (s.writeControl a0 d).resetLow = s.resetLow ∧
    (s.writeControl a0 d).run = s.run ∧ (s.writeControl a0 d).lastClosed = s.lastClosed ∧
    (s.writeControl a0 d).stage = s.stage ∧ (s.writeControl a0 d).clock = s.clock ∧
    (s.writeControl a0 d).period = s.period ∧ (s.writeControl a0 d).clockSetting = s.clockSetting ∧
    (s.writeControl a0 d).link = s.link ∧ (s.writeControl a0 d).heads = s.heads ∧
    (s.writeControl a0 d).channels = s.channels ∧ (s.writeControl a0 d).calibrations = s.calibrations ∧
    (s.writeControl a0 d).live = s.live ∧ (s.writeControl a0 d).adoption = s.adoption ∧
    (s.writeControl a0 d).rules = s.rules ∧ (s.writeControl a0 d).events = s.events ∧
    (s.writeControl a0 d).records = s.records ∧ (s.writeControl a0 d).trace = s.trace ∧
    (s.writeControl a0 d).requests = s.requests ∧ (s.writeControl a0 d).store = s.store := by
  simp [State.writeControl]

@[simp] theorem writeNtc_frame (s : State) (a0 : Bool) (d : Word) :
    (s.writeNtc a0 d).pending = s.pending ∧ (s.writeNtc a0 d).resetLow = s.resetLow ∧ (s.writeNtc a0 d).run = s.run ∧
    (s.writeNtc a0 d).lastClosed = s.lastClosed ∧ (s.writeNtc a0 d).stage = s.stage ∧
    (s.writeNtc a0 d).clock = s.clock ∧ (s.writeNtc a0 d).period = s.period ∧
    (s.writeNtc a0 d).clockSetting = s.clockSetting ∧ (s.writeNtc a0 d).link = s.link ∧
    (s.writeNtc a0 d).heads = s.heads ∧ (s.writeNtc a0 d).channels = s.channels ∧
    (s.writeNtc a0 d).calibrations = s.calibrations ∧ (s.writeNtc a0 d).live = s.live ∧
    (s.writeNtc a0 d).adoption = s.adoption ∧ (s.writeNtc a0 d).rules = s.rules ∧
    (s.writeNtc a0 d).events = s.events ∧ (s.writeNtc a0 d).records = s.records ∧ (s.writeNtc a0 d).trace = s.trace ∧
    (s.writeNtc a0 d).requests = s.requests ∧ (s.writeNtc a0 d).store = s.store ∧
    (s.writeNtc a0 d).port = s.port := by
  unfold State.writeNtc; (try dsimp only); (repeat' split) <;> simp

@[simp] theorem releaseUnlessPeek_frame (s : State) (r : Option Release) :
    (s.releaseUnlessPeek r).pending = s.pending ∧ (s.releaseUnlessPeek r).resetLow = s.resetLow ∧
    (s.releaseUnlessPeek r).run = s.run ∧ (s.releaseUnlessPeek r).lastClosed = s.lastClosed ∧
    (s.releaseUnlessPeek r).stage = s.stage ∧ (s.releaseUnlessPeek r).clock = s.clock ∧
    (s.releaseUnlessPeek r).period = s.period ∧ (s.releaseUnlessPeek r).clockSetting = s.clockSetting ∧
    (s.releaseUnlessPeek r).link = s.link ∧ (s.releaseUnlessPeek r).heads = s.heads ∧
    (s.releaseUnlessPeek r).channels = s.channels ∧ (s.releaseUnlessPeek r).calibrations = s.calibrations ∧
    (s.releaseUnlessPeek r).live = s.live ∧ (s.releaseUnlessPeek r).adoption = s.adoption ∧
    (s.releaseUnlessPeek r).rules = s.rules ∧ (s.releaseUnlessPeek r).store = s.store ∧
    (s.releaseUnlessPeek r).port = s.port := by
  unfold State.releaseUnlessPeek; (repeat' split) <;> simp

@[simp] theorem readWord_frame (s : State) (a : Nat) :
    (s.readWord a).pending = s.pending ∧ (s.readWord a).resetLow = s.resetLow ∧ (s.readWord a).run = s.run ∧
    (s.readWord a).lastClosed = s.lastClosed ∧ (s.readWord a).stage = s.stage ∧ (s.readWord a).clock = s.clock ∧
    (s.readWord a).period = s.period ∧ (s.readWord a).clockSetting = s.clockSetting ∧ (s.readWord a).link = s.link ∧
    (s.readWord a).heads = s.heads ∧ (s.readWord a).channels = s.channels ∧
    (s.readWord a).calibrations = s.calibrations ∧ (s.readWord a).live = s.live ∧
    (s.readWord a).adoption = s.adoption ∧ (s.readWord a).rules = s.rules ∧ (s.readWord a).store = s.store := by
  simp [State.readWord]

@[simp] theorem readEven_frame (s : State) (a : Nat) :
    (s.readEven a).pending = s.pending ∧ (s.readEven a).resetLow = s.resetLow ∧ (s.readEven a).run = s.run ∧
    (s.readEven a).lastClosed = s.lastClosed ∧ (s.readEven a).stage = s.stage ∧ (s.readEven a).clock = s.clock ∧
    (s.readEven a).period = s.period ∧ (s.readEven a).clockSetting = s.clockSetting ∧ (s.readEven a).link = s.link ∧
    (s.readEven a).heads = s.heads ∧ (s.readEven a).channels = s.channels ∧
    (s.readEven a).calibrations = s.calibrations ∧ (s.readEven a).live = s.live ∧
    (s.readEven a).adoption = s.adoption ∧ (s.readEven a).rules = s.rules ∧ (s.readEven a).events = s.events ∧
    (s.readEven a).records = s.records ∧ (s.readEven a).trace = s.trace ∧ (s.readEven a).requests = s.requests ∧
    (s.readEven a).store = s.store ∧ (s.readEven a).notices = s.notices := by
  simp [State.readEven]

@[simp] theorem readOdd_frame (s : State) (a : Nat) :
    (s.readOdd a).pending = s.pending ∧ (s.readOdd a).resetLow = s.resetLow ∧ (s.readOdd a).run = s.run ∧
    (s.readOdd a).lastClosed = s.lastClosed ∧ (s.readOdd a).stage = s.stage ∧ (s.readOdd a).clock = s.clock ∧
    (s.readOdd a).period = s.period ∧ (s.readOdd a).clockSetting = s.clockSetting ∧ (s.readOdd a).link = s.link ∧
    (s.readOdd a).heads = s.heads ∧ (s.readOdd a).channels = s.channels ∧
    (s.readOdd a).calibrations = s.calibrations ∧ (s.readOdd a).live = s.live ∧ (s.readOdd a).adoption = s.adoption ∧
    (s.readOdd a).rules = s.rules ∧ (s.readOdd a).store = s.store := by
  simp [State.readOdd]

@[simp] theorem readAt_frame (s : State) (a : Nat) :
    (s.readAt a).pending = s.pending ∧ (s.readAt a).resetLow = s.resetLow ∧ (s.readAt a).run = s.run ∧
    (s.readAt a).lastClosed = s.lastClosed ∧ (s.readAt a).stage = s.stage ∧ (s.readAt a).clock = s.clock ∧
    (s.readAt a).period = s.period ∧ (s.readAt a).clockSetting = s.clockSetting ∧ (s.readAt a).link = s.link ∧
    (s.readAt a).heads = s.heads ∧ (s.readAt a).channels = s.channels ∧ (s.readAt a).calibrations = s.calibrations ∧
    (s.readAt a).live = s.live ∧ (s.readAt a).adoption = s.adoption ∧ (s.readAt a).rules = s.rules ∧
    (s.readAt a).store = s.store := by
  unfold State.readAt; (repeat' split) <;> simp

@[simp] theorem dropWrite_frame (s : State) (a : Nat) :
    (s.dropWrite a).pending = s.pending ∧ (s.dropWrite a).resetLow = s.resetLow ∧ (s.dropWrite a).run = s.run ∧
    (s.dropWrite a).lastClosed = s.lastClosed ∧ (s.dropWrite a).stage = s.stage ∧ (s.dropWrite a).clock = s.clock ∧
    (s.dropWrite a).period = s.period ∧ (s.dropWrite a).clockSetting = s.clockSetting ∧
    (s.dropWrite a).link = s.link ∧ (s.dropWrite a).heads = s.heads ∧ (s.dropWrite a).channels = s.channels ∧
    (s.dropWrite a).calibrations = s.calibrations ∧ (s.dropWrite a).live = s.live ∧
    (s.dropWrite a).adoption = s.adoption ∧ (s.dropWrite a).rules = s.rules ∧ (s.dropWrite a).events = s.events ∧
    (s.dropWrite a).records = s.records ∧ (s.dropWrite a).trace = s.trace ∧ (s.dropWrite a).requests = s.requests ∧
    (s.dropWrite a).store = s.store := by
  simp [State.dropWrite]

@[simp] theorem mispostWrite_frame (s : State) :
    (s.mispostWrite).pending = s.pending ∧ (s.mispostWrite).resetLow = s.resetLow ∧ (s.mispostWrite).run = s.run ∧
    (s.mispostWrite).lastClosed = s.lastClosed ∧ (s.mispostWrite).stage = s.stage ∧ (s.mispostWrite).clock = s.clock ∧
    (s.mispostWrite).period = s.period ∧ (s.mispostWrite).clockSetting = s.clockSetting ∧
    (s.mispostWrite).link = s.link ∧ (s.mispostWrite).heads = s.heads ∧ (s.mispostWrite).channels = s.channels ∧
    (s.mispostWrite).calibrations = s.calibrations ∧ (s.mispostWrite).live = s.live ∧
    (s.mispostWrite).adoption = s.adoption ∧ (s.mispostWrite).rules = s.rules ∧ (s.mispostWrite).events = s.events ∧
    (s.mispostWrite).records = s.records ∧ (s.mispostWrite).trace = s.trace ∧ (s.mispostWrite).requests = s.requests ∧
    (s.mispostWrite).store = s.store := by
  simp [State.mispostWrite]

@[simp] theorem postRequest_frame (s : State) (n : Fin 8) (v : Word) :
    (s.postRequest n v).pending = s.pending ∧ (s.postRequest n v).resetLow = s.resetLow ∧
    (s.postRequest n v).run = s.run ∧ (s.postRequest n v).lastClosed = s.lastClosed ∧
    (s.postRequest n v).stage = s.stage ∧ (s.postRequest n v).clock = s.clock ∧
    (s.postRequest n v).period = s.period ∧ (s.postRequest n v).clockSetting = s.clockSetting ∧
    (s.postRequest n v).link = s.link ∧ (s.postRequest n v).heads = s.heads ∧
    (s.postRequest n v).channels = s.channels ∧ (s.postRequest n v).calibrations = s.calibrations ∧
    (s.postRequest n v).live = s.live ∧ (s.postRequest n v).adoption = s.adoption ∧
    (s.postRequest n v).rules = s.rules ∧ (s.postRequest n v).events = s.events ∧
    (s.postRequest n v).records = s.records ∧ (s.postRequest n v).trace = s.trace ∧
    (s.postRequest n v).store = s.store ∧ (s.postRequest n v).port = s.port ∧
    (s.postRequest n v).notices = s.notices := by
  simp [State.postRequest]

@[simp] theorem writeWordAt_frame (s : State) (a : Nat) (v : Word) :
    (s.writeWordAt a v).pending = s.pending ∧ (s.writeWordAt a v).resetLow = s.resetLow ∧
    (s.writeWordAt a v).run = s.run ∧ (s.writeWordAt a v).lastClosed = s.lastClosed ∧
    (s.writeWordAt a v).stage = s.stage ∧ (s.writeWordAt a v).clock = s.clock ∧
    (s.writeWordAt a v).period = s.period ∧ (s.writeWordAt a v).clockSetting = s.clockSetting ∧
    (s.writeWordAt a v).link = s.link ∧ (s.writeWordAt a v).heads = s.heads ∧
    (s.writeWordAt a v).channels = s.channels ∧ (s.writeWordAt a v).calibrations = s.calibrations ∧
    (s.writeWordAt a v).live = s.live ∧ (s.writeWordAt a v).adoption = s.adoption ∧
    (s.writeWordAt a v).rules = s.rules ∧ (s.writeWordAt a v).events = s.events ∧
    (s.writeWordAt a v).records = s.records ∧ (s.writeWordAt a v).trace = s.trace := by
  unfold State.writeWordAt; (repeat' split) <;> simp

@[simp] theorem writeAt_frame (s : State) (a : Nat) (d : Word) :
    (s.writeAt a d).pending = s.pending ∧ (s.writeAt a d).resetLow = s.resetLow ∧ (s.writeAt a d).run = s.run ∧
    (s.writeAt a d).lastClosed = s.lastClosed ∧ (s.writeAt a d).stage = s.stage ∧ (s.writeAt a d).clock = s.clock ∧
    (s.writeAt a d).period = s.period ∧ (s.writeAt a d).clockSetting = s.clockSetting ∧
    (s.writeAt a d).link = s.link ∧ (s.writeAt a d).heads = s.heads ∧ (s.writeAt a d).channels = s.channels ∧
    (s.writeAt a d).calibrations = s.calibrations ∧ (s.writeAt a d).live = s.live ∧
    (s.writeAt a d).adoption = s.adoption ∧ (s.writeAt a d).rules = s.rules ∧ (s.writeAt a d).events = s.events ∧
    (s.writeAt a d).records = s.records ∧ (s.writeAt a d).trace = s.trace := by
  unfold State.writeAt; (try dsimp only); (repeat' split) <;> simp

@[simp] theorem wdatRead_frame (s : State) :
    (s.wdatRead).pending = s.pending ∧ (s.wdatRead).resetLow = s.resetLow ∧ (s.wdatRead).run = s.run ∧
    (s.wdatRead).lastClosed = s.lastClosed ∧ (s.wdatRead).stage = s.stage ∧ (s.wdatRead).clock = s.clock ∧
    (s.wdatRead).period = s.period ∧ (s.wdatRead).clockSetting = s.clockSetting ∧ (s.wdatRead).link = s.link ∧
    (s.wdatRead).heads = s.heads ∧ (s.wdatRead).channels = s.channels ∧ (s.wdatRead).calibrations = s.calibrations ∧
    (s.wdatRead).live = s.live ∧ (s.wdatRead).adoption = s.adoption ∧ (s.wdatRead).rules = s.rules ∧
    (s.wdatRead).store = s.store := by
  unfold State.wdatRead; (repeat' split) <;> simp

@[simp] theorem wdatWrite_frame (s : State) (d : Word) :
    (s.wdatWrite d).pending = s.pending ∧ (s.wdatWrite d).resetLow = s.resetLow ∧ (s.wdatWrite d).run = s.run ∧
    (s.wdatWrite d).lastClosed = s.lastClosed ∧ (s.wdatWrite d).stage = s.stage ∧ (s.wdatWrite d).clock = s.clock ∧
    (s.wdatWrite d).period = s.period ∧ (s.wdatWrite d).clockSetting = s.clockSetting ∧
    (s.wdatWrite d).link = s.link ∧ (s.wdatWrite d).heads = s.heads ∧ (s.wdatWrite d).channels = s.channels ∧
    (s.wdatWrite d).calibrations = s.calibrations ∧ (s.wdatWrite d).live = s.live ∧
    (s.wdatWrite d).adoption = s.adoption ∧ (s.wdatWrite d).rules = s.rules ∧ (s.wdatWrite d).events = s.events ∧
    (s.wdatWrite d).records = s.records ∧ (s.wdatWrite d).trace = s.trace := by
  unfold State.wdatWrite; (repeat' split) <;> simp

end Sys2Proof.Machine
end

