-- ==== Sys2Proof/Laws/Memory.lean ====
section
/-! SUPPORT. The common store as a memory: what is read after a write, what a write leaves alone, and that every operation
keeps the canonical form. -/

namespace Sys2Proof.Machine

open Sys2Proof

/-! ## Reading after one write -/

theorem read_insertCell (c : Host.Cell) (m : Mem) (a : Nat) (h : ∀ d ∈ m, d.1 ≠ c.1) :
    (Mem.insertCell c m).read a = if c.1 = a then c.2 else m.read a := by
  induction m with
  | nil => rfl
  | cons d m ih =>
    obtain ⟨k, v⟩ := d
    have hk : k ≠ c.1 := h (k, v) (by simp)
    have ih := ih (fun d hd => h d (by simp [hd]))
    unfold Mem.insertCell
    split
    · rfl
    · by_cases ha : k = a
      · subst ha
        simp [Mem.read, Ne.symm hk]
      · simp [Mem.read, ha, ih]

theorem read_erase (m : Mem) (a b : Nat) : (m.erase a).read b = if a = b then 0 else m.read b := by
  induction m with
  | nil => simp [Mem.erase, Mem.read]
  | cons d m ih =>
    obtain ⟨k, v⟩ := d
    simp only [Mem.erase, List.filter_cons] at ih ⊢
    by_cases hk : k = a
    · subst hk
      by_cases hb : k = b <;> simp_all [Mem.read]
    · by_cases hb : k = b
      · subst hb
        simp [Mem.read, hk, Ne.symm hk]
      · simpa [Mem.read, hk, hb] using ih

theorem mem_erase_ne (m : Mem) (a : Nat) (d : Host.Cell) (h : d ∈ m.erase a) : d.1 ≠ a := by
  simpa using (List.mem_filter.mp h).2

/-- A byte reads as it was last written. -/
@[simp] theorem read_write_same (m : Mem) (a : Nat) (v : Byte) (h : a < Config.storeBytes) : (m.write a v).read a = v := by
  unfold Mem.write
  rw [if_pos h]
  split
  · rename_i hv; simp [read_erase, hv]
  · rw [read_insertCell _ _ _ (fun d hd => mem_erase_ne m a d hd)]; simp

/-- A write leaves every other byte alone. -/
theorem read_write_ne (m : Mem) (a b : Nat) (v : Byte) (h : a ≠ b) : (m.write a v).read b = m.read b := by
  unfold Mem.write
  split
  · split
    · simp [read_erase, h]
    · rw [read_insertCell _ _ _ (fun d hd => mem_erase_ne m a d hd)]; simp [read_erase, h]
  · rfl

/-! ## Words and runs of words -/

theorem read_writeWord_outside (m : Mem) (a b : Nat) (w : Word) (h : b < a ∨ a + 2 ≤ b) :
    (m.writeWord a w).read b = m.read b := by
  unfold Mem.writeWord
  rw [read_write_ne _ _ _ _ (by omega), read_write_ne _ _ _ _ (by omega)]

theorem read_writeWord_low (m : Mem) (a : Nat) (w : Word) (h : a < Config.storeBytes) :
    (m.writeWord a w).read a = w.setWidth 8 := by
  unfold Mem.writeWord
  rw [read_write_ne _ _ _ _ (by omega), read_write_same _ _ _ h]

theorem read_writeWord_high (m : Mem) (a : Nat) (w : Word) (h : a + 1 < Config.storeBytes) :
    (m.writeWord a w).read (a + 1) = (w >>> 8).setWidth 8 := by
  unfold Mem.writeWord
  rw [read_write_same _ _ _ h]

theorem word_of_halves (w : Word) : ((w >>> 8).setWidth 8 ++ w.setWidth 8 : Word) = w := by
  ext i hi
  simp only [BitVec.getElem_append, BitVec.getElem_setWidth, BitVec.getLsbD_ushiftRight]
  split
  · simp [BitVec.getLsbD_eq_getElem, hi]
  · rw [show 8 + (i - 8) = i by omega]; simp [BitVec.getLsbD_eq_getElem, hi]

/-- A word reads as it was last written. -/
@[simp] theorem readWord_writeWord_same (m : Mem) (a : Nat) (w : Word) (h : a + 1 < Config.storeBytes) :
    (m.writeWord a w).readWord a = w := by
  unfold Mem.readWord
  rw [read_writeWord_high _ _ _ h, read_writeWord_low _ _ _ (by omega), word_of_halves]

/-- A run of words leaves every byte outside it alone. -/
theorem read_writeWords_outside (m : Mem) (a b : Nat) (ws : List Word) (h : b < a ∨ a + 2 * ws.length ≤ b) :
    (m.writeWords a ws).read b = m.read b := by
  induction ws generalizing m a with
  | nil => rfl
  | cons w ws ih =>
    simp only [List.length_cons] at h
    unfold Mem.writeWords
    rw [ih _ _ (by omega), read_writeWord_outside _ _ _ _ (by omega)]

theorem readWord_writeWords_outside (m : Mem) (a b : Nat) (ws : List Word) (h : b + 2 ≤ a ∨ a + 2 * ws.length ≤ b) :
    (m.writeWords a ws).readWord b = m.readWord b := by
  unfold Mem.readWord
  rw [read_writeWords_outside _ _ _ _ (by omega), read_writeWords_outside _ _ _ _ (by omega)]

/-- A run of words reads back word for word. -/
theorem readWord_writeWords (m : Mem) (a i : Nat) (ws : List Word) (hi : i < ws.length)
    (h : a + 2 * ws.length ≤ Config.storeBytes) : (m.writeWords a ws).readWord (a + 2 * i) = ws[i] := by
  induction ws generalizing m a i with
  | nil => simp at hi
  | cons w ws ih =>
    simp only [List.length_cons] at h hi
    unfold Mem.writeWords
    cases i with
    | zero =>
      rw [readWord_writeWords_outside _ _ _ _ (by omega)]
      simpa using readWord_writeWord_same m a w (by omega)
    | succ i =>
      have := ih (m.writeWord a w) (a + 2) i (by omega) (by omega)
      rw [show a + 2 * (i + 1) = a + 2 + 2 * i by omega, this]
      rfl

/-- Clearing keeps what `keep` admits and leaves 0 elsewhere. -/
theorem read_restrict (m : Mem) (keep : Nat → Bool) (a : Nat) :
    (m.restrict keep).read a = if keep a then m.read a else 0 := by
  induction m with
  | nil => simp [Mem.restrict, Mem.read]
  | cons d m ih =>
    obtain ⟨k, v⟩ := d
    simp only [Mem.restrict, List.filter_cons] at ih ⊢
    by_cases hk : keep k
    · by_cases ha : k = a
      · subst ha; simp [Mem.read, hk]
      · simp [Mem.read, hk, ha, ih]
    · by_cases ha : k = a
      · subst ha; simpa [Mem.read, hk] using ih
      · simp [Mem.read, hk, ha, ih]

/-! ## The canonical form -/

theorem wf_iff (m : Mem) :
    m.wf = true ↔ m.Pairwise (fun c d => c.1 < d.1) ∧ ∀ c ∈ m, c.1 < Config.storeBytes ∧ c.2 ≠ 0 := by
  simp [Mem.wf]

theorem wf_filter (m : Mem) (p : Host.Cell → Bool) (h : m.wf = true) : Mem.wf (m.filter p) = true := by
  rw [wf_iff] at h ⊢
  exact ⟨h.1.filter p, fun c hc => h.2 c (List.mem_of_mem_filter hc)⟩

theorem wf_erase (m : Mem) (a : Nat) (h : m.wf = true) : (m.erase a).wf = true := wf_filter m _ h

theorem wf_restrict (m : Mem) (keep : Nat → Bool) (h : m.wf = true) : (m.restrict keep).wf = true := wf_filter m _ h

theorem mem_insertCell (c d : Host.Cell) (m : Mem) (h : d ∈ Mem.insertCell c m) : d = c ∨ d ∈ m := by
  induction m with
  | nil => simpa [Mem.insertCell] using h
  | cons e m ih =>
    unfold Mem.insertCell at h
    split at h
    · simpa using h
    · rcases List.mem_cons.mp h with h | h
      · exact .inr (by simp [h])
      · rcases ih h with h | h
        · exact .inl h
        · exact .inr (by simp [h])

theorem wf_insertCell (c : Host.Cell) (m : Mem) (h : m.wf = true) (hc : c.1 < Config.storeBytes ∧ c.2 ≠ 0)
    (hne : ∀ d ∈ m, d.1 ≠ c.1) : (Mem.insertCell c m).wf = true := by
  rw [wf_iff] at h ⊢
  refine ⟨?_, fun d hd => ?_⟩
  · have hs := h.1
    clear h
    induction m with
    | nil => simp [Mem.insertCell]
    | cons e m ih =>
      obtain ⟨he, hm⟩ := List.pairwise_cons.mp hs
      have hle := hne e (by simp)
      unfold Mem.insertCell
      split
      · rename_i hlt
        refine List.pairwise_cons.mpr ⟨fun d hd => ?_, hs⟩
        rcases List.mem_cons.mp hd with rfl | hd
        · exact hlt
        · exact Nat.lt_trans hlt (he d hd)
      · rename_i hlt
        refine List.pairwise_cons.mpr ⟨fun d hd => ?_, ih (fun d hd => hne d (by simp [hd])) hm⟩
        rcases mem_insertCell c d m hd with rfl | hd
        · exact Nat.lt_of_le_of_ne (Nat.le_of_not_lt hlt) hle
        · exact he d hd
  · rcases mem_insertCell c d m hd with rfl | hd
    · exact hc
    · exact h.2 d hd

/-- A write keeps the canonical form. -/
theorem wf_write (m : Mem) (a : Nat) (v : Byte) (h : m.wf = true) : (m.write a v).wf = true := by
  unfold Mem.write
  split
  · split
    · exact wf_erase m a h
    · exact wf_insertCell _ _ (wf_erase m a h) ⟨by assumption, by assumption⟩ (fun d hd => mem_erase_ne m a d hd)
  · exact h

theorem wf_writeWord (m : Mem) (a : Nat) (w : Word) (h : m.wf = true) : (m.writeWord a w).wf = true :=
  wf_write _ _ _ (wf_write _ _ _ h)

/-- A run of words keeps the canonical form. -/
theorem wf_writeWords (m : Mem) (a : Nat) (ws : List Word) (h : m.wf = true) : (m.writeWords a ws).wf = true := by
  induction ws generalizing m a with
  | nil => exact h
  | cons w ws ih => exact ih _ _ (wf_writeWord m a w h)

/-- An address below every listed one reads 0. -/
theorem read_of_lt (m : Mem) (a : Nat) (h : ∀ c ∈ m, a < c.1) : m.read a = 0 := by
  induction m with
  | nil => rfl
  | cons d m ih =>
    have hd := h d (by simp)
    have := ih (fun c hc => h c (by simp [hc]))
    simp [Mem.read, Nat.ne_of_gt hd, this]

/-- Stores in canonical form that read alike are equal: equal contents are equal data. -/
theorem eq_of_read_eq {m m' : Mem} (h : m.wf = true) (h' : m'.wf = true) (hr : ∀ a, m.read a = m'.read a) : m = m' := by
  rw [wf_iff] at h h'
  induction m generalizing m' with
  | nil =>
    cases m' with
    | nil => rfl
    | cons d m' =>
      have := hr d.1
      simp [Mem.read] at this
      exact absurd this.symm (h'.2 d (by simp)).2
  | cons c m ih =>
    obtain ⟨hc, hm⟩ := List.pairwise_cons.mp h.1
    have hc0 := (h.2 c (by simp)).2
    cases m' with
    | nil =>
      have := hr c.1
      simp [Mem.read] at this
      exact absurd this hc0
    | cons d m' =>
      obtain ⟨hd, hm'⟩ := List.pairwise_cons.mp h'.1
      have hd0 := (h'.2 d (by simp)).2
      have hcd : c.1 = d.1 := by
        rcases Nat.lt_trichotomy c.1 d.1 with hlt | heq | hlt
        · have := hr c.1
          rw [read_of_lt (d :: m') c.1 (by
            intro e he
            rcases List.mem_cons.mp he with rfl | he
            · exact hlt
            · exact Nat.lt_trans hlt (hd e he))] at this
          simp [Mem.read] at this
          exact absurd this hc0
        · exact heq
        · have := hr d.1
          rw [read_of_lt (c :: m) d.1 (by
            intro e he
            rcases List.mem_cons.mp he with rfl | he
            · exact hlt
            · exact Nat.lt_trans hlt (hc e he))] at this
          simp [Mem.read] at this
          exact absurd this.symm hd0
      have hv : c.2 = d.2 := by
        have := hr c.1
        simpa [Mem.read, hcd] using this
      have htail : m = m' := by
        refine ih ⟨hm, fun e he => h.2 e (List.mem_cons_of_mem _ he)⟩ ⟨hm', fun e he => h'.2 e (List.mem_cons_of_mem _ he)⟩
          (fun a => ?_)
        by_cases ha : a = c.1
        · subst ha
          rw [read_of_lt m c.1 hc, read_of_lt m' c.1 (by rw [hcd]; exact hd)]
        · have := hr a
          simpa [Mem.read, Ne.symm ha, ← hcd] using this
      rw [Prod.ext hcd hv, htail]

/-- The store is in canonical form after a pin reset. -/
theorem wf_reset : State.reset.store.wf = true := rfl

end Sys2Proof.Machine
end

