-- ==== Sys2Proof/Laws/Store.lean ====
section
/-! SUPPORT. What the part itself writes to the common store: runs of words at or above 0x0800, never the head settings or the
staged limit set (R77). One lemma per operation; from each follow the canonical form and the bytes below 0x0800. -/

namespace Sys2Proof.Machine

open Sys2Proof

/-- `m'` comes from `m` by the part's own writes, each a run of words at or above 0x0800. -/
inductive PartWrites : Mem → Mem → Prop where
  | refl (m : Mem) : PartWrites m m
  | step {m m' : Mem} (h : PartWrites m m') (a : Nat) (ws : List Word) (ha : 0x0800 ≤ a) : PartWrites m (m'.writeWords a ws)

theorem PartWrites.trans {m m' m'' : Mem} (h : PartWrites m m') (h' : PartWrites m' m'') : PartWrites m m'' := by
  induction h' with
  | refl => exact h
  | step _ a ws ha ih => exact ih.step a ws ha

/-- The part's writes keep the canonical form. -/
theorem PartWrites.wf {m m' : Mem} (h : PartWrites m m') (hm : m.wf = true) : m'.wf = true := by
  induction h with
  | refl => exact hm
  | step _ a ws _ ih => exact wf_writeWords _ a ws ih

/-- The part's writes leave every byte below 0x0800 alone. -/
theorem PartWrites.keeps_below {m m' : Mem} (h : PartWrites m m') (a : Nat) (ha : a < 0x0800) : m'.read a = m.read a := by
  induction h with
  | refl => rfl
  | step _ b ws hb ih => rw [read_writeWords_outside _ _ _ _ (by omega), ih]

/-- A fold of an operation that makes only the part's writes makes only the part's writes. -/
theorem PartWrites.fold {α : Type} (f : State → α → State) (h : ∀ s a, PartWrites s.store (f s a).store) (l : List α)
    (s : State) : PartWrites s.store (l.foldl f s).store := by
  induction l generalizing s with
  | nil => exact .refl _
  | cons a l ih => exact (h s a).trans (ih (f s a))

theorem pokeWords_writes (s : State) (a : Nat) (ws : List Word) (ha : 0x0800 ≤ a) :
    PartWrites s.store (s.pokeWords a ws).store := (PartWrites.refl _).step a ws ha

/-! ## Answers and shelves -/

theorem answer_writes (s : State) (n : Fin 8) (c : AnswerCode) (d : Nat) (r : List Word) :
    PartWrites s.store (s.answer n c d r).store :=
  pokeWords_writes s _ _ (by unfold requestAddr Config.requestBase; omega)

theorem postRecord_writes (s : State) (k : RecordKind) (b : List Word) (n : Fin 48) :
    PartWrites s.store (s.postRecord k b n).store :=
  pokeWords_writes s _ _ (by unfold recordAddr Config.recordBase; omega)

theorem handPeriodRecord_writes (s : State) (h : Fin 12) (b : Nat → List Word) :
    PartWrites s.store (s.handPeriodRecord h b).store := by
  unfold State.handPeriodRecord
  split
  · exact .refl _
  · dsimp only
    exact postRecord_writes ..

theorem postEvent_writes (s : State) (e : EventData) : PartWrites s.store (s.postEvent e).store := by
  unfold State.postEvent
  split
  · exact .refl _
  · dsimp only
    simp only [raise_store]
    exact pokeWords_writes s _ _ (by unfold eventAddr Config.eventBase; omega)

theorem completeCapture_writes (s : State) (c : Capture) (b : Bool) (m : TraceMode) :
    PartWrites s.store (s.completeCapture c b m).store := by
  have ha : 0x0800 ≤ traceAddr c.slot 0 := by unfold traceAddr Config.traceBase; omega
  unfold State.completeCapture
  dsimp only
  split
  · dsimp only
    exact pokeWords_writes s _ _ ha
  · simp only [raise_store]
    exact pokeWords_writes s _ _ ha

theorem completeIfDue_writes (s : State) : PartWrites s.store s.completeIfDue.store := by
  unfold State.completeIfDue
  (repeat' split) <;> first | exact .refl _ | exact completeCapture_writes ..

theorem truncateCapture_writes (s : State) (m : TraceMode) : PartWrites s.store (s.truncateCapture m).store := by
  unfold State.truncateCapture
  split <;> first | exact .refl _ | exact completeCapture_writes ..

theorem disarm_writes (s : State) : PartWrites s.store s.disarm.store := truncateCapture_writes s _

/-! ## Pages -/

theorem writePages_writes (s : State) (st : Stamp) : PartWrites s.store (s.writePages st).store :=
  (PartWrites.fold _ (fun t h => pokeWords_writes t _ _ (by unfold headPageAddr Config.headPageBase; omega)) _ _).trans
    (PartWrites.fold _ (fun t r => pokeWords_writes t _ _ (by unfold receptorPageAddr Config.receptorPageBase; omega)) _ _)

theorem writeClosedPages_writes (s : State) (st : Stamp) : PartWrites s.store (s.writeClosedPages st).store :=
  (PartWrites.fold _ (fun t h => pokeWords_writes t _ _ (by unfold headPageAddr Config.headPageBase; omega)) _ _).trans
    (PartWrites.fold _ (fun t r => pokeWords_writes t _ _ (by unfold receptorPageAddr Config.receptorPageBase; omega)) _ _)

/-! ## Channels, calibration and heads -/

theorem abortCalibration_writes (s : State) (h : Fin 12) (r : AbortReason) :
    PartWrites s.store (s.abortCalibration h r).store := by
  unfold State.abortCalibration
  split
  · exact .refl _
  · simp only [endCalibration_store]
    exact answer_writes ..

theorem feedCalibration_writes (s : State) (h : Fin 12) (f : Frame) : PartWrites s.store (s.feedCalibration h f).store := by
  unfold State.feedCalibration
  (repeat' split) <;> first | exact .refl _ | exact abortCalibration_writes ..

theorem completeCalibration_writes (s : State) (h : Fin 12) : PartWrites s.store (s.completeCalibration h).store := by
  unfold State.completeCalibration
  dsimp only
  split
  · exact .refl _
  · split
    · split
      · simp only [endCalibration_store]
        refine PartWrites.trans ?_ (answer_writes ..)
        simp only [setTrim_frame]
        exact .refl _
      · simp only [endCalibration_store]
        exact answer_writes ..
    · exact .refl _

theorem channelTick_writes (s : State) (h : Fin 12) (o : Option Frame) : PartWrites s.store (s.channelTick h o).store := by
  unfold State.channelTick
  dsimp only
  (repeat' split) <;> first | exact .refl _ | exact feedCalibration_writes (s.setChannel _ _) _ _

theorem closeChannel_writes (s : State) (h : Fin 12) (c : Bool) (n : Nat) : PartWrites s.store (s.closeChannel h c n).store :=
  handPeriodRecord_writes ..

theorem leaveActive_writes (s : State) (h : Fin 12) (r : AbortReason) : PartWrites s.store (s.leaveActive h r).store := by
  simpa [State.leaveActive] using abortCalibration_writes s h r

theorem leaveAtMark_writes (s : State) (h : Fin 12) : PartWrites s.store (s.leaveAtMark h).store := by
  unfold State.leaveAtMark
  split
  · simpa using PartWrites.refl s.store
  · exact leaveActive_writes ..

theorem loseHead_writes (s : State) (h : Fin 12) : PartWrites s.store (s.loseHead h).store :=
  leaveActive_writes (s.setHead h _) h _

theorem headStep_writes (s : State) (h : Fin 12) (o : Option Frame) : PartWrites s.store (s.headStep h o).store := by
  unfold State.headStep
  dsimp only
  (repeat' split) <;> first
    | exact .refl _
    | exact loseHead_writes ..
    | (simpa using PartWrites.refl s.store)

theorem settleHead_writes (s : State) (h : Fin 12) : PartWrites s.store (s.settleHead h).store :=
  (headStep_writes ..).trans (channelTick_writes ..)

theorem disableAtMark_writes (s : State) (h : Fin 12) : PartWrites s.store (s.disableAtMark h).store := by
  have leave : PartWrites s.store (if (s.head h).state = .active then s.leaveAtMark h else s).store := by
    split
    · exact leaveAtMark_writes ..
    · exact .refl _
  unfold State.disableAtMark
  generalize (if (s.head h).state = .active then s.leaveAtMark h else s) = t at leave
  dsimp only
  split
  · exact leave.trans (closeChannel_writes (t.setHead _ _) _ _ _)
  · exact leave

theorem markHead_writes (s : State) (h : Fin 12) : PartWrites s.store (s.markHead h).store := by
  unfold State.markHead
  (repeat' split) <;> first | exact .refl _ | exact disableAtMark_writes ..

theorem leaveAtStop_writes (s : State) (h : Fin 12) : PartWrites s.store (s.leaveAtStop h).store := by
  unfold State.leaveAtStop
  split
  · simpa using completeCalibration_writes s h
  · exact leaveActive_writes ..

theorem stopHead_writes (s : State) (h : Fin 12) : PartWrites s.store (s.stopHead h).store := by
  unfold State.stopHead
  dsimp only
  (repeat' split) <;> first | exact .refl _ | exact leaveAtStop_writes ..

theorem stopHeads_writes (s : State) : PartWrites s.store s.stopHeads.store := PartWrites.fold _ stopHead_writes _ _

/-! ## Evaluator and periods -/

theorem raiseRule_writes (s : State) (k : TriggerKind) (n : Fin 24) (b : Nat × Nat) (f : CompareFlags) (c : Clock) :
    PartWrites s.store (s.raiseRule k n b f c).store := by
  unfold State.raiseRule
  dsimp only
  split
  · simpa using postEvent_writes ..
  · exact postEvent_writes ..

theorem evalInstant_writes (s : State) (n : Fin 24) (m : Metric) (c : Clock) :
    PartWrites s.store (s.evalInstant n m c).store := by
  unfold State.evalInstant
  dsimp only
  (repeat' split) <;> first | exact .refl _ | exact raiseRule_writes (s.setRule _ _) _ _ _ _ _

theorem evalCertain_writes (s : State) (n : Fin 24) (c : Clock) : PartWrites s.store (s.evalCertain n c).store := by
  unfold State.evalCertain
  dsimp only
  (repeat' split) <;> first | exact .refl _ | exact raiseRule_writes (s.setRule _ _) _ _ _ _ _

theorem evalAtSecond_writes (c : Clock) (s : State) (n : Fin 24) : PartWrites s.store (State.evalAtSecond c s n).store := by
  unfold State.evalAtSecond
  (repeat' split) <;> first | exact .refl _ | exact evalInstant_writes .. | exact evalCertain_writes ..

theorem evalSecond_writes (s : State) (c : Clock) : PartWrites s.store (s.evalSecond c).store :=
  PartWrites.fold _ (evalAtSecond_writes c) _ _

theorem evalAtPeriod_writes (pre : State) (a : Nat) (c : Clock) (s : State) (n : Fin 24) :
    PartWrites s.store (State.evalAtPeriod pre a c s n).store := by
  unfold State.evalAtPeriod
  dsimp only
  (repeat' split) <;> first | exact .refl _ | exact raiseRule_writes (s.setRule _ _) _ _ _ _ _

theorem evalPeriod_writes (s pre : State) (a : Nat) (c : Clock) : PartWrites s.store (s.evalPeriod pre a c).store :=
  PartWrites.fold _ (evalAtPeriod_writes pre a c) _ _

theorem completeAdoption_writes (s : State) (k : EndKind) : PartWrites s.store (s.completeAdoption k).store := by
  unfold State.completeAdoption
  split
  · exact .refl _
  · exact answer_writes { s.adopt with adoption := none } _ _ _ _

theorem closeChannels_writes (s : State) (b : Bool) (n : Nat) : PartWrites s.store (s.closeChannels b n).store :=
  PartWrites.fold _ (fun t h => by
    split
    · exact closeChannel_writes ..
    · exact .refl _) _ _

theorem endPeriod_writes (s : State) (k : EndKind) (n : Nat) (c : Clock) : PartWrites s.store (s.endPeriod k n c).store := by
  have close := closeChannels_writes s (decide (k = .cut)) n
  unfold State.endPeriod
  dsimp only
  refine PartWrites.trans ?_ (completeAdoption_writes ..)
  simp only [clearLatches_frame]
  split
  · exact close.trans (evalPeriod_writes ..)
  · exact close

theorem applySetting_writes (s : State) : PartWrites s.store s.applySetting.store := by
  unfold State.applySetting
  split
  · exact .refl _
  · exact answer_writes _ _ _ _ _

theorem replaceStep_writes (s : State) (x : ClockSetting) : PartWrites s.store (s.replaceStep x).store := by
  have h := endPeriod_writes s .cut (lengthThrough s.period s.clock.second) s.clock
  unfold State.replaceStep
  dsimp only
  refine PartWrites.trans ?_ (answer_writes ..)
  simpa using h

/-! ## Tick event -/

theorem closeHead_writes (s : State) (h : Fin 12) : PartWrites s.store (s.closeHead h).store := by
  unfold State.closeHead
  split
  · dsimp only
    exact settleHead_writes ..
  · exact .refl _

theorem closeTick_writes (s : State) : PartWrites s.store s.closeTick.store := by
  unfold State.closeTick
  split
  · simpa using PartWrites.fold _ settleHead_writes _ _
  · exact .refl _

theorem captureStage_writes (s : State) : PartWrites s.store s.captureStage.store := by
  unfold State.captureStage
  split
  · dsimp only
    exact completeIfDue_writes ..
  · exact .refl _

theorem closeSecond_writes (s : State) : PartWrites s.store s.closeSecond.store := by
  unfold State.closeSecond
  dsimp only
  simp only [clearSeconds_frame]
  refine PartWrites.trans ?_ (evalSecond_writes ..)
  refine PartWrites.trans ?_ (writePages_writes ..)
  simp only [examineNote_frame]
  exact .refl _

theorem secondStage_writes (s : State) : PartWrites s.store s.secondStage.store := by
  have h := closeSecond_writes s
  unfold State.secondStage
  generalize s.closeSecond = t at h
  split
  · split
    · dsimp only
      split
      · dsimp only
        exact h.trans (replaceStep_writes t _)
      · exact h
    · exact .refl _
  · exact .refl _

theorem periodStage_writes (s : State) : PartWrites s.store s.periodStage.store := by
  unfold State.periodStage
  split
  · exact .refl _
  · dsimp only
    split
    · simp only [beginPeriod_frame]
      exact .refl _
    · split
      · simp only [beginPeriod_frame]
        exact endPeriod_writes { s with clock := s.clock.step } _ _ _
      · exact .refl _
  · exact .refl _

theorem calibrationStage_writes (s : State) : PartWrites s.store s.calibrationStage.store := by
  unfold State.calibrationStage
  split
  · dsimp only
    exact PartWrites.fold _ completeCalibration_writes _ _
  · exact .refl _

theorem markStage_writes (s : State) : PartWrites s.store s.markStage.store := by
  unfold State.markStage
  split
  · dsimp only
    exact PartWrites.fold _ markHead_writes _ _
  · exact .refl _

/-- A tick close with its second close writes nothing below 0x0800. -/
theorem finishClose_writes (s : State) : PartWrites s.store s.finishClose.store :=
  (closeTick_writes _).trans <| (captureStage_writes _).trans <| secondStage_writes _

/-- The parts of a tick event before its mark write nothing below 0x0800. -/
theorem finishBeforeMark_writes (s : State) : PartWrites s.store s.finishBeforeMark.store :=
  (finishClose_writes _).trans <| (periodStage_writes _).trans <| calibrationStage_writes _

/-- A tick event writes nothing below 0x0800. -/
theorem finishTick_writes (s : State) : PartWrites s.store s.finishTick.store :=
  (finishClose_writes _).trans <| (periodStage_writes _).trans <| (markStage_writes _).trans <| calibrationStage_writes _

end Sys2Proof.Machine
end

