-- ==== Sys2Proof/Laws/Tick.lean ====
section
/-! SUPPORT. The stages of a tick event and what finishing one leaves, what the engine's taking of a request does, and the
other port width that the byte accesses are compared with. -/

namespace Sys2Proof.Machine

open Sys2Proof

/-! ## Comparing states -/

/-- Two states with equal fields are equal: how a frame `t = the old state with some fields of t` is shown. -/
theorem State.eq_of_fields {s t : State} (h1 : s.pending = t.pending) (h2 : s.resetLow = t.resetLow) (h3 : s.run = t.run)
    (h4 : s.lastClosed = t.lastClosed) (h5 : s.stage = t.stage) (h6 : s.clock = t.clock) (h7 : s.period = t.period)
    (h8 : s.clockSetting = t.clockSetting) (h9 : s.link = t.link) (h10 : s.heads = t.heads) (h11 : s.channels = t.channels)
    (h12 : s.calibrations = t.calibrations) (h13 : s.live = t.live) (h14 : s.adoption = t.adoption)
    (h15 : s.rules = t.rules) (h16 : s.events = t.events) (h17 : s.records = t.records) (h18 : s.trace = t.trace)
    (h19 : s.requests = t.requests) (h20 : s.store = t.store) (h21 : s.port = t.port) (h22 : s.notices = t.notices) :
    s = t := by
  cases s; cases t; simp_all

/-! ## Stages -/

/-- Where no tick close with its second close is half done there is none to finish. -/
theorem finishClose_of_closeDone {s : State} (h : closeDone s = true) : s.finishClose = s := by
  unfold closeDone at h
  cases hs : s.stage <;>
    simp_all [State.finishClose, State.closeTick, State.captureStage, State.secondStage]

/-- Outside a tick event there is nothing to finish. -/
theorem finishTick_of_idle {s : State} (h : s.stage = .idle) : s.finishTick = s := by
  simp [State.finishTick, finishClose_of_closeDone (s := s) (by simp [closeDone, h]), State.periodStage, State.markStage,
    State.calibrationStage, h]

theorem finishTick_of_ready {s : State} (h : Ready s) : s.finishTick = s := finishTick_of_idle h.1

theorem finishClose_of_settled {s : State} (h : Settled s) : s.finishClose = s := finishClose_of_closeDone h.1

theorem closeTick_stage (s : State) :
    s.closeTick.stage = match s.stage with
      | .closing _ => .closed
      | x => x := by
  unfold State.closeTick
  split <;> simp_all

theorem captureStage_stage (s : State) :
    s.captureStage.stage = match s.stage with
      | .closed => .captured
      | x => x := by
  unfold State.captureStage
  split <;> simp_all

/-- The second close leaves the stage `captured` behind, and no other. -/
theorem secondStage_stage (s : State) :
    (s.stage = .captured ∧ ∃ b, s.secondStage.stage = .secondClosed b) ∨ (s.stage ≠ .captured ∧ s.secondStage = s) := by
  unfold State.secondStage
  split
  · refine .inl ⟨by assumption, ?_⟩
    dsimp only
    (repeat' split) <;> exact ⟨_, rfl⟩
  · exact .inr ⟨by assumption, rfl⟩

theorem periodStage_stage (s : State) :
    s.periodStage.stage = match s.stage with
      | .secondClosed _ => .stepped
      | x => x := by
  unfold State.periodStage
  split <;> simp_all

theorem markStage_stage (s : State) :
    s.markStage.stage = match s.stage with
      | .stepped => .marked
      | x => x := by
  unfold State.markStage
  split <;> simp_all

theorem calibrationStage_stage (s : State) :
    s.calibrationStage.stage = match s.stage with
      | .marked => .idle
      | x => x := by
  unfold State.calibrationStage
  split <;> simp_all

/-- A finished tick close with its second close is not half done. -/
theorem finishClose_closeDone (s : State) : closeDone s.finishClose = true := by
  have h := captureStage_stage s.closeTick
  rw [closeTick_stage] at h
  unfold State.finishClose closeDone
  rcases secondStage_stage s.closeTick.captureStage with ⟨_, b, hb⟩ | ⟨hne, heq⟩
  · rw [hb]
  · rw [heq]
    cases hs : s.stage <;> simp_all

/-- A finished tick event leaves no stage behind. -/
theorem finishTick_stage (s : State) : s.finishTick.stage = .idle := by
  have h := finishClose_closeDone s
  unfold closeDone at h
  unfold State.finishTick
  rw [calibrationStage_stage, markStage_stage, periodStage_stage]
  cases hs : s.finishClose.stage <;> simp_all

/-- Outside a tick event, and where one stands just before its mark, there is nothing to finish before the mark. -/
theorem finishBeforeMark_of_done {s : State} (h : s.stage = .idle ∨ s.stage = .stepped) : s.finishBeforeMark = s := by
  unfold State.finishBeforeMark
  rcases h with h | h <;>
    simp [finishClose_of_closeDone (s := s) (by simp [closeDone, h]), State.periodStage, State.calibrationStage, h]

/-- A tick event finished before its mark stands there, or it was past its mark or not begun. -/
theorem finishBeforeMark_stage (s : State) : s.finishBeforeMark.stage = match s.stage with
    | .idle => .idle
    | .marked => .idle
    | _ => .stepped := by
  have h := captureStage_stage s.closeTick
  rw [closeTick_stage] at h
  unfold State.finishBeforeMark State.finishClose
  rw [calibrationStage_stage, periodStage_stage]
  rcases secondStage_stage s.closeTick.captureStage with ⟨hc, b, hb⟩ | ⟨hne, heq⟩
  · rw [hb]
    cases hs : s.stage <;> simp_all
  · rw [heq]
    cases hs : s.stage <;> simp_all

/-! ## The port of the other width -/

@[simp] theorem wordPort_wide (s : State) : s.wordPort.port.wide = true := rfl
@[simp] theorem wordPort_peek (s : State) : s.wordPort.port.peek = s.port.peek := rfl
@[simp] theorem wordPort_accessAddr (s : State) :
    s.wordPort.port.accessAddr = BitVec.ofNat 16 (s.port.accessAddr.toNat / 2 * 2) := rfl
@[simp] theorem wordPort_addrAfter (s : State) :
    s.wordPort.port.addrAfter = BitVec.ofNat 16 (s.port.accessAddr.toNat / 2 * 2) := rfl
@[simp] theorem wordPort_run (s : State) : s.wordPort.run = s.run := rfl
@[simp] theorem wordPort_stage (s : State) : s.wordPort.stage = s.stage := rfl
@[simp] theorem wordPort_resetLow (s : State) : s.wordPort.resetLow = s.resetLow := rfl
@[simp] theorem wordPort_store (s : State) : s.wordPort.store = s.store := rfl
@[simp] theorem wordPort_requests (s : State) : s.wordPort.requests = s.requests := rfl
@[simp] theorem wordPort_events (s : State) : s.wordPort.events = s.events := rfl
@[simp] theorem wordPort_records (s : State) : s.wordPort.records = s.records := rfl
@[simp] theorem wordPort_trace (s : State) : s.wordPort.trace = s.trace := rfl
@[simp] theorem wordPort_notices (s : State) : s.wordPort.notices = s.notices := rfl
@[simp] theorem wordPort_adoption (s : State) : s.wordPort.adoption = s.adoption := rfl
@[simp] theorem bytePort_run (s w : State) (x : Option WriteHold) (y : Option ReadLatch) :
    (s.bytePort w x y).run = w.run := rfl
@[simp] theorem bytePort_stage (s w : State) (x : Option WriteHold) (y : Option ReadLatch) :
    (s.bytePort w x y).stage = w.stage := rfl
@[simp] theorem bytePort_resetLow (s w : State) (x : Option WriteHold) (y : Option ReadLatch) :
    (s.bytePort w x y).resetLow = w.resetLow := rfl
@[simp] theorem bytePort_store (s w : State) (x : Option WriteHold) (y : Option ReadLatch) :
    (s.bytePort w x y).store = w.store := rfl
@[simp] theorem bytePort_requests (s w : State) (x : Option WriteHold) (y : Option ReadLatch) :
    (s.bytePort w x y).requests = w.requests := rfl
@[simp] theorem bytePort_events (s w : State) (x : Option WriteHold) (y : Option ReadLatch) :
    (s.bytePort w x y).events = w.events := rfl
@[simp] theorem bytePort_records (s w : State) (x : Option WriteHold) (y : Option ReadLatch) :
    (s.bytePort w x y).records = w.records := rfl
@[simp] theorem bytePort_trace (s w : State) (x : Option WriteHold) (y : Option ReadLatch) :
    (s.bytePort w x y).trace = w.trace := rfl
@[simp] theorem bytePort_notices (s w : State) (x : Option WriteHold) (y : Option ReadLatch) :
    (s.bytePort w x y).notices = w.notices := rfl
@[simp] theorem bytePort_adoption (s w : State) (x : Option WriteHold) (y : Option ReadLatch) :
    (s.bytePort w x y).adoption = w.adoption := rfl

/-! ## Taking -/

/-- A served request (R165): the command of its kind takes the slot, does the kind's work and ends the service. -/
theorem serve_of_served {s : State} {n : Fin 8} {k : RequestKind} (h : Served s n k) (work : State → Fin 8 → State) :
    s.serve (isKind k) work = (work (s.take n) n).endService := by
  obtain ⟨⟨hr, hrun, hin, hq, _⟩, _, hk, hm⟩ := h
  unfold State.serve
  cases hqq : s.requests.queue with
  | nil => simp [hqq] at hq
  | cons m rest =>
    have : m = n := by simpa [hqq] using hq
    subst this
    simp [State.engineReady, hr, hrun, hin, isKind, hk, hm]

end Sys2Proof.Machine
end

