-- ==== Sys2Proof/Tests/Slice0.lean ====
section
/-! SUPPORT. Tests of the model's author: ill-formed commands, one-step tests against values worked out from the spec, and for
every statement with hypotheses a state that meets them. -/

namespace Sys2Proof.Tests

set_option Elab.async false

open Sys2Proof Sys2Proof.Machine

/-! ## Small states -/

/-- Serving the host, nothing measured, 16-bit port. -/
def stopped : State := { State.reset with run := .stopped }

/-- The same on the 8-bit port, with step mode UP_AFTER. -/
def narrow : State := { stopped with port := { Port.reset false with step := .upAfter } }

/-- A head in this state, with these join and miss counts. -/
def headIn (state : HeadState) (join miss : Nat) : Head := { Head.reset 0 with state := state, join := join, miss := miss }

/-- A tick energy of 2^30 and a C peak of 2^31, no status bit set. -/
def sample : Frame :=
  { aEnergy := 2 ^ 30, cPeak := 2 ^ 31, overFlag := false, underFlag := false, windyFlag := false, faultFlag := false }

/-- MEASURING with tick 5 open, a period of 900 seconds open, and head 0 enabled, in the state given, with an open channel. -/
def measuringWith (x : Head) (frame : Option Frame) : State :=
  { State.pokeWords stopped 0x0100 [1] with
    run := .measuring
    clock := { day := 3, second := 10, weekday := 2, tick := 5 }
    period := { isOpen := true, startDay := 3, startSecond := 0, startTick := 0, plannedEnd := 900, plannedLength := 900,
                short := true }
    link := { Link.reset with nextMark := 8, tickOpen := some 7, buffers := (Vector.replicate 12 none).set 0 frame }
    heads := (Vector.replicate 12 (Head.reset 0)).set 0 x
    channels := (Vector.replicate 12 Channel.reset).set 0 { Channel.reset with isOpen := true } }

/-- Head 0 is ACTIVE and its frame has come. -/
def measuring : State := measuringWith (headIn .active 4 0) (some sample)

/-- The tick open is the last of second 899, the end of an ALIGNED period. -/
def lastTick : State := { measuring with clock := { day := 3, second := 899, weekday := 2, tick := 31 } }

/-- Request slot 0 is the oldest POSTED slot and holds this kind, tag 1 and these parameters. -/
def asked (s : State) (kind : Nat) (params : List Word) : State :=
  let t := State.setSlot (s.pokeWords (requestAddr 0 0) (word kind :: 1 :: params)) 0 { state := .posted, postMark := 1 }
  { t with requests := { t.requests with queue := [0] } }

/-- WADR stands at this address. -/
def aimed (s : State) (a : Word) : State := { s with port := { s.port with wadr := a } }

/-- A capture of one head with two pre samples that wants one more post sample. -/
def capture : Capture :=
  { slot := 1, kind := .request, rule := 0xFFFF, receptor := 0, day := 3, second := 9, tick := 4, preCount := 2,
    scope := [{ head := 0, pre := [none, some 5000], post := [some 5010], departed := false }], postCounter := 1, captured := 1,
    retriggers := 0, padded := true, headLeft := false }

def capturing (s : State) : State := { s with trace := { s.trace with mode := .capturing capture } }

/-- A limit set with one receptor (head 0, offset -300) and one rule on it: LAFmax, all week, 06:00 to 22:00, limit 7000,
margin 200, condition 2. -/
def oneRule : LimitSet :=
  [7, 0, 90] ++ List.replicate 13 0 ++ [1, 1, 0, 0, 0xFED4, 0, 0, 0] ++ List.replicate 40 0 ++
    [1, 0x0400, 360, 1320, 0x7F, 7000, 200, 2] ++ List.replicate 184 0

/-- Small states in which something keeps a request from being served. -/
def fullShelf : State := { measuring with records := { RecordShelf.reset with list := List.finRange 48 } }
def calibrated (s : State) (count expected : Nat) : State :=
  s.setCalibration 0 { inProgress := true, count := count, sum := BitVec.ofNat 72 (count * 2 ^ 30), expected := expected,
                       slot := 3 }
def calibrating : State := calibrated measuring 5 9400
def settingWaits : State := { measuring with clockSetting := some { day := 1, second := 2, weekday := 3, slot := 3 } }
def badStaged : State := State.pokeWords stopped 0x0202 [5]
/-- A command has carried the tick event to the mark: nothing is left of its close. -/
def pastClose (s : State) : State := { s with stage := .secondClosed false }
def armed : State := { measuring with live := oneRule, trace := { TraceUnit.reset with mode := .armed } }

/-! ## Well-formedness -/

theorem test_restart_without_its_bit : Instr.wellFormed (.restart 0x0004) = false := by decide
theorem test_restart_with_its_bit : Instr.wellFormed (.restart 0x0008) = true := by decide
theorem test_control_write_with_restart : Instr.wellFormed (.registerWrite .wctl false 0x0008) = false := by decide
theorem test_high_byte_of_control : Instr.wellFormed (.registerWrite .wctl true 0x0008) = true := by decide
theorem test_empty_frame : Instr.wellFormed (.frame []) = false := by decide
theorem test_high_start_bit : Instr.wellFormed (.frame [0x400, 0x7FF]) = false := by decide
theorem test_no_word_spells_a_command : decodeTableWord 16 0x1234 = none := by decide

/-! ## Values worked out in the spec -/

/-- 01_level_arithmetic.md, Worked conversions. -/
theorem test_worked_conversions :
    [0, 1, 2, 3, 255, 256, 1000000, 2500000, 2 ^ 48 - 1].map rawLevel =
      [0, 0, 301, 477, 2407, 2408, 5999, 6398, 14448] := by decide +kernel

/-- 01_level_arithmetic.md, Worked weighting sequence: three present ticks of 4 000 000 eu after a seed of 1 000 000 eu. -/
theorem test_worked_weighting :
    (weightStep fastWeight 1000000 4000000, weightStep fastWeight 1667968 4000000, weightStep fastWeight 2187209 4000000) =
      (1667968, 2187209, 2590838) ∧
    (weightStep slowWeight 1000000 4000000, weightStep slowWeight 1093750 4000000, weightStep slowWeight 1184570 4000000) =
      (1093750, 1184570, 1272552) ∧ headLevel 1667968 0 = 6222 := by decide +kernel

/-- 01_level_arithmetic.md, Worked percentile scans: 2 ticks in bin 70, 10 in bin 60, 8 in bin 50. -/
theorem test_worked_percentiles :
    let h : Vector Nat 160 := (((Vector.replicate 160 0).set 70 2).set 60 10).set 50 8
    percentile 10 h 20 = some 6000 ∧ percentile 90 h 20 = some 5000 := by decide +kernel

/-- 01_level_arithmetic.md, Worked floor-Leq and the table of R17. -/
theorem test_worked_floor_and_display :
    floorLeq 9600000000 28800 0 = 5522 ∧ floorLeq 28800000000 28800 0 = 5999 ∧
      [some 7823, some 5999, some 5994, none].map displayWord = [0x0782, 0x0600, 0x0599, 0xFFFF] := by decide +kernel

/-- 06_receptors_and_the_limit_set.md, Worked windows, rules 3 and 7. -/
theorem test_worked_windows :
    [(1139, 4), (1140, 4), (1380, 4), (120, 5), (420, 5), (120, 4)].map
      (fun p => (windowActive 420 1140 0x1F p.1 p.2, windowActive 1320 420 0x10 p.1 p.2)) =
      [(true, false), (false, false), (false, true), (false, true), (false, false), (false, false)] := by decide +kernel

/-- The usual check value of the CRC-8 with polynomial x^8 + x^2 + x + 1 (R21), over the ASCII digits 1 to 9: general
knowledge, not the spec's. -/
theorem test_crc_check_value : crc [0x31, 0x32, 0x33, 0x34, 0x35, 0x36, 0x37, 0x38, 0x39] = 0xF4 := by decide +kernel

/-! ## One step -/

/-- The state a command leads to. -/
def after (c : Instr) (s : State) : State :=
  match exec c s with
  | .next t => t
  | .fault _ => s
  | .refused _ => s

/-- A command that changes the stage answers a next state. -/
theorem exec_eq_after (c : Instr) (s : State) (h : (after c s).stage ≠ s.stage) : exec c s = .next (after c s) := by
  unfold after at h ⊢
  split at h <;> first | assumption | exact absurd rfl h

/-- R98: the end of STARTING shows the identity, and the run state STOPPED in WCTL. -/
theorem test_end_of_starting :
    (after .endOfStarting State.reset).hostWord 0 = 0x5C12 ∧ (after .endOfStarting State.reset).readWctl = 0x7F10 := by
  decide +kernel

/-- 02_perimeter_link_and_microphone_heads.md, Worked example: a wake character after nine data characters ends them SHORT. -/
theorem test_worked_short_frame :
    let d : LinkChar := { value := 1, wake := false, stopOk := true }
    let w : LinkChar := { value := 14, wake := true, stopOk := true }
    let t := after (.frame ((frameChars 0 true (List.replicate 9 d) ++ [w]).map LinkChar.onPair)) measuring
    (t.head 0).short = 1 ∧ (t.head 0).last = .short ∧ t.link.badNote = true := by
  decide +kernel

/-- R183: the mark's wake character 0xF0 on the pair, in time order from bit 0: start low, 0000 1111, wake, stop high. -/
theorem test_wake_character_on_the_pair :
    (List.range 11).map ({ value := 0xF0, wake := true, stopOk := true } : LinkChar).onPair.getLsbD =
      [false, false, false, false, false, true, true, true, true, true, true] := by
  decide

/-- R146: a SNAPSHOT between the tick close and the period end of one tick event shows the ending period with its last tick counted,
and the tick event stays where it is. -/
theorem test_snapshot_before_the_period_end :
    let s := after .snapshot (asked (after .captureComplete lastTick) 9 [1])
    (s.peekWord (recordAddr 0 21), s.period.startSecond, s.stage) = (1, 0, .captured) := by
  decide +kernel

/-- R68 and R29: a head disabled at the mark of the tick event at which its calibration completes has its cut record written with
the trim it had (word 37), and the trim is set after it. -/
theorem test_cut_record_has_the_old_trim :
    let s := (calibrated measuring 127 (rawLevel (2 ^ 30) + 40)).pokeWords 0x0100 [0]
    let t := after .tickEvent s
    (t.head 0).state = .off ∧ (t.head 0).trim = 40 ∧ t.records.list = [0] ∧ t.peekWord (recordAddr 0 37) = 0 := by
  decide +kernel

/-- R178, second row: a STOP taken after the tick close and before the mark leaves the mark unsent, and the clock has stepped. -/
theorem test_stop_before_the_mark :
    let t := after .stop (asked (after .captureComplete measuring) 2 [])
    (t.run, t.stage, t.link.nextMark, t.link.tickOpen, t.clock.tick) = (.stopped, .idle, 8, none, 6) := by
  decide +kernel

/-- R72 and R178: a measurement complete at that tick close sets its trim at the STOP. -/
theorem test_stop_completes_a_measurement :
    let t := after .stop (asked (after .captureComplete (calibrated measuring 127 (rawLevel (2 ^ 30) + 40))) 2 [])
    (t.head 0).state = .off ∧ (t.head 0).trim = 40 ∧ t.calibration 0 = none := by
  decide +kernel

/-- R41 at midnight of a Sunday. -/
theorem test_midnight :
    (after .tickEvent { stopped with clock := { day := 0xFFFF, second := 86399, weekday := 6, tick := 31 } }).clock =
      { day := 0, second := 0, weekday := 0, tick := 0 } := by
  decide +kernel

/-- R84: a write to the mirror is dropped, counted and raises PORT. -/
theorem test_dropped_write :
    let t := after (.wdatWrite 0x1234) (aimed stopped 0x0400)
    t.port.dropped = 1 ∧ t.port.lastDropped = 0x0400 ∧ t.isPending .port = true ∧ t.readNtc = 0x0740 := by
  decide +kernel

/-- R87 and R88: a posting keeps the mark and joins the queue; the go word of a POSTED slot reads 0xFFFF. -/
theorem test_posting :
    let t := after (.wdatWrite 0x0055) (aimed stopped 0x0A3E)
    t.slot 0 = { state := .posted, postMark := 0x0055 } ∧ t.requests.queue = [0] ∧ t.hostWord 0x0A3E = 0xFFFF := by
  decide +kernel

/-- R49: SET CLOCK in STOPPED answers with the clock before. -/
theorem test_set_clock :
    let t := after .setClock (asked stopped 5 [130, 35990, 0, 2])
    t.clock = { day := 130, second := 35990, weekday := 2, tick := 0 } ∧ t.hostWord 0x0A3E = 1 := by
  decide +kernel

/-- R165: a mark that differs from the tag is answered CANCELLED. -/
theorem test_cancelled :
    (after .stop ((asked stopped 2 []).setSlot 0 { state := .posted, postMark := 2 })).hostWord 0x0A3E =
      word AnswerCode.cancelled.code := by
  decide +kernel

/-! ## The statements' hypotheses: the queue, the resets, the port -/

theorem witness_StepRunsFrontCommand : State.reset.pending = [] := rfl

theorem witness_NothingHappensWhileResetLow :
    Ready stopped ∧ (let s := { stopped with resetLow := true }; s.resetLow = true ∧ s.stage = .idle) ∧
      ∀ p, Instr.wdatRead ≠ .pinReset p := ⟨by decide +kernel, by decide +kernel, nofun⟩

theorem witness_EndOfStartingOpensThePart : Ready State.reset ∧ State.reset.run = .starting := by decide +kernel

theorem witness_StartingServesNothing :
    (∀ s ∈ [State.reset, { State.reset with port := Port.reset false }], Ready s ∧ s.run = .starting) ∧
      Instr.unknownKindRequest ∈ requestCommands := by decide +kernel

theorem witness_RestartKeepsClockTrimsAndSettings :
    (Ready stopped ∧ stopped.run ≠ .starting ∧ stopped.port.wide = true ∧ restartBit 0x7F08 = true) ∧
      Ready narrow ∧ narrow.run ≠ .starting ∧ narrow.port.wide = false ∧ restartBit 0x0008 = true := by decide +kernel

theorem witness_RegisterWriteSetsItsFields :
    Ready stopped ∧ Ready narrow ∧ restartBit 0x7F07 = false ∧ restartBit 0x0008 = true ∧ narrow.port.wide = false := by decide +kernel

/-- A class that shows, one that is masked, and none: the top class and NOTICE# of each clause. -/
theorem witness_NtcWriteClearsWrittenClasses :
    (Settled narrow ∧ narrow.run ≠ .starting) ∧ (Settled (pastClose stopped) ∧ stopped.port.wide = true) ∧
    let s := { stopped with notices := { pending := 0x44, mask := 0x04 } }
    let t := after (.ntcWrite false 0) s
    t.noticeLow = true ∧ t.readNtc = 0x0644 ∧ (after (.ntcWrite false 0x40) s).readNtc = 0x0704 ∧
      (after (.ntcWrite false 0x40) s).noticeLow = false := by decide +kernel

theorem witness_WdatAccessStepsWadr :
    (Settled (pastClose stopped) ∧ (Instr.wdatWrite 1 = .wdatRead ∨ ∃ data, Instr.wdatWrite 1 = .wdatWrite data)) ∧
      Settled (pastClose stopped) ∧ Ready State.reset ∧ restartBit 0x7F07 = false :=
  ⟨⟨by decide +kernel, .inr ⟨1, rfl⟩⟩, by decide +kernel, by decide +kernel, by decide⟩

/-- Slot 7's go word, its slot FREE; the same with the slot ANSWERED, with PEEK clear and set. -/
theorem witness_GoWordReadFreesAnsweredSlot :
    let s := aimed stopped 0x0BFE
    let t := s.setSlot 7 { state := .answered, postMark := 1 }
    let u := { t with port := { t.port with peek := true } }
    (Settled s ∧ s.run ≠ .starting ∧ s.port.wide = true ∧ s.port.accessAddr.toNat = requestAddr 7 31 ∧
      (s.slot 7).state ≠ .answered) ∧
    (Settled t ∧ t.run ≠ .starting ∧ t.port.wide = true ∧ t.port.accessAddr.toNat = requestAddr 7 31 ∧
      (t.slot 7).state = .answered ∧ t.port.peek = false) ∧
    Settled u ∧ u.run ≠ .starting ∧ u.port.wide = true ∧ u.port.accessAddr.toNat = requestAddr 7 31 ∧ u.port.peek = true := by
  decide +kernel

/-- The last event slot, a record of 15 words in the last record slot, and a trace of no heads in trace slot 1. -/
theorem witness_ClosingWordReadReleasesSlot :
    let e := { aimed stopped 0x0FFE with events := { EventShelf.reset with list := [31] } }
    let r := { State.pokeWords (aimed stopped 0xEC1C) 0xEC02 [15] with records := { RecordShelf.reset with list := [47] } }
    let c := { aimed stopped 0x2020 with trace := { TraceUnit.reset with list := [1] } }
    (Settled e ∧ e.run ≠ .starting ∧ e.port.wide = true ∧ e.port.peek = false ∧ 31 ∈ e.events.list ∧
      e.port.accessAddr.toNat = eventAddr 31 15) ∧
    (Settled r ∧ r.run ≠ .starting ∧ r.port.wide = true ∧ r.port.peek = false ∧ RecordsReadable r ∧ 47 ∈ r.records.list ∧
      r.port.accessAddr.toNat = r.recordClosing 47) ∧
    Settled c ∧ c.run ≠ .starting ∧ c.port.wide = true ∧ c.port.peek = false ∧ TracesReadable c ∧ 1 ∈ c.trace.list ∧
      c.port.accessAddr.toNat = c.traceClosing 1 := by
  decide +kernel

/-- One address at an end of every area the statement tells apart, and of every list of the control block. -/
theorem witness_OtherReadsReleaseNothing :
    ∀ s ∈ [0x0000, 0x002C, 0x002E, 0x0030, 0x0032, 0x0034, 0x0036, 0x0038, 0x003A, 0x0078, 0x007A, 0x007C, 0x00DA, 0x00DC,
      0x00FE, 0x0100, 0x01BE, 0x01C0, 0x01FE, 0x0200, 0x03FE, 0x0400, 0x05FE, 0x0600, 0x077E, 0x0780, 0x07FE, 0x0800,
      0x09DE, 0x09E0, 0x09FE, 0x0A00, 0x0A3C, 0x0BFC, 0x0C00, 0xEFFE, 0xF000, 0xFFFE].map (aimed (pastClose stopped)),
      Settled s ∧ s.run ≠ .starting ∧ s.port.wide = true ∧ s.port.accessAddr.getLsbD 0 = false ∧
        (∀ n, s.port.accessAddr.toNat ≠ requestAddr n 31) ∧ s.events.list = [] ∧ s.records.list = [] ∧ s.trace.list = [] := by
  decide +kernel

/-- 11_formats.md, the control block and a head table entry of a small state. -/
theorem test_control_block_and_head_table :
    let s := { lastTick with events := { EventShelf.reset with list := [4, 2] } }
    [2, 4, 5, 6, 8, 9, 10, 28, 29, 30, 31].map (fun i => s.hostWord (2 * i)) = [2, 0, 3, 899, 2, 31, 1, 2, 4, 2, 0xFFFF] ∧
      [0, 1].map (fun i => s.hostWord (0x0600 + 2 * i)) = [2, 4] := by
  decide +kernel

/-- Request slot 7 holds an answer. -/
def answeredSlot7 : State := stopped.setSlot 7 { state := .answered, postMark := 1 }

/-- Stored at the ends of each writable area, posted, misposted, and dropped beside each. -/
theorem witness_HostWriteHasOneOfFourOutcomes :
    (∀ s ∈ [0x0100, 0x01BE, 0x0200, 0x03FE, 0x0A00, 0x0BFC].map (aimed stopped),
      Settled s ∧ s.run ≠ .starting ∧ s.port.wide = true ∧ s.port.accessAddr.getLsbD 0 = false ∧
        WriteStores s s.port.accessAddr.toNat) ∧
    (∀ s ∈ [stopped, answeredSlot7], Settled (aimed s 0x0BFE) ∧ WriteHitsGoWord (aimed s 0x0BFE).port.accessAddr.toNat 7) ∧
    (stopped.slot 7).state = .free ∧ (answeredSlot7.slot 7).state ≠ .free ∧
    (∀ s ∈ [0x00FE, 0x01C0, 0x01FE, 0x0400, 0x09FE, 0x0C00, 0xFFFE].map (aimed stopped) ++
        [aimed { stopped with adoption := some 0 } 0x0200, aimed answeredSlot7 0x0BFC],
      Settled s ∧ ¬WriteStores s s.port.accessAddr.toNat ∧ ∀ n, ¬WriteHitsGoWord s.port.accessAddr.toNat n) := by
  decide +kernel

/-- An even address and the odd one above it in every step mode, a write hold and a read latch for this word, for another and none,
and PEEK set. -/
theorem witness_BytePairAccessIsOneWordAccess :
    let even := aimed narrow 0x0BFE
    let at_ := fun (m : StepMode) (a : Word) => { narrow with port := { narrow.port with step := m, wadr := a } }
    let held := fun (a : Nat) => { at_ .upAfter 0x0BFF with port := { (at_ .upAfter 0x0BFF).port with
      writeHold := some { addr := a, low := 0x55 }, readLatch := some { addr := a, value := 0x1234, release := none },
      peek := true } }
    (Settled even ∧ even.run ≠ .starting ∧ even.port.wide = false ∧ even.port.accessAddr.toNat % 2 = 0) ∧
    (∀ s ∈ [at_ .stay 0x0BFF, at_ .upAfter 0x0BFF, at_ .upBefore 0x0BFE, at_ .downAfter 0x0BFF, held 0x0BFE, held 0x0BFC],
      Settled s ∧ s.run ≠ .starting ∧ s.port.wide = false ∧ s.port.accessAddr.toNat = 0x0BFF) ∧
    (at_ .stay 0x0BFF).port.readLatch = none ∧
    (held 0x0BFE).port.readLatch = some { addr := 0x0BFF - 1, value := 0x1234, release := none } := by
  decide +kernel

/-- R82 and R83 on the 8-bit port: an odd write with no hold takes the stored low byte, and an odd read with no latch the stored high
byte. -/
theorem test_odd_byte_without_its_even_byte :
    let s := aimed (narrow.pokeWords 0x0100 [0x1234]) 0x0101
    (after (.wdatWrite 0x0056) s).peekWord 0x0100 = 0x5634 ∧ (after .wdatRead s).port.readOut = .byte 0x12 := by
  decide +kernel

/-! ## The statements' hypotheses: clock, periods, tick events, link -/

/-- Each clause of the clock: STARTING, STOPPED, a setting applied, and the three steps of R41 at their boundaries. -/
theorem witness_SiteClockSteps :
    let setting : ClockSetting := { day := 1, second := 2, weekday := 3, slot := 0 }
    let at_ := fun second tick => { stopped with clock := { day := 0, second := second, weekday := 6, tick := tick } }
    let s := { lastTick with clockSetting := some setting }
    (Ready State.reset ∧ State.reset.run = .starting) ∧ (Ready stopped ∧ stopped.run = .stopped) ∧
    (Ready s ∧ s.run = .measuring ∧ s.link.tickOpen.isSome ∧ s.clock.tick = 31 ∧ s.clockSetting = some setting) ∧
    (Ready (at_ 86399 30) ∧ (at_ 86399 30).run ≠ .measuring ∧ (at_ 86399 30).clock.tick ≤ 30) ∧
    (Ready (at_ 86398 31) ∧ (at_ 86398 31).clock.tick = 31 ∧ (at_ 86398 31).clock.second ≤ 86398) ∧
    Ready (at_ 86399 31) ∧ (at_ 86399 31).clock.tick = 31 ∧ (at_ 86399 31).clock.second = 86399 := by
  decide +kernel

theorem witness_PlannedEndIsNextBoundary : 86399 ≤ 86399 ∧ ∀ c < 5, lengthCode [0, BitVec.ofNat 16 c] = c := by decide +kernel

/-- Both clauses about the channels: head 0 is not OFF, head 1 is. -/
theorem witness_FirstTickBeginsShortPeriod :
    let s := { measuring with link := Link.reset }
    Measuring s ∧ s.link.tickOpen = none ∧ (s.head 0).state ≠ .off ∧ (s.head 1).state = .off := by
  decide +kernel

/-- What RequestsInOrder asks of a state with a 16-bit port, in a form that can be decided. -/
abbrev InOrderWide (s : State) : Prop :=
  s.requests.inService = none ∧ s.requests.queue.Nodup ∧ (∀ n, n ∈ s.requests.queue ↔ (s.slot n).state = .posted) ∧
    (heldSlots s).Nodup ∧ (∀ n, n ∈ heldSlots s ↔ (s.slot n).state = .active) ∧ s.port.wide = true

theorem requestsInOrder_wide {s : State} (h : InOrderWide s) : RequestsInOrder s :=
  ⟨h.1, h.2.1, h.2.2.1, h.2.2.2.1, h.2.2.2.2.1, fun hf => absurd h.2.2.2.2.2 (by simp [hf])⟩

/-- Head 0 is being calibrated for request slot 3, which is ACTIVE. -/
def calibratedFor (s : State) (count expected : Nat) : State :=
  (calibrated s count expected).setSlot 3 { state := .active, postMark := 1 }

/-- An ACTIVE head that loses its last tick, a JOINING head that completes, a calibration and a capture. -/
theorem witness_TickEventSettlesEveryHead :
    ∀ s ∈ [measuring, measuringWith (headIn .active 4 31) none, measuringWith (headIn .joining 3 0) (some sample), calibrating,
        capturing measuring],
      TickClosing s ∧ s.clock.tick ≠ 31 ∧
        (∀ h, (s.head h).state = .joining → (s.head h).join ≤ 3) ∧ ∀ h, (s.head h).state = .active → (s.head h).miss ≤ 31 := by
  decide +kernel

/-- The close ends calibrations (of a head that is lost, by an OVER frame) and completes a capture, or does neither. -/
theorem witness_TickEventSettlesEveryHead_writes :
    let loud := { sample with overFlag := true }
    let lost := calibratedFor (measuringWith (headIn .active 4 31) none) 5 9400
    let calOver := calibratedFor (measuringWith (headIn .active 4 0) (some loud)) 5 9400
    endedAtClose lost = [3] ∧ endedAtClose calOver = [3] ∧ endedAtClose calibrating = [] ∧
      completedBytes (capturing measuring) (after .captureComplete (capturing measuring)) =
        [(traceAddr 1 0, traceAddr 1 (16 + 4 + 1))] ∧ completedBytes measuring measuring = [] := by
  decide +kernel

/-- Three marks: head 0 is disabled with an open channel and a calibration that the mark aborts; it is disabled with one that is
due; head 1, which is OFF, is enabled while a calibration of head 0 completes. -/
theorem witness_TickEventSettlesEveryHead_mark :
    let v := { calibratedFor measuring 5 9400 with stage := .stepped }
    let off := v.pokeWords 0x0100 [0]
    let due := { (calibratedFor measuring 128 (rawLevel (2 ^ 30) + 500)).pokeWords 0x0100 [0] with stage := .stepped }
    let on := { (calibratedFor measuring 128 (rawLevel (2 ^ 30) + 501)).pokeWords 0x0110 [1] with stage := .stepped }
    (∀ s ∈ [v, off, due, on], s.stage = .stepped ∧ s.run = .measuring ∧ (heldSlots s).Nodup) ∧
    (LeavesAtMark off 0 ∧ cutAtMark off = [0] ∧ endedAtMark off = [3] ∧ (off.channel 0).isOpen = true) ∧
    (LeavesAtMark due 0 ∧ due.calibrationDue 0 = true ∧ calibratedTrim due 0 = some 500) ∧
    (EnabledAtMark on 1 ∧ on.calibrationDue 0 = true ∧ calibratedTrim on 0 = none ∧ endedAtMark on = [3]) := by
  decide +kernel

/-- A present tick, a join that completes, two calibration ticks (one with OVER), and gap ticks: no frame, a frame with FAULT, a head
that is LOST, and one that is lost while it is being calibrated. -/
theorem witness_TickEventCountsEveryChannel :
    let faulty := { sample with faultFlag := true }
    let loud := { sample with overFlag := true }
    let cal := calibratedFor measuring 5 9400
    let calOver := calibratedFor (measuringWith (headIn .active 4 0) (some loud)) 5 9400
    let calLost := calibratedFor (measuringWith (headIn .active 4 31) none) 5 9400
    (∀ s ∈ [measuring, measuringWith (headIn .joining 3 0) (some sample), measuringWith (headIn .active 4 0) none,
        measuringWith (headIn .active 4 0) (some faulty), measuringWith (headIn .lost 0 32) (some sample), cal, calOver, calLost],
      TickClosing s ∧ RequestsInOrder s ∧ (s.channel 0).isOpen = true ∧ (s.head 0).state ≠ .off) ∧
    (measuring.buffer 0 = some sample ∧ sample.faultFlag = false ∧ measuring.calibration 0 = none) ∧
    ((after .captureComplete (measuringWith (headIn .joining 3 0) (some sample))).head 0).state = .active ∧
    (cal.buffer 0 = some sample ∧ sample.overFlag = false ∧ (cal.calibration 0).isSome) ∧
    ((calLost.calibration 0).isSome ∧ Leaves calLost (after .captureComplete calLost) 0) ∧
    calOver.buffer 0 = some loud ∧ loud.overFlag = true ∧ loud.faultFlag = false ∧ (calOver.calibration 0).isSome := by
  refine ⟨?_, by decide +kernel, by decide +kernel, by decide +kernel, by decide +kernel, by decide +kernel⟩
  refine fun s hs => (fun h => ⟨h.1, requestsInOrder_wide h.2.1, h.2.2⟩ : TickClosing s ∧ InOrderWide s ∧
    (s.channel 0).isOpen = true ∧ (s.head 0).state ≠ .off → _) ?_
  revert s
  decide +kernel

/-- A begun tick event: SECOND_CLOSE leaves it past its second close, and each head's part carries it into the close, a
calibration's past the mark; STOP may find it there, before its mark and not begun. -/
theorem witness_TickEventPartsAddUp :
    let begun := after .secondClose lastTick
    let j := measuringWith (headIn .joining 3 0) (some sample)
    let l := measuringWith (headIn .active 4 31) none
    let c := calibratedFor measuring 127 9400
    (exec .secondClose lastTick = .next begun ∧ begun.stage = .secondClosed false ∧ begun.run = .measuring) ∧
    (∀ s ∈ [j, l, c], StoreCanonical s ∧ RequestsInOrder s) ∧
    (measuring.stage = .idle ∧ { measuring with stage := .marked }.stage = .marked ∧ begun.stage ≠ .idle ∧ begun.stage ≠ .marked) ∧
    (after (.joinComplete 0) j).stage ≠ .idle ∧ (after (.headLost 0) l).stage ≠ .idle ∧
    (after (.calibrationComplete 0) c).stage = .marked ∧ Instr.registerWrite .wctl true 0 = .registerWrite .wctl true 0 := by
  refine ⟨⟨exec_eq_after _ _ (by decide +kernel), by decide +kernel, by decide +kernel⟩, ?_, by decide +kernel, by decide +kernel⟩
  refine fun s hs => (fun h => ⟨h.1, requestsInOrder_wide h.2⟩ : s.store.wf = true ∧ InOrderWide s → _) ?_
  revert s
  decide +kernel

/-- Fifteen data characters after the wake character: mark 7, status 0, both energies 0, check character 0. -/
theorem witness_CompleteFrameIsClassified :
    let data : List LinkChar := { value := 7, wake := false, stopOk := true } ::
      List.replicate 14 { value := 0, wake := false, stopOk := true }
    Measuring measuring ∧ measuring.link.tickOpen = some 7 ∧ measuring.link.receiver = .quiet ∧
      (measuring.head 0).state ≠ .off ∧ data.length = 15 ∧ ∀ c ∈ data, c.wake = false := by
  decide +kernel

/-- The pieces of a frame: a wake character without its stop bit, the first and the fourteenth data character, and data characters in
QUIET. -/
theorem witness_ShortAndUnheardFrames_pieces :
    let w : LinkChar := { value := 0, wake := true, stopOk := false }
    let d : LinkChar := { value := 7, wake := false, stopOk := true }
    let col := fun n => { measuring with link := { measuring.link with receiver := .collecting 0 (List.replicate n 7) false } }
    (exec (.frame [w.onPair]) measuring = .next (after (.frame [w.onPair]) measuring) ∧
      (after (.frame [w.onPair]) measuring).link.receiver = .collecting 0 [] true) ∧
    (Measuring measuring ∧ measuring.link.tickOpen.isSome ∧ measuring.link.receiver = .quiet ∧ (measuring.head 0).state ≠ .off ∧
      w.wake = true ∧ w.value.toNat = (0 : Fin 12).val) ∧
    (∀ n ∈ [0, 13], Measuring (col n) ∧ (col n).link.tickOpen.isSome ∧ (List.replicate n (7 : Byte)).length < 14 ∧
      (col n).link.receiver = .collecting 0 (List.replicate n 7) false) ∧
    Ready measuring ∧ d.wake = false := by
  exact ⟨⟨rfl, by decide +kernel⟩, by decide +kernel⟩

/-- Each clause: a wake character past the head numbers, the last head number and an open head's, after characters with and without
their stop bits; the close of the tick; characters not heard for the run state and for a high start bit, and a
head that is OFF. -/
theorem witness_ShortAndUnheardFrames :
    let w : LinkChar := { value := 0xF0, wake := true, stopOk := true }
    let v : LinkChar := { value := 11, wake := true, stopOk := true }
    let d : LinkChar := { value := 7, wake := false, stopOk := true }
    let collecting := { measuring with link := { measuring.link with receiver := .collecting 0 [7, 0] false } }
    (Measuring measuring ∧ measuring.link.tickOpen.isSome ∧ measuring.link.receiver = .quiet ∧
      (measuring.head 0).state ≠ .off ∧ [d].length < 15 ∧ (∀ c ∈ [d], c.wake = false ∧ c.stopOk = true) ∧
      (∀ c ∈ [{ d with stopOk := false }], c.wake = false ∧ c.stopOk = false) ∧
      (∀ x ∈ [w, v], x.wake = true ∧ ∀ g : Fin 12, g.val = x.value.toNat → (measuring.head g).state = .off) ∧
      (0 : Fin 12).val = (0 : Byte).toNat) ∧
    (Measuring collecting ∧ collecting.link.tickOpen.isSome ∧ collecting.link.receiver = .collecting 0 [7, 0] false) ∧
    (Ready stopped ∧ stopped.run ≠ .measuring) ∧
    (Ready measuring ∧ ∀ p ∈ ([0x7FF, 0x401] : List PairChar), p.getLsbD 0 = true) ∧
    (v.wake = true ∧ ∀ h : Fin 12, h.val = v.value.toNat → (measuring.head h).state = .off) := by
  decide +kernel

/-! ## The statements' hypotheses: parts of a tick event -/

theorem witness_JoinCompleteMakesHeadActive :
    let s := measuringWith (headIn .joining 3 0) (some sample)
    TickClosing s ∧ (s.head 0).state = .joining ∧ (s.head 0).join = 3 ∧ s.buffer 0 = some sample ∧ s.calibration 0 = none := by
  decide +kernel

/-- No calibration and no capture, a calibration, a capture of the head. -/
theorem witness_HeadLostLeavesActive :
    let s := measuringWith (headIn .active 4 31) none
    (∀ x ∈ [s, calibrated s 5 9400, capturing s],
      TickClosing x ∧ (x.head 0).state = .active ∧ (x.head 0).miss = 31 ∧ x.buffer 0 = none) ∧
    s.calibration 0 = none ∧ ((calibrated s 5 9400).calibration 0).isSome ∧ s.trace.mode = .disarmed ∧
    (capturing s).trace.mode = .capturing capture := by
  decide +kernel

/-- 128 ticks of 2^30 give the raw level of 2^30; an expected level whose difference is in range and one that is not, for a head that
stays enabled and for one that is disabled at the mark. -/
theorem witness_CalibrationCompleteSetsTrim :
    ∀ x ∈ [rawLevel (2 ^ 30) + 500, rawLevel (2 ^ 30) + 501], ∀ s ∈ [calibrated measuring 127 x,
        allHeads.foldl (fun u h => u.pokeWords (0x0100 + 16 * h.val) [if h = 0 then 0 else 1]) (calibrated measuring 127 x)],
      TickClosing s ∧ s.clock.tick ≠ 31 ∧ (s.head 0).state = .active ∧ s.buffer 0 = some sample ∧
        sample.faultFlag = false ∧ sample.overFlag = false ∧ (s.channel 0).isOpen = true ∧
        (s.calibration 0).map Calibration.count = some 127 ∧ IsLowestFree s.records.list 0 ∧
        rawLevel (((s.calRecord 0).sum + BitVec.ofNat 72 sample.aEnergy).toNat / 128) = rawLevel (2 ^ 30) := by
  decide +kernel

theorem witness_CalibrationCompleteSetsTrim_disabled :
    let s := allHeads.foldl (fun u h => u.pokeWords (0x0100 + 16 * h.val) [if h = 0 then 0 else 1]) measuring
    s.peekWord (0x0100 + 16 * (0 : Fin 12).val) = 0 ∧ ∀ g : Fin 12, g ≠ 0 → s.peekWord (0x0100 + 16 * g.val) ≠ 0 := by
  decide +kernel

/-- A capture that goes on (two post samples to come) and one that completes. -/
theorem witness_CaptureCompleteListsTrace :
    ∀ k ∈ [1, 2], let c := { capture with postCounter := k }
      let s := { measuring with trace := { measuring.trace with mode := .capturing c } }
      TickClosing s ∧ s.trace.mode = .capturing c ∧ CaptureFits s c := by
  unfold CaptureFits
  decide +kernel

/-- Each part: before the close, within a second, and at tick 31 without a setting, with one, and with one and an adoption; an open
and a closed channel, a receptor in use and one that is not. -/
theorem witness_SecondCloseWritesLivePages :
    let u := { lastTick with stage := .captured, live := oneRule }
    let setting : ClockSetting := { day := 1, second := 86399, weekday := 6, slot := 3 }
    (TickClosing lastTick ∧ exec .captureComplete lastTick = .next (after .captureComplete lastTick)) ∧
    (∀ s ∈ [{ measuring with stage := .captured }, u, { u with clockSetting := some setting },
      { u with clockSetting := some setting, adoption := some 4 }], s.stage = .captured ∧ s.run = .measuring) ∧
    measuring.clock.tick ≠ 31 ∧ u.clock.tick = 31 ∧ (u.channel 0).isOpen = true ∧ (u.channel 1).isOpen = false ∧
    receptorInUse u.live 0 = true ∧ receptorInUse u.live 1 = false := by
  exact ⟨⟨by decide +kernel, exec_eq_after _ _ (by decide +kernel)⟩, by decide +kernel⟩

/-- Each part: before the second close, after an applied setting, no end due, and an ALIGNED end with and without a pending adoption,
with a record slot FREE and with every record slot FILLED. -/
theorem witness_PeriodEndBeginsNextPeriod :
    let v := { lastTick with stage := .secondClosed false }
    (TickClosing lastTick ∧ exec .secondClose lastTick = .next (after .secondClose lastTick)) ∧
    (let s := { lastTick with stage := .secondClosed true }; s.stage = .secondClosed true ∧ s.run = .measuring) ∧
    (∀ s ∈ [pastClose measuring, { v with period := { v.period with isOpen := false } },
        { v with clock := { v.clock with second := 898 } }],
      s.stage = .secondClosed false ∧ s.run = .measuring ∧ s.link.tickOpen.isSome ∧
        (s.clock.tick ≠ 31 ∨ s.period.isOpen = false ∨ s.clock.step.second % periodLength s.live ≠ 0)) ∧
    (∀ s ∈ [v, { v with adoption := some 3 }, { v with records := fullShelf.records }],
      s.stage = .secondClosed false ∧ s.run = .measuring ∧ s.link.tickOpen.isSome ∧ s.clock.tick = 31 ∧
        s.period.isOpen = true ∧ s.clock.step.second % periodLength s.live = 0) ∧
    openHeads v = [0] ∧ freeRecordSlots v ≠ [] ∧ freeRecordSlots { v with records := fullShelf.records } = [] := by
  exact ⟨⟨by decide +kernel, exec_eq_after _ _ (by decide +kernel)⟩, by decide +kernel⟩

/-! ## The statements' hypotheses: requests -/

theorem witness_StartAdoptsSetAndMeasures :
    let s := asked stopped 1 []
    Served s 0 .start ∧ s.run = .stopped ∧ validate s.staged = none := by
  decide +kernel

def parked : State := { measuring with run := .parked }

/-- MEASURING with every request that can be handed over: a calibration of head 0 in slot 3, an adoption in slot 4 and a clock
setting in slot 5; and with a capture in progress. -/
def handedOver : State :=
  let s := ((calibratedFor (capturing measuring) 5 9400).setSlot 4 { state := .active, postMark := 1 }).setSlot 5
    { state := .active, postMark := 1 }
  { s with adoption := some 4, clockSetting := some { day := 1, second := 2, weekday := 3, slot := 5 } }

/-- The same before the mark of a tick event, with the calibration's measurement complete (R178). -/
def beforeMark : State := { calibratedFor handedOver 128 (rawLevel (2 ^ 30) + 500) with stage := .stepped }

/-- In MEASURING with nothing handed over and with everything, between tick events and before a mark, and in PARKED. -/
theorem witness_StopEndsTheRun :
    (∀ s ∈ [measuring, handedOver, beforeMark],
      Served (asked s 2 []) 0 .stop ∧ s.run = .measuring ∧ s.period.isOpen = true) ∧
    RequestsInOrder (asked measuring 2 []) ∧ RequestsInOrder (asked handedOver 2 []) ∧ RequestsInOrder (asked beforeMark 2 []) ∧
    calibratedTrim (asked beforeMark 2 []) 0 = some 500 ∧
    CaptureFits (asked handedOver 2 []) capture ∧
    Served (asked parked 2 []) 0 .stop ∧ (asked parked 2 []).run = .parked ∧ (asked parked 2 []).trace.mode = .disarmed := by
  unfold CaptureFits
  exact ⟨by decide +kernel, requestsInOrder_wide (by decide +kernel), requestsInOrder_wide (by decide +kernel),
    requestsInOrder_wide (by decide +kernel), by decide +kernel⟩

theorem witness_ParkSuspendsTheRun :
    (∀ s ∈ [measuring, handedOver, beforeMark], Served (asked s 3 []) 0 .park ∧ s.run = .measuring) ∧
    RequestsInOrder (asked measuring 3 []) ∧ RequestsInOrder (asked handedOver 3 []) ∧ RequestsInOrder (asked beforeMark 3 []) ∧
    CaptureFits (asked handedOver 3 []) capture := by
  unfold CaptureFits
  exact ⟨by decide +kernel, requestsInOrder_wide (by decide +kernel), requestsInOrder_wide (by decide +kernel),
    requestsInOrder_wide (by decide +kernel), by decide +kernel⟩

theorem witness_UnparkResumesMeasuring :
    let s := asked parked 4 []
    Served s 0 .unpark ∧ s.run = .parked ∧ s.enabled 0 = true ∧ s.enabled 1 = false := by
  decide +kernel

/-- The last second of a day, in STOPPED and in MEASURING. -/
theorem witness_SetClockAppliesOrWaits :
    ∀ s ∈ [asked stopped 5 [9, 0x517F, 1, 6], asked measuring 5 [9, 0x517F, 1, 6]],
      Served s 0 .setClock ∧ s.param 0 3 + 65536 * s.param 0 4 = 86399 ∧ s.param 0 5 = 6 ∧ s.clockSetting = none := by
  decide +kernel

theorem witness_AdoptLimitsAdoptsOrWaits :
    ∀ s ∈ [asked stopped 6 [], asked measuring 6 []],
      Served s 0 .adoptLimits ∧ s.adoption = none ∧ validate s.staged = none := by
  decide +kernel

theorem witness_AdoptLimitsAdoptsOrWaits_refused :
    (Served (asked { stopped with adoption := some 3 } 6 []) 0 .adoptLimits) ∧
    Served (asked badStaged 6 []) 0 .adoptLimits ∧ badStaged.adoption = none ∧
    validate (asked badStaged 6 []).staged = some 0 := by
  decide +kernel

theorem witness_CalibrateStartsMeasurement :
    ∀ s ∈ [asked measuring 7 [0, 7000], asked measuring 7 [0, 12000]],
      Served s 0 .calibrate ∧ s.param 0 2 = 0 ∧ 7000 ≤ s.param 0 3 ∧ s.param 0 3 ≤ 12000 ∧ s.calibration 0 = none ∧
        (s.head 0).state = .active := by
  decide +kernel

/-- Each test at the first value that fails, then a calibration in progress and a head that is OFF. -/
theorem witness_CalibrateStartsMeasurement_refused :
    (∀ s ∈ [[12, 7000], [11, 6999], [11, 12001]].map (asked stopped 7), Served s 0 .calibrate) ∧
    (Served (asked calibrating 7 [0, 7000]) 0 .calibrate ∧ (calibrating.calibration 0).isSome) ∧
    Served (asked measuring 7 [11, 12000]) 0 .calibrate ∧ (measuring.head 11).state ≠ .active := by
  decide +kernel

/-- Trims -500 and 500, on an open channel and on a closed one. -/
theorem witness_LoadTrimReplacesTrim :
    ∀ s ∈ [[0, 0xFE0C], [0, 0x01F4], [11, 0xFE0C], [11, 0x01F4]].map (asked measuring 8),
      Served s 0 .loadTrim ∧ s.param 0 2 ≤ 11 ∧ -500 ≤ (s.requestWord 0 3).toInt ∧ (s.requestWord 0 3).toInt ≤ 500 ∧
        ∀ g, s.calibration g = none := by
  decide +kernel

theorem witness_LoadTrimReplacesTrim_refused :
    (∀ s ∈ [[12, 0], [11, 0x01F5], [11, 0xFE0B]].map (asked stopped 8), Served s 0 .loadTrim) ∧
    Served (asked calibrating 8 [0, 500]) 0 .loadTrim ∧ (calibrating.calibration 0).isSome := by
  decide +kernel

/-- Between two tick events, and within one at its tick close and before its period end. -/
theorem witness_SnapshotPostsRecord :
    ∀ x ∈ [.idle, .captured, .secondClosed false], let s := { asked measuring 9 [0x0FFF] with stage := x }
      Served s 0 .snapshot ∧ s.run = .measuring ∧ s.param 0 2 < 4096 ∧ IsLowestFree s.records.list 0 := by
  decide +kernel

theorem witness_DumpHistogramPostsRecord :
    ∀ x ∈ [.idle, .captured, .secondClosed false],
      let s := { asked { measuring with records := { RecordShelf.reset with list := [0] } } 10 [0] with stage := x }
      Served s 0 .dumpHistogram ∧ s.run = .measuring ∧ s.param 0 2 = 0 ∧ (s.channel 0).isOpen = true ∧
        IsLowestFree s.records.list 1 := by
  decide +kernel

theorem witness_ArmTraceAdoptsSettings :
    ∀ p ∈ [[1, 1, 1, 65, 0, 0], [2, 2, 3, 64, 441, 1]], let s := asked stopped 11 p
      Served s 0 .armTrace ∧ s.trace.mode = .disarmed ∧ (s.param 0 2 = 1 ∨ s.param 0 2 = 2) ∧
        (s.param 0 3 = 1 ∨ s.param 0 3 = 2) ∧ 1 ≤ s.param 0 4 ∧ s.param 0 4 ≤ 3 := by
  decide +kernel

theorem witness_ArmTraceAdoptsSettings_refused :
    (∀ s ∈ [[0], [3], [1, 0], [2, 3], [1, 1, 0], [2, 2, 4]].map (asked stopped 11),
      Served s 0 .armTrace ∧ s.trace.mode = .disarmed) ∧
    Served (asked (capturing measuring) 11 []) 0 .armTrace ∧ (capturing measuring).trace.mode = .capturing capture := by
  decide +kernel

theorem witness_DisarmTraceStopsTheTrace :
    (Served (asked measuring 12 []) 0 .disarmTrace ∧ (asked measuring 12 []).trace.mode = .disarmed) ∧
      Served (asked (capturing measuring) 12 []) 0 .disarmTrace ∧
      (asked (capturing measuring) 12 []).trace.mode = .capturing capture ∧
      CaptureFits (asked (capturing measuring) 12 []) capture := by
  unfold CaptureFits
  decide +kernel

/-- A trace that is ARMED with a FREE slot, ARMED with both slots FILLED, and CAPTURING. -/
theorem witness_TraceNowGivesATrigger :
    ∀ u ∈ [{ TraceUnit.reset with mode := .armed }, { TraceUnit.reset with mode := .armed, list := [1, 0] },
        { TraceUnit.reset with mode := .capturing capture }],
      let s := asked { measuring with live := oneRule, trace := u } 13 [0, 0]
      Served s 0 .traceNow ∧ s.run = .measuring ∧ s.trace.mode ≠ .disarmed ∧ s.param 0 2 ≤ 5 ∧
        receptorInUse s.live (s.param 0 2) = true ∧ s.param 0 3 ≤ 11 ∧
        s.param 0 3 ∈ (members s.live (s.param 0 2)).map Prod.fst := by
  decide +kernel

theorem witness_TraceNowGivesATrigger_refused :
    (∀ s ∈ [asked stopped 13 [], asked measuring 13 []], Served s 0 .traceNow ∧
      (s.run ≠ .measuring ∨ s.trace.mode = .disarmed)) ∧
    ∀ s ∈ [[6, 0], [1, 0], [0, 12], [0, 1]].map (asked armed 13), Served s 0 .traceNow ∧ s.run = .measuring ∧
      s.trace.mode ≠ .disarmed := by
  decide +kernel

theorem witness_ZeroHeadCountersClearsSelected :
    ∀ s ∈ [asked stopped 14 [0x0FFF], asked stopped 14 [0x1000]], Served s 0 .zeroHeadCounters ∧ s.param 0 2 ≤ 4096 := by
  decide +kernel

/-- Kinds 0 and 15, each with its mark and with another, and a START whose mark differs. -/
theorem witness_UnknownAndStrayRequestsAreAnswered :
    (∀ k ∈ [0, 15], let s := asked stopped k []
      let t := s.setSlot 0 { state := .posted, postMark := 2 }
      Oldest s 0 ∧ closeDone s = true ∧ ¬(1 ≤ (s.kindWord 0).toNat ∧ (s.kindWord 0).toNat ≤ 14) ∧
        (s.slot 0).postMark = s.tag 0 ∧ Oldest t 0 ∧ (t.slot 0).postMark ≠ t.tag 0) ∧
    let s := (asked stopped 1 []).setSlot 0 { state := .posted, postMark := 2 }
    Oldest s 0 ∧ stageFits .start s = true ∧ (s.kindWord 0).toNat = RequestKind.start.code ∧ (s.slot 0).postMark ≠ s.tag 0 := by
  decide +kernel

/-- Every clause about the run state. -/
theorem witness_RefusalsByStateChangeNothing :
    ∀ p ∈ [(asked measuring 1 [], RequestKind.start), (asked stopped 2 [], .stop), (asked stopped 3 [], .park),
      (asked measuring 4 [], .unpark), (asked stopped 9 [], .snapshot), (asked stopped 10 [], .dumpHistogram)],
      Served p.1 0 p.2 := by
  decide +kernel

/-- The clauses about a setting that waits, a channel that is closed and a shelf that is full. -/
theorem witness_RefusalsByStateChangeNothing_busy :
    (Served (asked settingWaits 5 [0, 0x517F, 1, 6]) 0 .setClock ∧ settingWaits.run = .measuring ∧
      settingWaits.clockSetting.isSome) ∧
    (Served (asked measuring 10 [11]) 0 .dumpHistogram ∧ (measuring.channel 11).isOpen = false) ∧
    (Served (asked fullShelf 10 [0]) 0 .dumpHistogram ∧ (fullShelf.channel 0).isOpen = true) ∧
    (∀ m, m ∈ fullShelf.records.list) ∧ Served (asked fullShelf 9 [0x0FFF]) 0 .snapshot := by
  decide +kernel

/-- Every clause, each at the first value that fails. -/
theorem witness_RefusalsByParameterChangeNothing :
    (Served (asked badStaged 1 []) 0 .start ∧ validate (asked badStaged 1 []).staged = some 0 ∧ badStaged.run = .stopped) ∧
    (∀ s ∈ [[0, 0x5180, 1], [0, 0x517F, 1, 7]].map (asked stopped 5), Served s 0 .setClock ∧
      (86399 < s.param 0 3 + 65536 * s.param 0 4 ∨ 6 < s.param 0 5)) ∧
    Served (asked measuring 9 [0x1000]) 0 .snapshot ∧ Served (asked measuring 10 [12]) 0 .dumpHistogram := by
  decide +kernel

/-! ## The statements' hypotheses: levels, evaluation, invariants -/

theorem witness_RawLevelFollowsLogTable : (255 < 256) ∧ (2 ≤ 3) ∧ (2 ^ 48 - 1 < 2 ^ 48) := by decide +kernel

theorem witness_WeightingStepNeverOvershoots : (8 = 57 ∨ 8 = 8) ∧ (3 < 300) ∧ (300 - 3) * 57 ≥ 256 ∧ (5 - 3) * 8 < 256 := by
  decide +kernel

/-- Each clause at a boundary value: the ends of the inner bins, a histogram with ticks and one without, both rows of windows. -/
theorem witness_DerivedLevelsFollowTheirRules :
    [2549, 2550, 2599, 10399, 10400, 10449, 10450].map histogramBin = [0, 1, 1, 157, 158, 158, 159] ∧
    0 < (countBin (Vector.replicate 160 0) 159).toList.sum ∧ (Vector.replicate 160 0).toList.sum = 0 ∧ 1 ≤ 28800 ∧
    displayWord (some 15000) = 0x1500 ∧ windowActive 0 1440 0x40 1439 6 = true ∧ windowActive 1320 420 0x40 0 0 = true := by
  decide +kernel

theorem witness_ReceptorValueIsLargestCorrected :
    receptorValue oneRule 0 (fun _ => some 7300) = some (7000, 0) ∧ receptorValue oneRule 0 (fun _ => none) = none := by
  decide +kernel

theorem witness_ValidationChecksEveryField :
    validate oneRule = none ∧ validate (oneRule.set 64 0x0101 |>.set 65 0x0401) = some 8 ∧
    validate (oneRule.set 1 5) = some 0 ∧ validate (oneRule.set 2 101) = some 1 ∧ validate (oneRule.set 17 5) = some 2 ∧
    validate (oneRule.set 56 1) = some 7 ∧ validate (oneRule.set 248 1) = some 31 := by
  decide +kernel

theorem witness_EventIsPostedOrWithheld :
    IsLowestFree (List.finRange 31 |>.map (Fin.castLE (by decide +kernel)) : List (Fin 32)) 31 ∧
      ∀ n, n ∈ (List.finRange 32 : List (Fin 32)) := by
  decide +kernel

/-- Rule 0 with its window active and not, its latch clear and a second maximum of 7300 on its one member. -/
theorem witness_EvaluationsJudgeByTheirKind_instant :
    let s := { measuring with live := oneRule }
    let t := s.setChannel 0 { s.channel 0 with sec := { SecondAcc.cleared with lafMax := some 7300 } }
    ruleInUse t.live 0 = true ∧ ruleMetric t.live 0 = some .lafmax ∧
      windowActive (ruleStart t.live 0) (ruleEnd t.live 0) (ruleDays t.live 0) (21600 / 60) 2 = true ∧
      windowActive (ruleStart t.live 0) (ruleEnd t.live 0) (ruleDays t.live 0) (21599 / 60) 2 = false ∧
      (t.rule 0).instLatch = false ∧
      receptorValue t.live (ruleReceptor t.live 0) (memberValue (secondMaximum t .lafmax)) = some (7000, 0) ∧
      RuleHolds (ruleCondition t.live 0) (ruleLimit t.live 0) (ruleMargin t.live 0) 7000 none := by
  unfold RuleHolds
  refine ⟨by decide +kernel, by decide +kernel, by decide +kernel, by decide +kernel, by decide +kernel, by decide +kernel, ?_⟩
  exact .inr (.inl (by decide +kernel))

/-- The same rule as an LAEQ rule, in an open period whose start minute is active, with a sum of 28 800 ticks of 2^30 on its
member: certain and covered. -/
theorem witness_EvaluationsJudgeByTheirKind :
    let live := (oneRule.set 65 0x0100).set 66 0
    let s := { measuring with live := live }
    let acc := { PeriodAcc.cleared with sum := BitVec.ofNat 72 (28800 * 2 ^ 30), present := 28800 }
    let t := s.setChannel 0 { s.channel 0 with acc := acc }
    (ruleInUse live 0 = true ∧ ruleMetric live 0 = some .laeq ∧ ruleCondition live 0 = 2 ∧ t.period.isOpen = true ∧
      (t.rule 0).certLatch = false ∧
      windowActive (ruleStart live 0) (ruleEnd live 0) (ruleDays live 0) (t.period.startSecond / 60) 2 = true) ∧
    receptorValue live 0 (memberValue (countedFloor t)) = some (rawLevel (2 ^ 30) - 300, 0) ∧
    receptorValue live 0 (memberValue (coveredValue t 900 .laeq)) = some (rawLevel (2 ^ 30) - 300, 0) ∧
    receptorValue live 0 (memberValue (coveredValue s 900 .laeq)) = none ∧ ruleInUse live 1 = false := by
  decide +kernel

/-- The state that the invariants' witnesses start from: STARTING over, one command waiting. -/
def waiting : State := { State.reset with pending := [.endOfStarting] }

theorem waiting_steps : ∃ t, step waiting = .next t := ⟨_, rfl⟩

theorem witness_StepKeepsStoreCanonical : StoreCanonical waiting ∧ ∃ t, step waiting = .next t := ⟨rfl, waiting_steps⟩

theorem witness_StepKeepsRegistersInRange : RegistersInRange waiting ∧ ∃ t, step waiting = .next t := by
  refine ⟨⟨?_, ?_, ?_, by decide +kernel, by decide +kernel, by decide +kernel, nofun, ?_, by decide +kernel⟩, waiting_steps⟩
  · have none_there : ∀ g, waiting.buffer g = none := by decide +kernel
    intro h f hf
    exact absurd hf (by simp [none_there h])
  · unfold EnergiesInRange
    decide +kernel
  · decide +kernel
  · unfold HeadInRange
    decide +kernel

theorem witness_LiveLimitSetAlwaysPassesValidation : LimitsValid waiting ∧ ∃ t, step waiting = .next t := by
  refine ⟨⟨?_, nofun⟩, waiting_steps⟩
  decide +kernel

theorem witness_StepKeepsRequestsInOrder :
    let s := { asked measuring 2 [] with pending := [.stop] }
    RequestsInOrder s ∧ ∃ t, step s = .next t :=
  ⟨requestsInOrder_wide (by decide +kernel), _, rfl⟩

theorem witness_StepKeepsShelvesInOrder : ShelvesInOrder waiting ∧ ∃ t, step waiting = .next t := by
  refine ⟨⟨by decide +kernel, by decide +kernel, by decide +kernel, by decide +kernel, by decide +kernel, by decide +kernel, nofun⟩, waiting_steps⟩

theorem witness_StepKeepsChannelCountsInAgreement : ChannelsAgree waiting ∧ ∃ t, step waiting = .next t := by
  refine ⟨?_, waiting_steps⟩
  unfold ChannelsAgree CountsAgree
  decide +kernel

theorem witness_StepKeepsPartAtRestOutsideMeasuring : MeasuresOnlyMeasuring waiting ∧ ∃ t, step waiting = .next t := by
  refine ⟨⟨fun _ => ⟨by decide +kernel, by decide +kernel, by decide +kernel, by decide +kernel, ?_, ?_, ?_, by decide +kernel, by decide +kernel, nofun⟩, ?_, ?_, by decide +kernel⟩, waiting_steps⟩ <;> decide +kernel

end Sys2Proof.Tests
end

section
/-! PROOFS. Level arithmetic (01_level_arithmetic.md): the log table and the raw level (R3 to R5), the weighting step (R8, R9),
the histogram scan (R15) and the levels derived from them. -/

namespace Sys2Proof.Machine

open Sys2Proof

/-! ## The log table and the raw level -/

theorem length_logTable : Config.logTable.length = 256 := by decide +kernel

theorem logEntry_eq {f : Nat} (hf : f < Config.logTable.length) : logEntry f = Config.logTable[f] :=
  List.getD_eq_getElem _ _ hf

/-- R4's rounding at every entry with its index, by evaluation along the table. -/
theorem logTable_rounded : ∀ p ∈ Config.logTable.zipIdx,
    2 ^ (2 * p.1 + 4095) ≤ (256 + p.2) ^ 512 ∧ (256 + p.2) ^ 512 < 2 ^ (2 * p.1 + 4097) := by decide +kernel

theorem logTable_rising : Config.logTable.IsChain (· ≤ ·) := by decide +kernel

theorem logEntry_rounded {f : Nat} (hf : f < 256) :
    2 ^ (2 * logEntry f + 4095) ≤ (256 + f) ^ 512 ∧ (256 + f) ^ 512 < 2 ^ (2 * logEntry f + 4097) := by
  have hlt : f < Config.logTable.length := by rwa [length_logTable]
  have hmem : (logEntry f, f) ∈ Config.logTable.zipIdx := by
    rw [logEntry_eq hlt]
    exact List.mk_mem_zipIdx_iff_getElem?.mpr (List.getElem?_eq_getElem hlt)
  simpa only using logTable_rounded _ hmem

theorem logEntry_255 : logEntry 255 = 255 := by decide +kernel

theorem logEntry_mono {f g : Nat} (hfg : f ≤ g) (hg : g ≤ 255) : logEntry f ≤ logEntry g := by
  have hlt : g < Config.logTable.length := by rw [length_logTable]; omega
  rcases hfg.lt_or_eq with h | rfl
  · rw [logEntry_eq hlt, logEntry_eq (h.trans hlt)]
    exact List.pairwise_iff_getElem.mp logTable_rising.pairwise f g (h.trans hlt) hlt h
  · rfl

theorem logEntry_le {f : Nat} (hf : f ≤ 255) : logEntry f ≤ 255 := logEntry_255 ▸ logEntry_mono hf le_rfl

theorem pow_exponent_le {e : Nat} (he : e ≠ 0) : 2 ^ exponent e ≤ e := Nat.log2_self_le he

theorem lt_pow_exponent_succ (e : Nat) : e < 2 ^ (exponent e + 1) := Nat.lt_log2_self

theorem exponent_mono {a b : Nat} (ha : a ≠ 0) (hab : a ≤ b) : exponent a ≤ exponent b :=
  (Nat.le_log2 (by omega)).mpr ((pow_exponent_le ha).trans hab)

/-- An energy scaled so that its highest set bit stands at position 8 (R3): the mantissa fraction is what lies above 256. -/
def scaledEnergy (k e : Nat) : Nat := if 8 ≤ k then e / 2 ^ (k - 8) else e * 2 ^ (8 - k)

theorem mantissa_eq (e : Nat) : mantissa e = scaledEnergy (exponent e) e - 256 := by
  unfold mantissa scaledEnergy
  split <;> rfl

theorem scaledEnergy_mono (k : Nat) {a b : Nat} (hab : a ≤ b) : scaledEnergy k a ≤ scaledEnergy k b := by
  unfold scaledEnergy
  split
  · exact Nat.div_le_div_right hab
  · exact Nat.mul_le_mul_right _ hab

theorem scaledEnergy_bounds {e : Nat} (he : e ≠ 0) :
    256 ≤ scaledEnergy (exponent e) e ∧ scaledEnergy (exponent e) e < 512 := by
  have low := pow_exponent_le he
  have high := lt_pow_exponent_succ e
  unfold scaledEnergy
  generalize exponent e = k at low high
  split
  · have hk : 2 ^ k = 256 * 2 ^ (k - 8) := by rw [show k = 8 + (k - 8) by omega, pow_add]; simp
    have hp : 0 < 2 ^ (k - 8) := Nat.two_pow_pos _
    exact ⟨(Nat.le_div_iff_mul_le hp).mpr (hk ▸ low), (Nat.div_lt_iff_lt_mul hp).mpr (by rw [pow_succ] at high; omega)⟩
  · have hk : 2 ^ k * 2 ^ (8 - k) = 256 := by rw [← pow_add, show k + (8 - k) = 8 by omega]; rfl
    have hp : 0 < 2 ^ (8 - k) := Nat.two_pow_pos _
    exact ⟨hk ▸ Nat.mul_le_mul_right _ low, by
      calc e * 2 ^ (8 - k) < 2 ^ (k + 1) * 2 ^ (8 - k) := Nat.mul_lt_mul_of_pos_right high hp
        _ = 512 := by rw [pow_succ, mul_right_comm, hk]; rfl⟩

theorem mantissa_le {e : Nat} (he : e ≠ 0) : mantissa e ≤ 255 := by
  have := scaledEnergy_bounds he
  rw [mantissa_eq]
  omega

theorem rawLevel_of_ne_zero {e : Nat} (he : e ≠ 0) :
    rawLevel e = ((256 * exponent e + logEntry (mantissa e)) * 30103 + 12800) / 25600 := if_neg he

/-- The base-2 logarithm of R5, in 256ths, does not fall as the energy rises: within one exponent the table is monotone, and
between exponents no entry of the table exceeds 255. -/
theorem log256_mono {a b : Nat} (ha : a ≠ 0) (hab : a ≤ b) :
    256 * exponent a + logEntry (mantissa a) ≤ 256 * exponent b + logEntry (mantissa b) := by
  have hb : b ≠ 0 := by omega
  rcases (exponent_mono ha hab).lt_or_eq with hlt | heq
  · have := logEntry_le (mantissa_le ha)
    omega
  · have hm : mantissa a ≤ mantissa b := by
      rw [mantissa_eq, mantissa_eq, heq]
      exact Nat.sub_le_sub_right (scaledEnergy_mono _ hab) _
    have := logEntry_mono hm (mantissa_le hb)
    omega

theorem rawLevel_mono {a b : Nat} (hab : a ≤ b) : rawLevel a ≤ rawLevel b := by
  rcases eq_or_ne a 0 with rfl | ha
  · exact Nat.zero_le _
  · rw [rawLevel_of_ne_zero ha, rawLevel_of_ne_zero (by omega)]
    have := log256_mono ha hab
    exact Nat.div_le_div_right (by omega)

theorem rawLevel_maxEnergy : rawLevel (2 ^ 48 - 1) = 14448 := by decide +kernel

/-- Settles O46: the table by evaluation, the raw level's form from the bounds of the scaled energy, its monotony from that of
the logarithm, and its range from both ends. -/
theorem rawLevelFollowsLogTable : Obligations.RawLevelFollowsLogTable := by
  refine ⟨fun _ => logEntry_rounded, fun f hf => logEntry_mono f.le_succ hf, rfl, logEntry_255, fun e he => ?_,
    fun a b => rawLevel_mono, fun e he => ?_, rawLevel_maxEnergy, rfl, rfl⟩
  · have he : e ≠ 0 := by omega
    refine ⟨exponent e, mantissa e, pow_exponent_le he, lt_pow_exponent_succ e, mantissa_le he, fun hk => ?_, fun hk => ?_,
      rawLevel_of_ne_zero he⟩
    · simp [mantissa_eq, scaledEnergy, hk]
    · simp [mantissa_eq, scaledEnergy, Nat.not_le.mpr hk]
  · exact rawLevel_maxEnergy ▸ rawLevel_mono (Nat.le_sub_one_of_lt he)

/-! ## The weighting step -/

/-- R8 in full: the step never falls below 0, so that no energy is lost to the natural numbers. -/
theorem weightStep_cast {w : Nat} (hw : w = 57 ∨ w = 8) (r e : Nat) :
    (weightStep w r e : Int) = r + ((e : Int) - r) * w / 256 := by
  unfold weightStep
  rcases hw with rfl | rfl <;> omega

/-- A step upward does not pass the tick energy, and is no step at all when the weighted difference is below 256 (R9). -/
theorem weightStep_up {w r e : Nat} (hw : w = 57 ∨ w = 8) (h : r < e) :
    r ≤ weightStep w r e ∧ weightStep w r e ≤ e ∧ ((e - r) * w < 256 → weightStep w r e = r) := by
  have := weightStep_cast hw r e
  rcases hw with rfl | rfl <;> omega

/-- A step downward does not pass the tick energy and lowers the running energy by at least 1 (R9). -/
theorem weightStep_down {w r e : Nat} (hw : w = 57 ∨ w = 8) (h : e < r) :
    e ≤ weightStep w r e ∧ weightStep w r e + 1 ≤ r := by
  have := weightStep_cast hw r e
  rcases hw with rfl | rfl <;> omega

theorem weightStep_self {w : Nat} (hw : w = 57 ∨ w = 8) (r : Nat) : weightStep w r r = r := by
  have := weightStep_cast hw r r
  rcases hw with rfl | rfl <;> omega

/-- Settles O47, a clause for each row of R9. -/
theorem weightingStepNeverOvershoots : Obligations.WeightingStepNeverOvershoots :=
  fun _ r e hw => ⟨weightStep_cast hw r e, weightStep_up hw, weightStep_down hw, weightStep_self hw r⟩

/-- A weighting step stays below what bounds the running energy and the tick energy. -/
theorem weightStep_le {w r e m : Nat} (hw : w = 57 ∨ w = 8) (hr : r ≤ m) (he : e ≤ m) : weightStep w r e ≤ m := by
  rcases lt_trichotomy r e with h | rfl | h
  · exact (weightStep_up hw h).2.1.trans he
  · exact (weightStep_self hw r).trans_le hr
  · exact (Nat.le_succ _).trans ((weightStep_down hw h).2.trans hr)

/-! ## The histogram scan -/

/-- The bins of a list of counts, the last first. -/
def countsDown (counts : List Nat) : List (Nat × Nat) := (List.zip (List.range counts.length) counts).reverse

theorem binsDown_eq (h : Vector Nat 160) : binsDown h = countsDown h.toList := by simp [binsDown, countsDown]

theorem countsDown_append (counts : List Nat) (k : Nat) :
    countsDown (counts ++ [k]) = (counts.length, k) :: countsDown counts := by
  simp [countsDown, List.range_succ, List.zip_append]

/-- The counts from bin b up, on top of a running count c, reach n percent of the total (R15). -/
def ReachesPercent (n total c : Nat) (counts : List Nat) (b : Nat) : Prop := n * total ≤ (c + (counts.drop b).sum) * 100

/-- The scan of R15 stops at the highest bin from which the counts reach n percent of the total, where one does. -/
theorem scanDown_countsDown {n total : Nat} {counts : List Nat} {c : Nat} (hne : counts ≠ [])
    (hall : n * total ≤ (c + counts.sum) * 100) :
    ∃ b < counts.length, scanDown n total (countsDown counts) c = some b ∧ ReachesPercent n total c counts b ∧
      ∀ b', b < b' → b' < counts.length → ¬ReachesPercent n total c counts b' := by
  induction counts using List.reverseRecOn generalizing c with
  | nil => exact absurd rfl hne
  | append_singleton counts k ih =>
    rw [countsDown_append, scanDown]
    by_cases hstop : n * total ≤ (c + k) * 100
    · refine ⟨counts.length, by simp, if_pos hstop, by simpa [ReachesPercent] using hstop, fun b' hb hb' => ?_⟩
      simp at hb'
      omega
    · simp only [List.sum_append, List.sum_singleton] at hall
      have hne : counts ≠ [] := by
        rintro rfl
        simp at hall
        omega
      have dropped : ∀ b ≤ counts.length,
          (ReachesPercent n total c (counts ++ [k]) b ↔ ReachesPercent n total (c + k) counts b) := by
        intro b hb
        rw [ReachesPercent, ReachesPercent, List.drop_append_of_le_length hb, List.sum_append, List.sum_singleton,
          add_right_comm, add_assoc c]
      obtain ⟨b, hb, hscan, hreach, hlast⟩ := ih (c := c + k) hne (by omega)
      refine ⟨b, by simp; omega, (if_neg hstop).trans hscan, (dropped b hb.le).mpr hreach, fun b' hb' hlt => ?_⟩
      have hle : b' ≤ counts.length := by simp at hlt; omega
      rw [dropped b' hle]
      rcases hle.lt_or_eq with hlt | rfl
      · exact hlast b' hb' hlt
      · simpa [ReachesPercent] using hstop

/-- LAN of a histogram with present ticks (R15): the lower edge of the highest bin from which the counts reach N percent. -/
theorem percentile_of_pos {h : Vector Nat 160} {n present : Nat} (hn : n ≤ 100) (hsum : h.toList.sum = present)
    (hpos : 0 < present) :
    ∃ b ≤ 159, percentile n h present = some (2500 + 50 * b) ∧ ReachesPercent n present 0 h.toList b ∧
      ∀ c, b < c → c ≤ 159 → ¬ReachesPercent n present 0 h.toList c := by
  have hlen : h.toList.length = 160 := by simp
  have hall : n * present ≤ (0 + h.toList.sum) * 100 := by
    rw [hsum, zero_add, mul_comm]
    exact Nat.mul_le_mul_left _ hn
  obtain ⟨b, hb, hscan, hreach, hlast⟩ := scanDown_countsDown (List.ne_nil_of_length_pos (by omega)) hall
  refine ⟨b, by omega, ?_, hreach, fun c hbc hc => hlast c hbc (by omega)⟩
  rw [percentile, if_neg (by omega), binsDown_eq, hscan]
  rfl

/-- The scan for the larger share of the ticks stops no higher. -/
theorem percentile_bin_anti {h : Vector Nat 160} {m n a b : Nat} (hmn : m ≤ n) (ha : a ≤ 159)
    (hreach : ReachesPercent n h.toList.sum 0 h.toList a)
    (hlast : ∀ c, b < c → c ≤ 159 → ¬ReachesPercent m h.toList.sum 0 h.toList c) : a ≤ b := by
  by_contra hlt
  exact hlast a (by omega) ha ((Nat.mul_le_mul_right _ hmn).trans hreach)

/-! ## Bins, head levels, the display word and the window test -/

/-- A bin between the two end bins holds the fifty levels from its lower edge on (R14); the end bins take what lies beyond. -/
theorem histogramBin_holds (f : Nat) : histogramBin f ≤ 159 ∧ (f < 2550 → histogramBin f = 0) ∧
    (10450 ≤ f → histogramBin f = 159) ∧
    ∀ b, 1 ≤ b → b ≤ 158 → (histogramBin f = b ↔ 2500 + 50 * b ≤ f ∧ f ≤ 2549 + 50 * b) := by
  unfold histogramBin
  refine ⟨by omega, by omega, by omega, fun b _ _ => by omega⟩

theorem headLevel_cast (e : Nat) (t : Int) : (headLevel e t : Int) = max 0 (min 15000 (rawLevel e + t)) := by
  unfold headLevel clampLevel
  omega

theorem headLevel_mono {a b : Nat} (t : Int) (hab : a ≤ b) : headLevel a t ≤ headLevel b t := by
  have := rawLevel_mono hab
  have := headLevel_cast a t
  have := headLevel_cast b t
  omega

/-- A mean over more ticks of the same sum has no higher level: so the floor-Leq stays below the LAeq (R16). -/
theorem floorLeq_le {sum present planned : Nat} (t : Int) (hpos : 0 < present) (hle : present ≤ planned) :
    floorLeq sum planned t ≤ headLevel (sum / present) t := headLevel_mono t (Nat.div_le_div_left hle hpos)

/-- Four decimal digits packed into the four hexadecimal places of a word are read back place by place. -/
theorem toNat_packedDigits {a b c d : Nat} (ha : a ≤ 9) (hb : b ≤ 9) (hc : c ≤ 9) (hd : d ≤ 9) :
    (BitVec.ofNat 16 (a * 4096 + b * 256 + c * 16 + d)).toNat / 4096 = a ∧
    (BitVec.ofNat 16 (a * 4096 + b * 256 + c * 16 + d)).toNat / 256 % 16 = b ∧
    (BitVec.ofNat 16 (a * 4096 + b * 256 + c * 16 + d)).toNat / 16 % 16 = c ∧
    (BitVec.ofNat 16 (a * 4096 + b * 256 + c * 16 + d)).toNat % 16 = d := by
  rw [BitVec.toNat_ofNat, Nat.mod_eq_of_lt (by omega)]
  omega

/-- A number below 10000 is the sum of its four decimal digits by place. -/
theorem sum_of_digits {d : Nat} (hd : d < 10000) :
    d / 1000 % 10 * 1000 + d / 100 % 10 * 100 + d / 10 % 10 * 10 + d % 10 = d := by
  have hundreds : d / 100 = d / 10 / 10 := (Nat.div_div_eq_div_mul d 10 10).symm
  have thousands : d / 1000 = d / 10 / 10 / 10 := by rw [← hundreds, Nat.div_div_eq_div_mul]
  omega

theorem displayWord_digits {l : Nat} (hl : l ≤ 15000) : let w := (displayWord (some l)).toNat
    w / 4096 ≤ 9 ∧ w / 256 % 16 ≤ 9 ∧ w / 16 % 16 ≤ 9 ∧ w % 16 ≤ 9 ∧
    w / 4096 * 1000 + w / 256 % 16 * 100 + w / 16 % 16 * 10 + w % 16 = (l + 5) / 10 := by
  have digit : ∀ n, n % 10 ≤ 9 := fun n => by omega
  obtain ⟨h3, h2, h1, h0⟩ := toNat_packedDigits (digit ((l + 5) / 10 / 1000)) (digit ((l + 5) / 10 / 100))
    (digit ((l + 5) / 10 / 10)) (digit ((l + 5) / 10))
  simp only [displayWord, h3, h2, h1, h0]
  exact ⟨digit _, digit _, digit _, digit _, sum_of_digits (by omega)⟩

/-- R110, a window within one day. -/
theorem windowActive_of_lt {start stop : Nat} (days : Word) (m w : Nat) (h : start < stop) :
    windowActive start stop days m w = true ↔ start ≤ m ∧ m < stop ∧ days.getLsbD w = true := by
  simp [windowActive, h, and_assoc]

/-- R110, a window over midnight: its second part belongs to the day before. -/
theorem windowActive_of_gt {start stop : Nat} (days : Word) (m w : Nat) (h : stop < start) :
    windowActive start stop days m w = true ↔
      (start ≤ m ∧ days.getLsbD w = true) ∨ (m < stop ∧ days.getLsbD ((w + 6) % 7) = true) := by
  simp [windowActive, Nat.not_lt.mpr h.le]

/-- Settles O48, a clause for each derived level from its own lemma above. -/
theorem derivedLevelsFollowTheirRules : Obligations.DerivedLevelsFollowTheirRules := by
  refine ⟨histogramBin_holds, fun h n present hn hsum => ⟨fun h0 => by simp [percentile, h0], fun hpos => ?_⟩,
    fun h hpos => ?_, headLevel_cast, fun sum present planned t => ⟨rfl, rfl, floorLeq_le t⟩, rfl,
    fun l hl => displayWord_digits hl,
    fun start stop days m w => ⟨windowActive_of_lt days m w, windowActive_of_gt days m w⟩⟩
  · obtain ⟨b, hb, hscan, hreach, hlast⟩ := percentile_of_pos (n := n) (by omega) hsum hpos
    exact ⟨b, hb, hscan, by simpa [ReachesPercent] using hreach,
      fun c hbc hc => by simpa [ReachesPercent] using hlast c hbc hc⟩
  · obtain ⟨a, ha, hscan90, hreach90, -⟩ := percentile_of_pos (n := 90) (by omega) rfl hpos
    obtain ⟨b, hb, hscan10, -, hlast10⟩ := percentile_of_pos (n := 10) (by omega) rfl hpos
    exact ⟨a, b, percentile_bin_anti (by omega) ha hreach90 hlast10, hb, hscan90, hscan10⟩

end Sys2Proof.Machine
end

section
/-! PROOFS. Every step keeps the registers in their ranges (R2, R12, R37, R41, R49, R79, R183): the ranges as one predicate with a
named part per register, one lemma per operation in the order of the model, and the step at the end. -/

namespace Sys2Proof.Machine

open Sys2Proof

/-- The calibration in progress is the head's record, and says so. -/
theorem calibration_eq_some {s : State} {h : Fin 12} {c : Calibration} :
    s.calibration h = some c ↔ s.calRecord h = c ∧ c.inProgress = true := by
  unfold State.calibration
  split
  · next hp => exact ⟨fun e => by cases e; exact ⟨rfl, hp⟩, fun ⟨e, _⟩ => congrArg some e⟩
  · next hp => exact ⟨nofun, fun ⟨e, hc⟩ => absurd (e ▸ hc) hp⟩

/-! ## The ranges of the single registers -/

/-- The energies of a frame have 48 bits (R2, R183). -/
def FrameInRange (f : Frame) : Prop := f.aEnergy ≤ maxEnergy ∧ f.cPeak ≤ maxEnergy

/-- A calibration's sum holds no more than its count of energies (R12, R71). -/
def CalibrationInRange (c : Calibration) : Prop := c.sum.toNat ≤ c.count * maxEnergy

/-- Site time in its range (R41). -/
def ClockInRange (c : Clock) : Prop := c.tick ≤ 31 ∧ c.second ≤ 86399 ∧ c.weekday ≤ 6

/-- A pending clock setting passed the checks of R49. -/
def SettingInRange (x : ClockSetting) : Prop := x.second ≤ 86399 ∧ x.weekday ≤ 6

/-- Bit 0 of WADR is held at 0 in 16-bit mode (R79). -/
def WadrAligned (p : Port) : Prop := p.wide = true → p.wadr.getLsbD 0 = false

/-- `RegistersInRange` with its parts named. -/
structure RegisterRanges (s : State) : Prop where
  buffers : ∀ h f, s.buffer h = some f → FrameInRange f
  channels : ∀ h, EnergiesInRange (s.channel h)
  calibrations : ∀ h, CalibrationInRange (s.calRecord h)
  clock : ClockInRange s.clock
  setting : ∀ x, s.clockSetting = some x → SettingInRange x
  heads : ∀ h, HeadInRange (s.head h)
  port : WadrAligned s.port

theorem registersInRange_iff {s : State} : RegistersInRange s ↔ RegisterRanges s := by
  constructor
  · rintro ⟨buffers, channels, calibrations, tick, second, weekday, setting, heads, port⟩
    exact ⟨buffers, channels, calibrations, ⟨tick, second, weekday⟩, setting, heads, port⟩
  · rintro ⟨buffers, channels, calibrations, ⟨tick, second, weekday⟩, setting, heads, port⟩
    exact ⟨buffers, channels, calibrations, tick, second, weekday, setting, heads, port⟩

/-! ## Energies, channels, calibrations, heads, clock and port register by themselves -/

theorem energyOf_lt (bs : List Byte) : energyOf bs < 256 ^ bs.length := by
  induction bs with
  | nil => simp [energyOf]
  | cons b bs ih =>
    have hb := b.isLt
    rw [energyOf, List.length_cons, pow_succ]
    omega

/-- Six characters spell an energy of at most 48 bits (R20). -/
theorem energyOf_six_le {bs : List Byte} (h : bs.length ≤ 6) : energyOf bs ≤ maxEnergy := by
  have hlt := energyOf_lt bs
  have hpow : 256 ^ bs.length ≤ 256 ^ 6 := Nat.pow_le_pow_right (by decide) h
  unfold maxEnergy
  omega

theorem frameOf_inRange (chars : List Byte) : FrameInRange (frameOf chars) :=
  ⟨energyOf_six_le (List.length_take_le ..), energyOf_six_le (List.length_take_le ..)⟩

/-- One more energy on a sum that holds n energies. -/
theorem energySum_add_le {sum : EnergySum} {n e : Nat} (hs : sum.toNat ≤ n * maxEnergy) (he : e ≤ maxEnergy) :
    (sum + BitVec.ofNat 72 e).toNat ≤ (n + 1) * maxEnergy := by
  have hadd : (sum + BitVec.ofNat 72 e).toNat ≤ sum.toNat + e := by
    rw [BitVec.toNat_add, BitVec.toNat_ofNat, Nat.add_mod_mod]
    exact Nat.mod_le ..
  rw [Nat.succ_mul]
  omega

theorem CalibrationInRange.feed {c : Calibration} (hc : CalibrationInRange c) {e : Nat} (he : e ≤ maxEnergy) :
    CalibrationInRange { c with count := c.count + 1, sum := c.sum + BitVec.ofNat 72 e } := energySum_add_le hc he

section Channels

variable {ch : Channel} (hch : EnergiesInRange ch)
include hch

theorem EnergiesInRange.presentTick {f : Frame} (hf : FrameInRange f) (trim : Int) (offset : Nat) :
    EnergiesInRange (ch.presentTick f trim offset) := by
  obtain ⟨fast, slow, sec, acc⟩ := hch
  exact ⟨weightStep_le (.inl rfl) fast hf.1, weightStep_le (.inr rfl) slow hf.1, energySum_add_le sec hf.1,
    energySum_add_le acc hf.1⟩

theorem EnergiesInRange.gapTick (outcome : Option Frame) (active : Bool) : EnergiesInRange (ch.gapTick outcome active) := hch

theorem EnergiesInRange.calibrationTick (outcome : Option Frame) : EnergiesInRange (ch.calibrationTick outcome) := hch

/-- Cleared second accumulators hold no energy (R61, R67). -/
theorem EnergiesInRange.clearSecond : EnergiesInRange { ch with sec := SecondAcc.cleared } := by
  obtain ⟨fast, slow, -, acc⟩ := hch
  exact ⟨fast, slow, Nat.zero_le _, acc⟩

theorem EnergiesInRange.closed : EnergiesInRange ch.closed := by
  obtain ⟨fast, slow, -, -⟩ := hch
  exact ⟨fast, slow, Nat.zero_le _, Nat.zero_le _⟩

theorem EnergiesInRange.opened (isPartial cutBefore : Bool) : EnergiesInRange (ch.opened isPartial cutBefore) := by
  obtain ⟨fast, slow, -, -⟩ := hch
  exact ⟨fast, slow, Nat.zero_le _, Nat.zero_le _⟩

/-- Running energies seeded by a frame (R10). -/
theorem EnergiesInRange.seeded {f : Frame} (hf : FrameInRange f) :
    EnergiesInRange { ch with fast := f.aEnergy, slow := f.aEnergy } := by
  obtain ⟨-, -, sec, acc⟩ := hch
  exact ⟨hf.1, hf.1, sec, acc⟩

end Channels

theorem saturate_le (n : Nat) : saturate n ≤ 65535 := Nat.min_le_right ..

section Heads

variable {x : Head} (hx : HeadInRange x)
include hx

/-- A state, a join count and a miss count of a head, with its returning flag, changed within their ranges. -/
theorem HeadInRange.move {join miss : Nat} (hjoin : join ≤ 4) (hmiss : miss ≤ 32) (state : HeadState) (returning : Bool) :
    HeadInRange { x with state := state, join := join, miss := miss, returning := returning } := by
  obtain ⟨_, _, counters⟩ := hx
  exact ⟨hjoin, hmiss, counters⟩

theorem HeadInRange.restarted (state : HeadState) : HeadInRange (x.restarted state) :=
  hx.move (by decide) (by decide) state false

theorem HeadInRange.setTrim {t : Int} (ht : -500 ≤ t ∧ t ≤ 500) : HeadInRange { x with trim := t } := by
  obtain ⟨join, miss, good, framing, short, check, stale, duplicate, _⟩ := hx
  exact ⟨join, miss, good, framing, short, check, stale, duplicate, ht⟩

theorem HeadInRange.zeroed : HeadInRange x.zeroed := by
  obtain ⟨join, miss, _, _, _, _, _, _, trim⟩ := hx
  exact ⟨join, miss, Nat.zero_le _, Nat.zero_le _, Nat.zero_le _, Nat.zero_le _, Nat.zero_le _, Nat.zero_le _, trim⟩

theorem HeadInRange.countFrame (kind : FrameKind) : HeadInRange (x.countFrame kind) := by
  obtain ⟨join, miss, good, framing, short, check, stale, duplicate, trim⟩ := hx
  cases kind with
  | none => exact ⟨join, miss, good, framing, short, check, stale, duplicate, trim⟩
  | good => exact ⟨join, miss, saturate_le _, framing, short, check, stale, duplicate, trim⟩
  | framing => exact ⟨join, miss, good, saturate_le _, short, check, stale, duplicate, trim⟩
  | short => exact ⟨join, miss, good, framing, saturate_le _, check, stale, duplicate, trim⟩
  | check => exact ⟨join, miss, good, framing, short, saturate_le _, stale, duplicate, trim⟩
  | stale => exact ⟨join, miss, good, framing, short, check, saturate_le _, duplicate, trim⟩
  | duplicate => exact ⟨join, miss, good, framing, short, check, stale, saturate_le _, trim⟩

end Heads

theorem ClockInRange.step {c : Clock} (hc : ClockInRange c) : ClockInRange c.step := by
  obtain ⟨tick, second, weekday⟩ := hc
  unfold Clock.step
  split
  · exact ⟨by dsimp only; omega, second, weekday⟩
  · split
    · exact ⟨Nat.zero_le _, by dsimp only; omega, weekday⟩
    · exact ⟨Nat.zero_le _, Nat.zero_le _, by dsimp only; omega⟩

theorem SettingInRange.clock {x : ClockSetting} (hx : SettingInRange x) :
    ClockInRange (Clock.setTo x.day x.second x.weekday) := ⟨Nat.zero_le _, hx⟩

theorem getLsbD_zero_eq_false {w : Word} : w.getLsbD 0 = false ↔ w.toNat % 2 = 0 := by
  rw [BitVec.getLsbD, Nat.testBit_zero]
  simp

/-- WADR steps by 2 in 16-bit mode (R80). -/
theorem WadrAligned.addrAfter {p : Port} (hp : WadrAligned p) : WadrAligned { p with wadr := p.addrAfter } := by
  intro (hwide : p.wide = true)
  have even := getLsbD_zero_eq_false.mp (hp hwide)
  rw [getLsbD_zero_eq_false]
  unfold Port.addrAfter Port.stepSize
  rw [if_pos hwide]
  cases p.step with
  | stay => exact even
  | upAfter => dsimp only; bv_omega
  | upBefore => dsimp only; bv_omega
  | downAfter => dsimp only; bv_omega

/-! ## The state's own updates -/

namespace RegisterRanges

variable {s : State}

/-- The ranges speak of no other part of the state: an operation that leaves these registers as they are keeps them. -/
theorem of_eq {t : State} (hs : RegisterRanges s) (hbuffers : t.link.buffers = s.link.buffers := by simp)
    (hchannels : t.channels = s.channels := by simp) (hcalibrations : t.calibrations = s.calibrations := by simp)
    (hclock : t.clock = s.clock := by simp) (hsetting : t.clockSetting = s.clockSetting := by simp)
    (hheads : t.heads = s.heads := by simp) (hwide : t.port.wide = s.port.wide := by simp)
    (hwadr : t.port.wadr = s.port.wadr := by simp) : RegisterRanges t where
  buffers := by simpa only [State.buffer, hbuffers] using hs.buffers
  channels := by simpa only [State.channel, hchannels] using hs.channels
  calibrations := by simpa only [State.calRecord, hcalibrations] using hs.calibrations
  clock := by simpa only [hclock] using hs.clock
  setting := by simpa only [hsetting] using hs.setting
  heads := by simpa only [State.head, hheads] using hs.heads
  port := by simpa only [WadrAligned, hwide, hwadr] using hs.port

theorem setHead (hs : RegisterRanges s) (h : Fin 12) {x : Head} (hx : HeadInRange x) : RegisterRanges (s.setHead h x) :=
  { hs with
    heads := fun i => by
      rw [head_setHead]
      split
      · exact hx
      · exact hs.heads i }

theorem setChannel (hs : RegisterRanges s) (h : Fin 12) {x : Channel} (hx : EnergiesInRange x) :
    RegisterRanges (s.setChannel h x) :=
  { hs with
    channels := fun i => by
      rw [channel_setChannel]
      split
      · exact hx
      · exact hs.channels i }

theorem setCalibration (hs : RegisterRanges s) (h : Fin 12) {x : Calibration} (hx : CalibrationInRange x) :
    RegisterRanges (s.setCalibration h x) :=
  { hs with
    calibrations := fun i => by
      rw [calRecord_setCalibration]
      split
      · exact hx
      · exact hs.calibrations i }

theorem setBuffer (hs : RegisterRanges s) (h : Fin 12) {x : Option Frame} (hx : ∀ f, x = some f → FrameInRange f) :
    RegisterRanges (s.setBuffer h x) :=
  { hs with
    buffers := fun i f => by
      rw [buffer_setBuffer]
      split
      · exact hx f
      · exact hs.buffers i f }

theorem setLink (hs : RegisterRanges s) {l : Link} (hl : l.buffers = s.link.buffers) : RegisterRanges { s with link := l } :=
  hs.of_eq hl

/-- Every frame buffer emptied (R19, R28). -/
theorem clearBuffers (hs : RegisterRanges s) {l : Link} (hl : l.buffers = Vector.replicate 12 none) :
    RegisterRanges { s with link := l } :=
  { hs with
    buffers := fun i f hf => by
      simp [State.buffer, hl] at hf }

theorem setStage (hs : RegisterRanges s) (x : TickStage) : RegisterRanges { s with stage := x } := hs.of_eq

theorem setRun (hs : RegisterRanges s) (r : RunState) : RegisterRanges { s with run := r } := hs.of_eq

theorem setClock (hs : RegisterRanges s) {c : Clock} (hc : ClockInRange c) : RegisterRanges { s with clock := c } :=
  { hs with clock := hc }

theorem stepClock (hs : RegisterRanges s) : RegisterRanges { s with clock := s.clock.step } := hs.setClock hs.clock.step

/-- The clock takes a setting, which is then no longer pending (R49). -/
theorem takeSetting (hs : RegisterRanges s) {x : ClockSetting} (hx : SettingInRange x) :
    RegisterRanges { s with clock := Clock.setTo x.day x.second x.weekday, clockSetting := none } :=
  { hs with clock := hx.clock, setting := nofun }

theorem endCalibration (hs : RegisterRanges s) (h : Fin 12) : RegisterRanges (s.endCalibration h) :=
  hs.setCalibration h (hs.calibrations h)

theorem raise (hs : RegisterRanges s) (c : NoticeClass) : RegisterRanges (s.raise c) := hs.of_eq

theorem answer (hs : RegisterRanges s) (n : Fin 8) (c : AnswerCode) (d : Nat) (r : List Word) :
    RegisterRanges (s.answer n c d r) := hs.of_eq

theorem endService (hs : RegisterRanges s) : RegisterRanges s.endService := hs.of_eq

/-! ## Calibration and channels -/

theorem calibration (hs : RegisterRanges s) {h : Fin 12} {c : Calibration} (hc : s.calibration h = some c) :
    CalibrationInRange c := by
  obtain ⟨rfl, -⟩ := calibration_eq_some.mp hc
  exact hs.calibrations h

theorem abortCalibration (hs : RegisterRanges s) (h : Fin 12) (r : AbortReason) :
    RegisterRanges (s.abortCalibration h r) := by
  unfold State.abortCalibration
  split
  · exact hs
  · exact (hs.answer ..).endCalibration h

theorem feedCalibration (hs : RegisterRanges s) (h : Fin 12) {f : Frame} (hf : FrameInRange f) :
    RegisterRanges (s.feedCalibration h f) := by
  unfold State.feedCalibration
  split
  · exact hs
  · next c hc =>
    split
    · exact hs.abortCalibration h .overload
    · exact hs.setCalibration h ((hs.calibration hc).feed hf.1)

theorem setTrim (hs : RegisterRanges s) (h : Fin 12) {t : Int} (ht : -500 ≤ t ∧ t ≤ 500) :
    RegisterRanges (s.setTrim h t) := by
  have trimmed := hs.setHead h ((hs.heads h).setTrim ht)
  unfold State.setTrim
  dsimp only
  split
  · exact trimmed.setChannel h (hs.channels h)
  · exact trimmed

theorem completeCalibration (hs : RegisterRanges s) (h : Fin 12) : RegisterRanges (s.completeCalibration h) := by
  unfold State.completeCalibration
  dsimp only
  split
  · exact hs
  · split
    · split
      · next hdiff => exact ((hs.setTrim h hdiff).answer ..).endCalibration h
      · exact (hs.answer ..).endCalibration h
    · exact hs

theorem channelTick (hs : RegisterRanges s) (h : Fin 12) {o : Option Frame} (ho : ∀ f, o = some f → FrameInRange f) :
    RegisterRanges (s.channelTick h o) := by
  have ch := hs.channels h
  unfold State.channelTick
  dsimp only
  split
  · split
    · exact hs.setChannel h (ch.presentTick (ho _ rfl) _ _)
    · exact (hs.setChannel h (ch.calibrationTick _)).feedCalibration h (ho _ rfl)
    · exact hs.setChannel h (ch.gapTick _ _)
  · exact hs

theorem clearSeconds (hs : RegisterRanges s) : RegisterRanges s.clearSeconds :=
  List.foldlRecOn _ _ hs fun t ht h _ => by
    split
    · exact ht.setChannel h (ht.channels h).clearSecond
    · exact ht

theorem closeChannel (hs : RegisterRanges s) (h : Fin 12) (cut : Bool) (actual : Nat) :
    RegisterRanges (s.closeChannel h cut actual) :=
  RegisterRanges.setChannel (s := s.handPeriodRecord h _) hs.of_eq h (hs.channels h).closed

theorem openForPeriod (hs : RegisterRanges s) : RegisterRanges s.openForPeriod :=
  List.foldlRecOn _ _ hs fun t ht h _ => by
    split
    · exact ht.setChannel h (ht.channels h)
    · exact ht.setChannel h ((ht.channels h).opened false false)

/-! ## Heads -/

theorem departHead (hs : RegisterRanges s) (h : Fin 12) : RegisterRanges (s.departHead h) := hs.of_eq

theorem forgetActive (hs : RegisterRanges s) (h : Fin 12) : RegisterRanges (s.forgetActive h) :=
  (hs.setChannel (x := { s.channel h with history := [], lastFast := none, lastSlow := none }) h (hs.channels h)).departHead h

theorem leaveActive (hs : RegisterRanges s) (h : Fin 12) (r : AbortReason) : RegisterRanges (s.leaveActive h r) :=
  (hs.abortCalibration h r).forgetActive h

theorem leaveAtMark (hs : RegisterRanges s) (h : Fin 12) : RegisterRanges (s.leaveAtMark h) := by
  unfold State.leaveAtMark
  split
  · exact hs.forgetActive h
  · exact hs.leaveActive h .headLost

theorem joinComplete (hs : RegisterRanges s) (h : Fin 12) {f : Frame} (hf : FrameInRange f) :
    RegisterRanges (s.joinComplete h f) := by
  have joined := (hs.setHead h ((hs.heads h).move (join := 4) (miss := 0) (by decide) (by decide) .active false)).setChannel h
    ((hs.channels h).seeded hf)
  unfold State.joinComplete
  dsimp only
  split
  · exact joined.raise .head
  · exact joined

theorem loseHead (hs : RegisterRanges s) (h : Fin 12) : RegisterRanges (s.loseHead h) :=
  ((hs.setHead h ((hs.heads h).move (join := 0) (miss := 32) (by decide) (by decide) .lost (s.head h).returning)).leaveActive h
    .headLost).raise .head

theorem headStep (hs : RegisterRanges s) (h : Fin 12) {o : Option Frame} (ho : ∀ f, o = some f → FrameInRange f) :
    RegisterRanges (s.headStep h o) := by
  have head := hs.heads h
  obtain ⟨join, miss, -⟩ := hs.heads h
  unfold State.headStep
  dsimp only
  split
  · exact hs
  · exact hs.setHead h (head.move (Nat.zero_le _) miss _ _)
  · split
    · exact hs.joinComplete h (ho _ rfl)
    · exact hs.setHead h (head.move (by omega) miss _ _)
  · split
    · exact hs.loseHead h
    · exact hs.setHead h (head.move join (by omega) _ _)
  · exact hs.setHead h (head.move join (Nat.zero_le _) _ _)
  · exact hs
  · exact hs.setHead h (head.move (by decide) miss .joining true)

theorem settleHead (hs : RegisterRanges s) (h : Fin 12) : RegisterRanges (s.settleHead h) :=
  ((hs.headStep h (hs.buffers h)).channelTick h (hs.buffers h)).setBuffer h nofun

theorem enableAtMark (hs : RegisterRanges s) (h : Fin 12) : RegisterRanges (s.enableAtMark h) :=
  (hs.setHead h ((hs.heads h).restarted .joining)).setChannel h ((hs.channels h).opened _ _)

theorem disableAtMark (hs : RegisterRanges s) (h : Fin 12) : RegisterRanges (s.disableAtMark h) := by
  have left : RegisterRanges (if (s.head h).state = .active then s.leaveAtMark h else s) := by
    split
    · exact hs.leaveAtMark h
    · exact hs
  unfold State.disableAtMark
  generalize (if (s.head h).state = .active then s.leaveAtMark h else s) = t at left
  have off := left.setHead h ((left.heads h).restarted .off)
  dsimp only
  split
  · have closed := off.closeChannel h true (actualLength t.period t.clock)
    exact closed.setChannel h (closed.channels h)
  · exact off

theorem markHead (hs : RegisterRanges s) (h : Fin 12) : RegisterRanges (s.markHead h) := by
  unfold State.markHead
  split
  · split
    · exact hs.enableAtMark h
    · exact hs
  · split
    · exact hs
    · exact hs.disableAtMark h

theorem startHeads (hs : RegisterRanges s) : RegisterRanges s.startHeads :=
  List.foldlRecOn _ _ hs fun t ht h _ => by
    split
    · exact (ht.setHead h ((ht.heads h).restarted .joining)).setChannel h ((ht.channels h).opened false false)
    · exact ht

theorem leaveAtStop (hs : RegisterRanges s) (h : Fin 12) : RegisterRanges (s.leaveAtStop h) := by
  unfold State.leaveAtStop
  split
  · exact (hs.completeCalibration h).forgetActive h
  · exact hs.leaveActive h .stopped

theorem stopHead (hs : RegisterRanges s) (h : Fin 12) : RegisterRanges (s.stopHead h) := by
  unfold State.stopHead
  dsimp only
  split
  · exact hs
  · have left : RegisterRanges (if (s.head h).state = .active then s.leaveAtStop h else s) := by
      split
      · exact hs.leaveAtStop h
      · exact hs
    exact (left.setHead h ((left.heads h).restarted .off)).setChannel h (left.channels h).closed

theorem stopHeads (hs : RegisterRanges s) : RegisterRanges s.stopHeads :=
  List.foldlRecOn _ _ hs fun _ ht h _ => ht.stopHead h

/-! ## Periods -/

theorem closeChannels (hs : RegisterRanges s) (cut : Bool) (actual : Nat) : RegisterRanges (s.closeChannels cut actual) :=
  List.foldlRecOn _ _ hs fun t ht h _ => by
    split
    · exact ht.closeChannel h cut actual
    · exact ht

theorem completeAdoption (hs : RegisterRanges s) (kind : EndKind) : RegisterRanges (s.completeAdoption kind) := hs.of_eq

theorem endPeriod (hs : RegisterRanges s) (kind : EndKind) (actual : Nat) (closed : Clock) :
    RegisterRanges (s.endPeriod kind actual closed) := by
  have ended := hs.closeChannels (decide (kind = .cut)) actual
  unfold State.endPeriod
  dsimp only
  split
  · exact ended.of_eq
  · exact ended.of_eq

theorem beginPeriod (hs : RegisterRanges s) (fresh : Bool) : RegisterRanges (s.beginPeriod fresh) :=
  RegisterRanges.openForPeriod (s := { s with period := _ }) hs.of_eq

theorem applySetting (hs : RegisterRanges s) : RegisterRanges s.applySetting := by
  unfold State.applySetting
  split
  · exact hs
  · next x hx => exact (hs.takeSetting (hs.setting x hx)).answer ..

theorem replaceStep (hs : RegisterRanges s) {x : ClockSetting} (hx : SettingInRange x) : RegisterRanges (s.replaceStep x) :=
  (((hs.endPeriod .cut _ _).takeSetting hx).beginPeriod false).answer ..

/-! ## Link -/

theorem endFrame (hs : RegisterRanges s) (h : Fin 12) (chars : List Byte) (lacksStop : Bool) :
    RegisterRanges (s.endFrame h chars lacksStop) := by
  unfold State.endFrame
  dsimp only
  have counted := hs.setHead h ((hs.heads h).countFrame (classify s.link.tickOpen (s.buffer h).isSome lacksStop chars))
  have quiet := counted.setLink (l := { s.link with receiver := .quiet }) rfl
  split
  · exact quiet.setBuffer h fun f hf => Option.some.inj hf ▸ frameOf_inRange chars
  · exact quiet.setLink rfl

theorem endCollection (hs : RegisterRanges s) : RegisterRanges s.endCollection := by
  unfold State.endCollection
  split
  · exact hs
  · exact hs.endFrame ..

theorem receive (hs : RegisterRanges s) (c : LinkChar) : RegisterRanges (s.receive c) := by
  unfold State.receive
  dsimp only
  split
  · exact hs.endCollection.setLink rfl
  · split
    · exact hs
    · split
      · exact hs.endFrame ..
      · exact hs.setLink rfl

theorem receiveAll (hs : RegisterRanges s) (chars : List PairChar) : RegisterRanges (s.receiveAll chars) := by
  unfold State.receiveAll
  split
  · exact List.foldlRecOn _ _ hs fun _ ht c _ => ht.receive c
  · exact hs

theorem abandonTick (hs : RegisterRanges s) : RegisterRanges s.abandonTick := by
  have raised : RegisterRanges (if s.link.badNote then s.raise .link else s) := by
    split
    · exact hs.raise .link
    · exact hs
  exact (raised.setStage .idle).clearBuffers rfl

/-! ## The tick event -/

theorem beginTick (hs : RegisterRanges s) : RegisterRanges s.beginTick := by
  unfold State.beginTick
  split
  · split
    · split
      · split
        · exact hs.endCollection.setStage _
        · exact hs.setStage _
      · exact hs.stepClock
    · exact hs
  · exact hs

theorem closeHead (hs : RegisterRanges s) (h : Fin 12) : RegisterRanges (s.closeHead h) := by
  unfold State.closeHead
  split
  · exact (hs.settleHead h).setStage _
  · exact hs

theorem closeTick (hs : RegisterRanges s) : RegisterRanges s.closeTick := by
  unfold State.closeTick
  split
  · next todo _ =>
    have settled : RegisterRanges (todo.foldl State.settleHead s) :=
      List.foldlRecOn _ _ hs fun _ ht h _ => ht.settleHead h
    exact settled.of_eq
  · exact hs

theorem captureStage (hs : RegisterRanges s) : RegisterRanges s.captureStage := hs.of_eq

theorem examineNote (hs : RegisterRanges s) : RegisterRanges s.examineNote := by
  unfold State.examineNote
  split
  · exact hs.of_eq
  · exact hs

theorem closeSecond (hs : RegisterRanges s) : RegisterRanges s.closeSecond := by
  have judged : RegisterRanges
      ((s.examineNote.writePages { day := s.clock.day, second := s.clock.second }).evalSecond s.clock) :=
    hs.examineNote.of_eq
  unfold State.closeSecond
  dsimp only
  exact judged.clearSeconds.of_eq

theorem secondStage (hs : RegisterRanges s) : RegisterRanges s.secondStage := by
  unfold State.secondStage
  dsimp only
  split
  · split
    · split
      · next x hx => exact (hs.closeSecond.replaceStep (hs.closeSecond.setting x hx)).setStage _
      · exact hs.closeSecond.setStage _
    · exact hs.setStage _
  · exact hs

theorem periodStage (hs : RegisterRanges s) : RegisterRanges s.periodStage := by
  unfold State.periodStage
  split
  · exact hs.setStage _
  · refine setStage ?_ .stepped
    dsimp only
    split
    · exact hs.stepClock.beginPeriod true
    · split
      · exact (hs.stepClock.endPeriod .aligned s.period.plannedLength s.clock).beginPeriod false
      · exact hs.stepClock
  · exact hs

theorem markStage (hs : RegisterRanges s) : RegisterRanges s.markStage := by
  have marked : RegisterRanges (allHeads.foldl State.markHead s) :=
    List.foldlRecOn _ _ hs fun _ ht h _ => ht.markHead h
  unfold State.markStage
  generalize allHeads.foldl State.markHead s = t at marked
  split
  · exact (marked.setStage .marked).clearBuffers rfl
  · exact hs

theorem calibrationStage (hs : RegisterRanges s) : RegisterRanges s.calibrationStage := by
  unfold State.calibrationStage
  split
  · have completed : RegisterRanges (allHeads.foldl State.completeCalibration s) :=
      List.foldlRecOn _ _ hs fun _ ht h _ => ht.completeCalibration h
    exact completed.setStage .idle
  · exact hs

theorem finishClose (hs : RegisterRanges s) : RegisterRanges s.finishClose := hs.closeTick.captureStage.secondStage

theorem finishTick (hs : RegisterRanges s) : RegisterRanges s.finishTick :=
  hs.finishClose.periodStage.markStage.calibrationStage

theorem finishBeforeMark (hs : RegisterRanges s) : RegisterRanges s.finishBeforeMark :=
  hs.finishClose.periodStage.calibrationStage

/-! ## Resets -/

/-- The reset values of the registers, under any clock, trims, queue, store, notices and 16-bit or 8-bit port with WADR 0. -/
theorem pinReset (s : State) (wide : Bool) : RegisterRanges (s.pinReset wide) where
  buffers h f hf := by simp [State.buffer, State.pinReset, State.reset, Link.reset] at hf
  channels h := by
    simp [State.channel, State.pinReset, State.reset, Channel.reset, EnergiesInRange, SecondAcc.cleared, PeriodAcc.cleared]
  calibrations h := by simp [State.calRecord, State.pinReset, State.reset, Calibration.reset, CalibrationInRange]
  clock := ⟨Nat.zero_le _, Nat.zero_le _, Nat.zero_le _⟩
  setting := nofun
  heads h := by simp [State.head, State.pinReset, State.reset, Head.reset, HeadInRange]
  port _ := by simp [State.pinReset, Port.reset]

/-- A RESTART keeps the clock and the trims, and every other register takes its reset value (R96). -/
theorem restartPart (hs : RegisterRanges s) : RegisterRanges s.restartPart :=
  { pinReset s s.port.wide with
    clock := hs.clock
    heads := fun h => by
      obtain ⟨_, _, _, _, _, _, _, _, trim⟩ := hs.heads h
      simpa [State.head, State.restartPart, Head.reset, HeadInRange] using trim }

/-! ## Port -/

theorem writeWadr (hs : RegisterRanges s) (a0 : Bool) (data : Word) : RegisterRanges (s.writeWadr a0 data) :=
  { hs with
    port := fun (hwide : s.port.wide = true) => by simp [State.writeWadr, hwide] }

theorem writeWctl (hs : RegisterRanges s) (a0 : Bool) (data : Word) : RegisterRanges (s.writeWctl a0 data) := by
  have written : RegisterRanges (s.writeControl a0 data) := hs.of_eq (hwide := rfl) (hwadr := rfl)
  unfold State.writeWctl
  dsimp only
  split
  · exact written.restartPart
  · exact written

theorem stepWadr (hs : RegisterRanges s) : RegisterRanges s.stepWadr := { hs with port := hs.port.addrAfter }

theorem drive (hs : RegisterRanges s) (d : PortData) : RegisterRanges (s.drive d) := hs.of_eq

theorem readAt (hs : RegisterRanges s) (a : Nat) : RegisterRanges (s.readAt a) := by
  unfold State.readAt
  split
  · exact hs.of_eq (hwide := by simp [State.readWord]) (hwadr := by simp [State.readWord])
  · split
    · exact hs.of_eq (hwide := rfl) (hwadr := rfl)
    · exact hs.of_eq (hwide := by simp [State.readOdd]) (hwadr := by simp [State.readOdd])

theorem dropWrite (hs : RegisterRanges s) (a : Nat) : RegisterRanges (s.dropWrite a) := hs.of_eq (hwide := rfl) (hwadr := rfl)

theorem writeWordAt (hs : RegisterRanges s) (a : Nat) (v : Word) : RegisterRanges (s.writeWordAt a v) := by
  unfold State.writeWordAt
  split
  · exact hs.of_eq
  · split
    · exact hs.dropWrite a
    · exact hs.of_eq
  · split
    · split
      · exact hs.of_eq
      · exact hs.of_eq
    · split
      · exact hs.of_eq (hwide := rfl) (hwadr := rfl)
      · exact hs.dropWrite a
  · exact hs.dropWrite a

theorem writeAt (hs : RegisterRanges s) (a : Nat) (data : Word) : RegisterRanges (s.writeAt a data) := by
  unfold State.writeAt
  dsimp only
  split
  · exact hs.writeWordAt a data
  · split
    · exact hs.of_eq
    · exact (hs.writeWordAt (a - 1) ((data.setWidth 8 : Byte) ++ s.heldLow (a - 1))).of_eq

theorem wdatRead (hs : RegisterRanges s) : RegisterRanges s.wdatRead := by
  unfold State.wdatRead
  split
  · exact hs.drive _
  · split
    · exact (hs.drive _).stepWadr
    · exact (hs.readAt _).stepWadr

theorem wdatWrite (hs : RegisterRanges s) (data : Word) : RegisterRanges (s.wdatWrite data) := by
  unfold State.wdatWrite
  split
  · exact hs
  · split
    · exact hs.stepWadr
    · exact (hs.writeAt ..).stepWadr

/-! ## Requests -/

theorem serve (hs : RegisterRanges s) (isKind : Word → Bool) {work : State → Fin 8 → State}
    (hwork : ∀ t n, RegisterRanges t → RegisterRanges (work t n)) : RegisterRanges (s.serve isKind work) := by
  unfold State.serve
  dsimp only
  split
  · exact hs
  · next n _ _ =>
    have taken : RegisterRanges (s.take n) := hs.of_eq
    split
    · split
      · exact (taken.answer ..).endService
      · exact (hwork _ n taken).endService
    · exact hs

theorem adopt (hs : RegisterRanges s) : RegisterRanges s.adopt := hs.of_eq

theorem workStart (hs : RegisterRanges s) (n : Fin 8) : RegisterRanges (s.workStart n) := by
  unfold State.workStart
  dsimp only
  split
  · exact hs.answer ..
  · split
    · exact hs.answer ..
    · exact (hs.adopt.setRun .measuring).startHeads.answer ..

theorem cutForStop (hs : RegisterRanges s) : RegisterRanges s.cutForStop := by
  unfold State.cutForStop
  split
  · exact hs.endPeriod ..
  · exact hs.completeAdoption _

theorem writeClosedPages (hs : RegisterRanges s) (st : Stamp) : RegisterRanges (s.writeClosedPages st) := hs.of_eq

theorem parkTrace (hs : RegisterRanges s) : RegisterRanges s.parkTrace := by
  unfold State.parkTrace
  exact hs.of_eq

theorem disarm (hs : RegisterRanges s) : RegisterRanges s.disarm := hs.of_eq

theorem stopMeasuring (hs : RegisterRanges s) {trace : State → State}
    (htrace : ∀ t, RegisterRanges t → RegisterRanges (trace t)) : RegisterRanges (s.stopMeasuring trace) := by
  unfold State.stopMeasuring
  exact (htrace _ hs.abandonTick).cutForStop.applySetting.stopHeads.writeClosedPages _

theorem workStop (hs : RegisterRanges s) (n : Fin 8) : RegisterRanges (s.workStop n) := by
  unfold State.workStop
  dsimp only
  split
  · exact ((hs.stopMeasuring fun _ ht => ht.disarm).setRun .stopped).answer ..
  · exact (hs.disarm.setRun .stopped).answer ..
  · exact hs.answer ..

theorem workPark (hs : RegisterRanges s) (n : Fin 8) : RegisterRanges (s.workPark n) := by
  unfold State.workPark
  dsimp only
  split
  · exact ((hs.stopMeasuring fun _ ht => ht.parkTrace).setRun .parked).answer ..
  · exact hs.answer ..

theorem workUnpark (hs : RegisterRanges s) (n : Fin 8) : RegisterRanges (s.workUnpark n) := by
  unfold State.workUnpark
  split
  · exact (hs.setRun .measuring).startHeads.answer ..
  · exact hs.answer ..

/-- R49's checks are what keeps the clock and a pending setting in range. -/
theorem workSetClock (hs : RegisterRanges s) (n : Fin 8) : RegisterRanges (s.workSetClock n) := by
  unfold State.workSetClock
  dsimp only
  split
  · exact hs.answer ..
  · split
    · exact hs.answer ..
    · split
      · split
        · exact hs.answer ..
        · exact { hs with setting := fun x hx => Option.some.inj hx ▸ ⟨by dsimp only; omega, by dsimp only; omega⟩ }
      · exact (hs.setClock ⟨Nat.zero_le _, by dsimp only [Clock.setTo]; omega, by dsimp only [Clock.setTo]; omega⟩).answer ..

theorem workAdopt (hs : RegisterRanges s) (n : Fin 8) : RegisterRanges (s.workAdopt n) := by
  unfold State.workAdopt
  split
  · exact hs.answer ..
  · split
    · exact hs.answer ..
    · split
      · exact hs.of_eq
      · exact hs.adopt.answer ..

theorem workCalibrate (hs : RegisterRanges s) (n : Fin 8) : RegisterRanges (s.workCalibrate n) := by
  unfold State.workCalibrate
  dsimp only
  split
  · exact hs.answer ..
  · next h _ =>
    split
    · exact hs.answer ..
    · split
      · exact hs.answer ..
      · split
        · exact hs.answer ..
        · exact hs.setCalibration h (Nat.zero_le _)

theorem workLoadTrim (hs : RegisterRanges s) (n : Fin 8) : RegisterRanges (s.workLoadTrim n) := by
  unfold State.workLoadTrim
  dsimp only
  split
  · exact hs.answer ..
  · next h _ =>
    split
    · exact hs.answer ..
    · split
      · exact hs.answer ..
      · exact (hs.setTrim h (by omega)).answer ..

theorem recordOnRequest (hs : RegisterRanges s) (n : Fin 8) (kind : RecordKind) (body : List Word) (m : Fin 48) :
    RegisterRanges (s.recordOnRequest n kind body m) := by
  have posted : RegisterRanges (s.postRecord kind body m) := hs.of_eq
  exact posted.answer ..

theorem workSnapshot (hs : RegisterRanges s) (n : Fin 8) : RegisterRanges (s.workSnapshot n) := by
  unfold State.workSnapshot
  dsimp only
  split
  · exact hs.answer ..
  · split
    · exact hs.answer ..
    · split
      · exact hs.answer ..
      · exact hs.recordOnRequest ..

theorem workDump (hs : RegisterRanges s) (n : Fin 8) : RegisterRanges (s.workDump n) := by
  unfold State.workDump
  split
  · exact hs.answer ..
  · split
    · exact hs.answer ..
    · split
      · exact hs.answer ..
      · split
        · exact hs.answer ..
        · exact hs.recordOnRequest ..

theorem workArm (hs : RegisterRanges s) (n : Fin 8) : RegisterRanges (s.workArm n) := by
  unfold State.workArm
  split
  · exact hs.answer ..
  · split
    · exact hs.answer ..
    · next x _ =>
      have armed : RegisterRanges { s with trace := { s.trace with mode := .armed, settings := x } } := hs.of_eq
      exact armed.answer ..

theorem workDisarm (hs : RegisterRanges s) (n : Fin 8) : RegisterRanges (s.workDisarm n) := by
  unfold State.workDisarm
  dsimp only
  split
  · exact hs.disarm.answer ..
  · exact hs.disarm.answer ..

theorem workTraceNow (hs : RegisterRanges s) (n : Fin 8) : RegisterRanges (s.workTraceNow n) := by
  unfold State.workTraceNow
  dsimp only
  split
  · exact hs.answer ..
  · split
    · exact hs.answer ..
    · split
      · exact hs.answer ..
      · have given : RegisterRanges (s.trigger (s.requestTrigger (s.param n 2) (s.param n 3))) := hs.of_eq
        exact given.answer ..

theorem workZero (hs : RegisterRanges s) (n : Fin 8) : RegisterRanges (s.workZero n) := by
  unfold State.workZero
  dsimp only
  split
  · exact hs.answer ..
  · have cleared : RegisterRanges
        (allHeads.foldl (fun t h => if selects (s.param n 2) h then t.setHead h (t.head h).zeroed else t) s) :=
      List.foldlRecOn _ _ hs fun t ht h _ => by
        split
        · exact ht.setHead h (ht.heads h).zeroed
        · exact ht
    exact cleared.answer ..

end RegisterRanges

/-! ## Every command -/

/-- Every next state of this outcome has its registers in range. -/
def LandsInRange (o : Host.Outcome State Fault Refusal) : Prop := ∀ t, o = .next t → RegisterRanges t

theorem LandsInRange.next {t : State} (ht : RegisterRanges t) : LandsInRange (.next t) := by
  rintro _ ⟨⟩
  exact ht

theorem LandsInRange.ite {p : Prop} [Decidable p] {o o' : Host.Outcome State Fault Refusal} (ho : LandsInRange o)
    (ho' : LandsInRange o') : LandsInRange (if p then o else o') := by
  split
  · exact ho
  · exact ho'

theorem exec_landsInRange {s : State} (hs : RegisterRanges s) (c : Instr) : LandsInRange (exec c s) := by
  cases c with
  | pinReset pin =>
    cases pin with
    | low => exact .next hs.finishTick.of_eq
    | high wide => exact .next (.pinReset s wide)
  | endOfStarting => exact .ite (.next ((hs.finishTick.writeClosedPages _).setRun .stopped)) (.next hs.finishTick)
  | restart data => exact .ite (.next hs.finishTick) (.next (hs.finishTick.writeWctl ..))
  | registerWrite reg a0 data =>
    cases reg with
    | wadr => exact .ite (.next hs.finishTick) (.next (hs.finishTick.writeWadr ..))
    | wctl => exact .ite (.next hs.finishTick) (.next (hs.finishTick.writeWctl ..))
  | ntcWrite a0 data => exact .ite (.next hs.finishClose) (.next hs.finishClose.of_eq)
  | wdatRead => exact .next hs.finishClose.wdatRead
  | wdatWrite data => exact .next (hs.finishClose.wdatWrite data)
  | tickEvent => exact .next hs.beginTick.finishTick
  | frame chars => exact .next (hs.finishTick.receiveAll chars)
  | joinComplete h => exact .ite (.next (hs.beginTick.closeHead h)) (.next hs)
  | headLost h => exact .ite (.next (hs.beginTick.closeHead h)) (.next hs)
  | calibrationComplete h =>
    exact .ite (.next (hs.beginTick.finishClose.periodStage.markStage.completeCalibration h)) (.next hs)
  | captureComplete => exact .ite (.next hs.beginTick.closeTick.captureStage) (.next hs)
  | secondClose => exact .ite (.next hs.beginTick.finishClose) (.next hs)
  | periodEnd => exact .ite (.next hs.beginTick.finishClose.periodStage) (.next hs)
  | start => exact .next (hs.finishTick.serve _ fun _ n ht => ht.workStart n)
  | stop => exact .next (hs.finishBeforeMark.serve _ fun _ n ht => ht.workStop n)
  | park => exact .next (hs.finishBeforeMark.serve _ fun _ n ht => ht.workPark n)
  | unpark => exact .next (hs.finishTick.serve _ fun _ n ht => ht.workUnpark n)
  | setClock => exact .next (hs.finishClose.serve _ fun _ n ht => ht.workSetClock n)
  | adoptLimits => exact .next (hs.finishClose.serve _ fun _ n ht => ht.workAdopt n)
  | calibrate => exact .next (hs.finishClose.serve _ fun _ n ht => ht.workCalibrate n)
  | loadTrim => exact .next (hs.finishClose.serve _ fun _ n ht => ht.workLoadTrim n)
  | snapshot => exact .next (hs.serve _ fun _ n ht => ht.workSnapshot n)
  | dumpHistogram => exact .next (hs.serve _ fun _ n ht => ht.workDump n)
  | armTrace => exact .next (hs.finishClose.serve _ fun _ n ht => ht.workArm n)
  | disarmTrace => exact .next (hs.finishClose.serve _ fun _ n ht => ht.workDisarm n)
  | traceNow => exact .next (hs.finishClose.serve _ fun _ n ht => ht.workTraceNow n)
  | zeroHeadCounters => exact .next (hs.finishClose.serve _ fun _ n ht => ht.workZero n)
  | unknownKindRequest => exact .next (hs.finishClose.serve _ fun _ n ht => ht.answer n _ _ _)

/-- Settles O55: the ranges are inductive as they stand. A step is the front command on the state without it, and each command is
made of operations that keep the ranges. -/
theorem stepKeepsRegistersInRange : Obligations.StepKeepsRegistersInRange := by
  intro s t hs ht
  have hs := registersInRange_iff.mp hs
  rw [registersInRange_iff]
  unfold step at ht
  split at ht
  · exact LandsInRange.next hs t ht
  · next c rest _ =>
    have dequeued : RegisterRanges { s with pending := rest } := hs.of_eq
    exact exec_landsInRange dequeued c t ht

end Sys2Proof.Machine
end

section
/-! PROOFS. Settling one head at a tick close (R27, R30 to R32): what an answer leaves in its slot, what the step of the head state
machine can do, and that settling the other heads leaves a head's entries and its calibration's slot alone. -/

namespace Sys2Proof.Machine

open Sys2Proof

/-! ## Answers and the slots they are written to -/

theorem length_answerWords (mark : Word) (code : AnswerCode) (detail : Nat) (reply : List Word) :
    (answerWords mark code detail reply).length = 16 := by simp [answerWords, replyArea]

theorem replyArea_getD {reply : List Word} {i : Nat} (hi : i < 13) : (replyArea reply).getD i 0 = reply.getD i 0 := by
  simp only [replyArea, List.getD_eq_getElem?_getD, List.getElem?_take_of_lt hi, List.getElem?_append]
  split
  · rfl
  · next hlen =>
    rw [List.getElem?_eq_none (Nat.not_lt.mp hlen), List.getElem?_replicate]
    split
    · rfl
    · rfl

/-- Word w of a slot lies in the slot's 64 bytes. -/
theorem requestAddr_bounds (n : Fin 8) {w : Nat} (hw : w < 32) :
    Config.requestBase + 64 * n.val ≤ requestAddr n w ∧ requestAddr n w + 2 ≤ Config.requestBase + 64 * n.val + 64 := by
  unfold requestAddr
  omega

/-- Words 16 on of an answered slot are the answer's words. -/
theorem requestWord_answer_same (s : State) (n : Fin 8) (code : AnswerCode) (detail : Nat) (reply : List Word) (i : Nat)
    (hi : i < 16) : (s.answer n code detail reply).requestWord n (16 + i) =
      (answerWords (s.slot n).postMark code detail reply)[i]'(by rwa [length_answerWords]) := by
  have haddr : requestAddr n (16 + i) = requestAddr n 16 + 2 * i := by unfold requestAddr; omega
  have hroom : requestAddr n 16 + 2 * 16 ≤ Config.storeBytes := by
    have := n.isLt
    simp only [requestAddr, Config.requestBase, Config.storeBytes]
    omega
  rw [State.requestWord, haddr]
  exact readWord_writeWords _ _ _ _ _ (by rwa [length_answerWords])

/-- An answer stands in its slot as R167 says. -/
theorem answer_holds (s : State) (n : Fin 8) (code : AnswerCode) (detail : Nat) (reply : List Word) :
    HoldsAnswer (s.answer n code detail reply) n (s.slot n).postMark code detail reply := by
  have words := requestWord_answer_same s n code detail reply
  refine ⟨by rw [slot_answer, if_pos rfl], words 0 (by decide), fun i hi => ?_, ?_, ?_⟩
  · have hlen : i < (replyArea reply).length := by simpa [replyArea] using hi
    rw [show 17 + i = 16 + (i + 1) by omega, words (i + 1) (by omega), ← replyArea_getD hi, List.getD_eq_getElem _ _ hlen]
    simp [answerWords, hlen]
  · rw [words 14 (by decide)]
    simp [answerWords, replyArea]
  · rw [words 15 (by decide)]
    simp [answerWords, replyArea]

/-- Request slot n is as it was: its state, its post mark and its 32 words. -/
structure SlotKept (s t : State) (n : Fin 8) : Prop where
  slot : t.slot n = s.slot n
  words : ∀ w < 32, t.requestWord n w = s.requestWord n w

theorem SlotKept.refl (s : State) (n : Fin 8) : SlotKept s s n := ⟨rfl, fun _ _ => rfl⟩

theorem SlotKept.trans {s t u : State} {n : Fin 8} (hst : SlotKept s t n) (htu : SlotKept t u n) : SlotKept s u n :=
  ⟨htu.slot.trans hst.slot, fun w hw => (htu.words w hw).trans (hst.words w hw)⟩

/-- An operation that leaves the request engine and the store alone keeps every slot. -/
theorem SlotKept.of_eq {s t : State} {n : Fin 8} (hrequests : t.requests = s.requests := by simp)
    (hstore : t.store = s.store := by simp) : SlotKept s t n :=
  ⟨by simp only [State.slot, hrequests], fun w _ => by simp only [State.requestWord, State.peekWord, hstore]⟩

/-- An answer in a slot that is kept stays there. -/
theorem HoldsAnswer.kept {s t : State} {n : Fin 8} {mark : Word} {code : AnswerCode} {detail : Nat} {reply : List Word}
    (hs : HoldsAnswer s n mark code detail reply) (hst : SlotKept s t n) : HoldsAnswer t n mark code detail reply := by
  obtain ⟨slot, echo, words, dw, cw⟩ := hs
  refine ⟨hst.slot.trans slot, (hst.words 16 (by decide)).trans echo, fun i hi => ?_, (hst.words 30 (by decide)).trans dw,
    (hst.words 31 (by decide)).trans cw⟩
  exact (hst.words (17 + i) (by omega)).trans (words i hi)

theorem answer_keeps_other_slot (s : State) {n m : Fin 8} (hne : m ≠ n) (code : AnswerCode) (detail : Nat)
    (reply : List Word) : SlotKept s (s.answer m code detail reply) n where
  slot := by rw [slot_answer, if_neg hne]
  words w hw := by
    have hn := requestAddr_bounds n hw
    have hm : requestAddr m 16 = Config.requestBase + 64 * m.val + 32 := rfl
    have hval : m.val ≠ n.val := Fin.val_ne_of_ne hne
    exact readWord_writeWords_outside _ _ _ _ (by rw [length_answerWords]; omega)

theorem setHead_keeps_slot (s : State) (h : Fin 12) (x : Head) (n : Fin 8) : SlotKept s (s.setHead h x) n := .of_eq

theorem setChannel_keeps_slot (s : State) (h : Fin 12) (x : Channel) (n : Fin 8) : SlotKept s (s.setChannel h x) n := .of_eq

theorem setBuffer_keeps_slot (s : State) (h : Fin 12) (x : Option Frame) (n : Fin 8) : SlotKept s (s.setBuffer h x) n :=
  .of_eq

theorem forgetActive_keeps_slot (s : State) (h : Fin 12) (n : Fin 8) : SlotKept s (s.forgetActive h) n := .of_eq

theorem raise_keeps_slot (s : State) (c : NoticeClass) (n : Fin 8) : SlotKept s (s.raise c) n := .of_eq

theorem endCalibration_keeps_slot (s : State) (h : Fin 12) (n : Fin 8) : SlotKept s (s.endCalibration h) n := .of_eq

theorem completeCapture_store (s : State) (c : Capture) (truncated : Bool) (after : TraceMode) :
    (s.completeCapture c truncated after).store =
      s.store.writeWords (traceAddr c.slot 0) (traceImage c truncated s.trace.missed (s.trace.number + 1)) := by
  unfold State.completeCapture
  dsimp only
  split
  · simp only [State.pokeWords]
  · simp only [raise_store, State.pokeWords]

/-- A completed capture is written above every request slot. -/
theorem completeCapture_keeps_slot (s : State) (c : Capture) (truncated : Bool) (after : TraceMode) (n : Fin 8) :
    SlotKept s (s.completeCapture c truncated after) n where
  slot := by simp [State.slot]
  words w hw := by
    have hn := requestAddr_bounds n hw
    have hval := n.isLt
    rw [State.requestWord, State.peekWord, completeCapture_store]
    refine readWord_writeWords_outside _ _ _ _ (.inl ?_)
    simp only [Config.requestBase, traceAddr, Config.traceBase] at hn ⊢
    omega

theorem completeIfDue_keeps_slot (s : State) (n : Fin 8) : SlotKept s s.completeIfDue n := by
  unfold State.completeIfDue
  split
  · split
    · exact completeCapture_keeps_slot ..
    · exact .refl s n
  · exact .refl s n

/-! ## A calibration and the slot it answers -/

/-- The calibration of head h, if there is one, does not answer in slot n. -/
def SlotFree (s : State) (n : Fin 8) (h : Fin 12) : Prop := ∀ c, s.calibration h = some c → c.slot ≠ n

theorem calibration_abortCalibration (s : State) (h g : Fin 12) (r : AbortReason) :
    (s.abortCalibration h r).calibration g = if h = g then none else s.calibration g := by
  unfold State.abortCalibration
  split
  · next hc =>
    split
    · next e => exact e ▸ hc
    · rfl
  · split
    · next e => exact e ▸ calibration_endCalibration_same _ _
    · next hne => rw [calibration_endCalibration_ne _ _ _ hne, calibration_answer_keep]

/-- An early end answers ABORTED with the reason, the trim twice and the count (R73). -/
theorem abortCalibration_holds {s : State} {h : Fin 12} {c : Calibration} (hc : s.calibration h = some c)
    (r : AbortReason) : HoldsAnswer (s.abortCalibration h r) c.slot (s.slot c.slot).postMark .aborted r.code
      [0xFFFF, intWord (s.head h).trim, intWord (s.head h).trim, word c.count] := by
  unfold State.abortCalibration
  rw [hc]
  exact (answer_holds ..).kept (endCalibration_keeps_slot ..)

theorem abortCalibration_keeps_slot {s : State} {n : Fin 8} {h : Fin 12} (hfree : SlotFree s n h) (r : AbortReason) :
    SlotKept s (s.abortCalibration h r) n := by
  unfold State.abortCalibration
  split
  · exact .refl s n
  · next c hc => exact (answer_keeps_other_slot s (hfree c hc) ..).trans (endCalibration_keeps_slot ..)

theorem feedCalibration_of_good {s : State} {h : Fin 12} {f : Frame} {c : Calibration} (hc : s.calibration h = some c)
    (hf : f.overFlag = false) : s.feedCalibration h f =
      s.setCalibration h { c with count := c.count + 1, sum := c.sum + BitVec.ofNat 72 f.aEnergy } := by
  simp [State.feedCalibration, hc, hf]

theorem feedCalibration_of_over {s : State} {h : Fin 12} {f : Frame} (hf : f.overFlag = true) :
    s.feedCalibration h f = s.abortCalibration h .overload := by
  unfold State.feedCalibration
  split
  · next hc => simp [State.abortCalibration, hc]
  · rw [if_pos hf]

/-! ## What concerns one head only -/

/-- The entries of head h in the head table, the channels, the calibrations and the frame buffers, and the clock and the period
that its tick is counted under, are as they were. -/
structure OwnKept (s t : State) (h : Fin 12) : Prop where
  head : t.head h = s.head h
  channel : t.channel h = s.channel h
  record : t.calRecord h = s.calRecord h
  buffer : t.buffer h = s.buffer h
  period : t.period = s.period
  clock : t.clock = s.clock

theorem OwnKept.refl (s : State) (h : Fin 12) : OwnKept s s h := ⟨rfl, rfl, rfl, rfl, rfl, rfl⟩

theorem OwnKept.trans {s t u : State} {h : Fin 12} (hst : OwnKept s t h) (htu : OwnKept t u h) : OwnKept s u h :=
  ⟨htu.head.trans hst.head, htu.channel.trans hst.channel, htu.record.trans hst.record, htu.buffer.trans hst.buffer,
    htu.period.trans hst.period, htu.clock.trans hst.clock⟩

theorem OwnKept.calibration {s t : State} {h : Fin 12} (hst : OwnKept s t h) : t.calibration h = s.calibration h := by
  simp only [State.calibration, hst.record]

/-- An operation that leaves the four tables, the period and the clock alone. -/
theorem OwnKept.of_eq {s t : State} {h : Fin 12} (hheads : t.heads = s.heads := by simp)
    (hchannels : t.channels = s.channels := by simp) (hcalibrations : t.calibrations = s.calibrations := by simp)
    (hlink : t.link = s.link := by simp) (hperiod : t.period = s.period := by simp)
    (hclock : t.clock = s.clock := by simp) : OwnKept s t h :=
  ⟨by simp only [State.head, hheads], by simp only [State.channel, hchannels], by simp only [State.calRecord, hcalibrations],
    by simp only [State.buffer, hlink], hperiod, hclock⟩

theorem answer_keeps_own (s : State) (n : Fin 8) (c : AnswerCode) (d : Nat) (r : List Word) (h : Fin 12) :
    OwnKept s (s.answer n c d r) h := .of_eq

theorem raise_keeps_own (s : State) (c : NoticeClass) (h : Fin 12) : OwnKept s (s.raise c) h := .of_eq

theorem departHead_keeps_own (s : State) (g h : Fin 12) : OwnKept s (s.departHead g) h := .of_eq

section Others

variable (s : State) {g h : Fin 12} (hne : g ≠ h)
include hne

theorem setHead_keeps_other (x : Head) : OwnKept s (s.setHead g x) h :=
  ⟨head_setHead_ne s g h x hne, rfl, rfl, rfl, rfl, rfl⟩

theorem setChannel_keeps_other (x : Channel) : OwnKept s (s.setChannel g x) h :=
  ⟨rfl, channel_setChannel_ne s g h x hne, rfl, rfl, rfl, rfl⟩

theorem setCalibration_keeps_other (x : Calibration) : OwnKept s (s.setCalibration g x) h :=
  ⟨rfl, rfl, calRecord_setCalibration_ne s g h x hne, rfl, rfl, rfl⟩

theorem setBuffer_keeps_other (x : Option Frame) : OwnKept s (s.setBuffer g x) h :=
  ⟨rfl, rfl, rfl, buffer_setBuffer_ne s g h x hne, rfl, rfl⟩

theorem abortCalibration_keeps_other (r : AbortReason) : OwnKept s (s.abortCalibration g r) h := by
  unfold State.abortCalibration
  split
  · exact .refl s h
  · exact (answer_keeps_own ..).trans (setCalibration_keeps_other _ hne _)

theorem feedCalibration_keeps_other (f : Frame) : OwnKept s (s.feedCalibration g f) h := by
  unfold State.feedCalibration
  split
  · exact .refl s h
  · split
    · exact abortCalibration_keeps_other s hne .overload
    · exact setCalibration_keeps_other s hne _

theorem channelTick_keeps_other (o : Option Frame) : OwnKept s (s.channelTick g o) h := by
  unfold State.channelTick
  dsimp only
  split
  · split
    · exact setChannel_keeps_other s hne _
    · exact (setChannel_keeps_other s hne _).trans (feedCalibration_keeps_other _ hne _)
    · exact setChannel_keeps_other s hne _
  · exact .refl s h

theorem forgetActive_keeps_other : OwnKept s (s.forgetActive g) h :=
  (setChannel_keeps_other s hne _).trans (departHead_keeps_own ..)

theorem loseHead_keeps_other : OwnKept s (s.loseHead g) h :=
  ((setHead_keeps_other s hne _).trans (abortCalibration_keeps_other _ hne .headLost)).trans
    ((forgetActive_keeps_other _ hne).trans (raise_keeps_own ..))

theorem joinComplete_keeps_other (f : Frame) : OwnKept s (s.joinComplete g f) h := by
  have joined := (setHead_keeps_other s hne { s.head g with state := .active, join := 4, miss := 0, returning := false }).trans
    (setChannel_keeps_other _ hne { s.channel g with fast := f.aEnergy, slow := f.aEnergy })
  unfold State.joinComplete
  dsimp only
  split
  · exact joined.trans (raise_keeps_own ..)
  · exact joined

end Others

/-! ## The step of the head state machine -/

/-- What the step of the head state machine at a tick close can do (R30 to R32): an ACTIVE head without a valid frame is lost, a
JOINING head with one completes its join, or the head's entry alone changes, with its trim and whether it is ACTIVE kept. -/
inductive HeadStep (s : State) (h : Fin 12) (o : Option Frame) : State → Prop where
  | lost (hstate : (s.head h).state = .active) (ho : o = none) : HeadStep s h o (s.loseHead h)
  | joined (f : Frame) (hstate : (s.head h).state = .joining) (ho : o = some f) : HeadStep s h o (s.joinComplete h f)
  | moved (x : Head) (htrim : x.trim = (s.head h).trim) (hstate : x.state = .active ↔ (s.head h).state = .active) :
    HeadStep s h o (s.setHead h x)

theorem setHead_self (s : State) (h : Fin 12) : s.setHead h (s.head h) = s := by
  simp [State.setHead, State.head]

theorem headStep_cases (s : State) (h : Fin 12) (o : Option Frame) : HeadStep s h o (s.headStep h o) := by
  have stays : HeadStep s h o s := by
    have := HeadStep.moved (o := o) (s.head h) (Eq.refl (s.head h).trim) Iff.rfl
    rwa [setHead_self] at this
  unfold State.headStep
  dsimp only
  split
  · exact stays
  · next hj => exact .moved _ rfl Iff.rfl
  · next f hj =>
    split
    · exact .joined f hj rfl
    · exact .moved _ rfl Iff.rfl
  · next ha =>
    split
    · exact .lost ha rfl
    · exact .moved _ rfl Iff.rfl
  · exact .moved _ rfl Iff.rfl
  · exact stays
  · next hl => exact .moved _ rfl (by simp [hl])

theorem headStep_keeps_other (s : State) {g h : Fin 12} (hne : g ≠ h) (o : Option Frame) : OwnKept s (s.headStep g o) h := by
  have step := headStep_cases s g o
  generalize s.headStep g o = t at step
  cases step with
  | lost => exact loseHead_keeps_other s hne
  | joined f => exact joinComplete_keeps_other s hne f
  | moved x => exact setHead_keeps_other s hne x

theorem settleHead_keeps_other (s : State) {g h : Fin 12} (hne : g ≠ h) : OwnKept s (s.settleHead g) h :=
  ((headStep_keeps_other s hne _).trans (channelTick_keeps_other _ hne _)).trans (setBuffer_keeps_other _ hne none)

/-! ## Settling a head writes no other head's answer slot -/

/-- Head h's calibration in t, if there is one, is the one of s, with the same slot. -/
def CalibrationFrom (s t : State) (h : Fin 12) : Prop :=
  ∀ c, t.calibration h = some c → ∃ d, s.calibration h = some d ∧ d.slot = c.slot

theorem CalibrationFrom.of_eq {s t : State} {h : Fin 12} (he : t.calibration h = s.calibration h) : CalibrationFrom s t h :=
  fun c hc => ⟨c, he ▸ hc, rfl⟩

theorem CalibrationFrom.of_none {s t : State} {h : Fin 12} (he : t.calibration h = none) : CalibrationFrom s t h :=
  fun c hc => by simp [he] at hc

theorem CalibrationFrom.trans {s t u : State} {h : Fin 12} (hst : CalibrationFrom s t h) (htu : CalibrationFrom t u h) :
    CalibrationFrom s u h := by
  intro c hc
  obtain ⟨d, hd, hdc⟩ := htu c hc
  obtain ⟨e, he, hed⟩ := hst d hd
  exact ⟨e, he, hed.trans hdc⟩

theorem SlotFree.from {s t : State} {n : Fin 8} {h : Fin 12} (hs : SlotFree s n h) (hst : CalibrationFrom s t h) :
    SlotFree t n h := by
  intro c hc
  obtain ⟨d, hd, hdc⟩ := hst c hc
  exact hdc ▸ hs d hd

theorem feedCalibration_from (s : State) (h : Fin 12) (f : Frame) : CalibrationFrom s (s.feedCalibration h f) h := by
  cases hc : s.calibration h with
  | none => exact .of_eq (by simp [State.feedCalibration, hc])
  | some c =>
    cases hf : f.overFlag with
    | true =>
      rw [feedCalibration_of_over hf]
      exact .of_none (by rw [calibration_abortCalibration, if_pos rfl])
    | false =>
      rw [feedCalibration_of_good hc hf]
      intro d hd
      rw [calibration_eq_some, calRecord_setCalibration_same] at hd
      exact ⟨c, hc, by rw [← hd.1]⟩

theorem channelTick_from (s : State) (h : Fin 12) (o : Option Frame) : CalibrationFrom s (s.channelTick h o) h := by
  unfold State.channelTick
  dsimp only
  split
  · split
    · exact .of_eq rfl
    · exact (CalibrationFrom.of_eq rfl).trans (feedCalibration_from _ h _)
    · exact .of_eq rfl
  · exact .of_eq rfl

theorem calibration_loseHead (s : State) (h : Fin 12) : (s.loseHead h).calibration h = none := by
  have aborted := calibration_abortCalibration
    (s.setHead h { s.head h with state := .lost, miss := 32, join := 0 }) h h .headLost
  have kept : OwnKept _ (s.loseHead h) h := (departHead_keeps_own _ h h).trans (raise_keeps_own _ .head h)
  rw [kept.calibration]
  exact aborted.trans (if_pos rfl)

theorem calRecord_joinComplete (s : State) (h : Fin 12) (f : Frame) :
    (s.joinComplete h f).calRecord h = s.calRecord h := by simp [State.calRecord]

theorem headStep_from (s : State) (h : Fin 12) (o : Option Frame) : CalibrationFrom s (s.headStep h o) h := by
  have step := headStep_cases s h o
  generalize s.headStep h o = t at step
  cases step with
  | lost => exact .of_none (calibration_loseHead s h)
  | joined f => exact .of_eq (by simp only [State.calibration, calRecord_joinComplete])
  | moved x => exact .of_eq rfl

theorem settleHead_from (s : State) (g h : Fin 12) : CalibrationFrom s (s.settleHead g) h := by
  by_cases hne : g = h
  · subst hne
    exact ((headStep_from s g _).trans (channelTick_from _ g _)).trans (.of_eq rfl)
  · exact .of_eq (settleHead_keeps_other s hne).calibration

section Slots

variable {s : State} {n : Fin 8} {h : Fin 12} (hfree : SlotFree s n h)
include hfree

theorem feedCalibration_keeps_slot (f : Frame) : SlotKept s (s.feedCalibration h f) n := by
  unfold State.feedCalibration
  split
  · exact .refl s n
  · split
    · exact abortCalibration_keeps_slot hfree .overload
    · exact .of_eq

theorem channelTick_keeps_slot (o : Option Frame) : SlotKept s (s.channelTick h o) n := by
  unfold State.channelTick
  dsimp only
  split
  · split
    · exact .of_eq
    · next f _ =>
      have fed := feedCalibration_keeps_slot (s := s.setChannel h ((s.channel h).calibrationTick (some f))) hfree f
      exact (setChannel_keeps_slot ..).trans fed
    · exact .of_eq
  · exact .refl s n

theorem loseHead_keeps_slot : SlotKept s (s.loseHead h) n := by
  have aborted := abortCalibration_keeps_slot
    (s := s.setHead h { s.head h with state := .lost, miss := 32, join := 0 }) hfree .headLost
  exact ((setHead_keeps_slot ..).trans aborted).trans ((forgetActive_keeps_slot ..).trans (raise_keeps_slot ..))

theorem headStep_keeps_slot (o : Option Frame) : SlotKept s (s.headStep h o) n := by
  have step := headStep_cases s h o
  generalize s.headStep h o = t at step
  cases step with
  | lost => exact loseHead_keeps_slot hfree
  | joined f => exact .of_eq
  | moved x => exact .of_eq

theorem settleHead_keeps_slot : SlotKept s (s.settleHead h) n := by
  have counted := channelTick_keeps_slot (hfree.from (headStep_from s h (s.buffer h))) (s.buffer h)
  exact ((headStep_keeps_slot hfree _).trans counted).trans (setBuffer_keeps_slot ..)

end Slots

/-! ## Settling several heads -/

theorem settleHeads_keep_own {l : List (Fin 12)} {h : Fin 12} (hl : h ∉ l) (s : State) :
    OwnKept s (l.foldl State.settleHead s) h :=
  List.foldlRecOn (motive := fun t => OwnKept s t h) l _ (.refl s h) fun t ht _ hg =>
    ht.trans (settleHead_keeps_other t (ne_of_mem_of_not_mem hg hl))

theorem settleHeads_from (l : List (Fin 12)) (s : State) (h : Fin 12) :
    CalibrationFrom s (l.foldl State.settleHead s) h :=
  List.foldlRecOn (motive := fun t => CalibrationFrom s t h) l _ (.of_eq rfl) fun t ht _ _ => ht.trans (settleHead_from t _ h)

theorem settleHeads_keep_slot {l : List (Fin 12)} {n : Fin 8} {s : State} (hfree : ∀ g ∈ l, SlotFree s n g) :
    SlotKept s (l.foldl State.settleHead s) n := by
  induction l generalizing s with
  | nil => exact .refl s n
  | cons g l ih =>
    have first := settleHead_keeps_slot (hfree g List.mem_cons_self)
    exact first.trans (ih fun k hk => (hfree k (List.mem_cons_of_mem g hk)).from (settleHead_from s g k))

end Sys2Proof.Machine
end

section
/-! PROOFS. What a tick close makes of one head's channel and calibration, category by category (R54 to R58, R71, R73), and
the tick close as a whole. -/

namespace Sys2Proof.Machine

open Sys2Proof

/-! ## The tick in the channel of a head whose state is stepped -/

section Categories

variable {s : State} {h : Fin 12} (hopen : (s.channel h).isOpen = true)
include hopen

theorem channelTick_present {f : Frame} (hstate : (s.head h).state = .active) (hfault : f.faultFlag = false)
    (hcal : s.calibration h = none) : s.channelTick h (some f) =
      s.setChannel h ((s.channel h).presentTick f (s.head h).trim (tickOffset s.period s.clock)) := by
  simp [State.channelTick, hopen, tickCategory, hstate, hfault, hcal]

theorem channelTick_calibration {f : Frame} {c : Calibration} (hstate : (s.head h).state = .active)
    (hfault : f.faultFlag = false) (hcal : s.calibration h = some c) : s.channelTick h (some f) =
      (s.setChannel h ((s.channel h).calibrationTick (some f))).feedCalibration h f := by
  simp [State.channelTick, hopen, tickCategory, hstate, hfault, hcal]

/-- Without a valid frame, with FAULT set or with the head not ACTIVE the tick is a gap (R54). -/
theorem channelTick_gap {o : Option Frame}
    (hgap : o = none ∨ (∃ f, o = some f ∧ f.faultFlag = true) ∨ (s.head h).state ≠ .active) : s.channelTick h o =
      s.setChannel h ((s.channel h).gapTick o (decide ((s.head h).state = .active))) := by
  have category : tickCategory (s.head h).state o (s.calibration h).isSome = .gap := by
    rcases hgap with rfl | ⟨f, rfl, hf⟩ | hne
    · rfl
    · simp [tickCategory, hf]
    · cases o with
      | none => rfl
      | some f => simp [tickCategory, hne]
  unfold State.channelTick
  rw [if_pos hopen, category]
  cases o with
  | none => rfl
  | some f => rfl

end Categories

/-! ## The channel before the tick is counted -/

/-- Running energies both seeded with an energy (R10). -/
def Channel.seeded (ch : Channel) (e : Nat) : Channel := { ch with fast := e, slow := e }

/-- What a head leaves in its channel when it leaves ACTIVE (R57, R59). -/
def Channel.forgotten (ch : Channel) : Channel := { ch with history := [], lastFast := none, lastSlow := none }

theorem loseHead_head (s : State) (h : Fin 12) :
    (s.loseHead h).head h = { s.head h with state := .lost, miss := 32, join := 0 } := by
  have left : OwnKept _ (s.loseHead h) h := (departHead_keeps_own _ h h).trans (raise_keeps_own _ .head h)
  rw [left.head, head_setChannel_keep]
  simp [State.head, State.setHead]

theorem loseHead_channel (s : State) (h : Fin 12) : (s.loseHead h).channel h = (s.channel h).forgotten := by
  have left : OwnKept _ (s.loseHead h) h := (departHead_keeps_own _ h h).trans (raise_keeps_own _ .head h)
  rw [left.channel, channel_setChannel_same]
  simp [State.channel, Channel.forgotten]

/-- A lost head's calibration is answered ABORTED with reason HEAD_LOST (R31, R73). -/
theorem loseHead_holds {s : State} {h : Fin 12} {c : Calibration} (hc : s.calibration h = some c) :
    HoldsAnswer (s.loseHead h) c.slot (s.slot c.slot).postMark .aborted 2
      [0xFFFF, intWord (s.head h).trim, intWord (s.head h).trim, word c.count] := by
  have aborted := abortCalibration_holds
    (s := s.setHead h { s.head h with state := .lost, miss := 32, join := 0 }) hc .headLost
  rw [head_setHead_same] at aborted
  exact aborted.kept ((forgetActive_keeps_slot ..).trans (raise_keeps_slot ..))

/-- A joined head is ACTIVE with its trim kept, and its channel is seeded by the frame (R10, R30). -/
theorem joinComplete_own (s : State) (h : Fin 12) (f : Frame) :
    ((s.joinComplete h f).head h).state = .active ∧ ((s.joinComplete h f).head h).trim = (s.head h).trim ∧
      (s.joinComplete h f).channel h = (s.channel h).seeded f.aEnergy := by
  unfold State.joinComplete
  dsimp only
  split
  · simp [Channel.seeded]
  · simp [Channel.seeded]

/-! ## Settling one head -/

theorem settleHead_head (s : State) (h : Fin 12) : (s.settleHead h).head h = (s.headStep h (s.buffer h)).head h := by
  simp [State.settleHead, State.head]

theorem headStep_active_some {s : State} {h : Fin 12} (hstate : (s.head h).state = .active) (f : Frame) :
    s.headStep h (some f) = s.setHead h { s.head h with miss := 0 } := by
  simp [State.headStep, hstate]

/-- The running energies that a present tick steps from: the channel's own where the head was ACTIVE, else the seed of the join
that this tick completed (R10). -/
def startEnergies (x : Head) (ch : Channel) (f : Frame) : Channel :=
  { ch with
    fast := if x.state = .active then ch.fast else f.aEnergy
    slow := if x.state = .active then ch.slow else f.aEnergy }

section Settle

variable {s : State} {h : Fin 12} (hopen : (s.channel h).isOpen = true)
include hopen

/-- A present tick (R54, R55): of a head that was ACTIVE or completed its join at this tick. -/
theorem settleHead_present {f : Frame} (hbuffer : s.buffer h = some f) (hfault : f.faultFlag = false)
    (hactive : ((s.settleHead h).head h).state = .active) (hcal : s.calibration h = none) :
    (s.settleHead h).calRecord h = s.calRecord h ∧
      (s.settleHead h).channel h =
        (startEnergies (s.head h) (s.channel h) f).presentTick f (s.head h).trim (tickOffset s.period s.clock) := by
  have step := headStep_cases s h (some f)
  rw [settleHead_head, hbuffer] at hactive
  unfold State.settleHead
  dsimp only
  rw [hbuffer]
  generalize s.headStep h (some f) = t at step hactive
  cases step with
  | lost _ ho => cases ho
  | joined g hjoining ho =>
    cases ho
    obtain ⟨-, htrim, hch⟩ := joinComplete_own s h f
    have hcal : (s.joinComplete h f).calibration h = none := by
      simpa only [State.calibration, calRecord_joinComplete] using hcal
    rw [channelTick_present (by rw [hch]; exact hopen) hactive hfault hcal, htrim, hch]
    simp [startEnergies, Channel.seeded, hjoining, calRecord_joinComplete]
  | moved x htrim hstate =>
    rw [head_setHead_same] at hactive
    rw [channelTick_present (s := s.setHead h x) hopen (by simpa using hactive) hfault hcal]
    simp [startEnergies, hstate.mp hactive, htrim]

/-- A calibration tick (R54, R58, R71, R73). -/
theorem settleHead_calibration {f : Frame} {c : Calibration} (hbuffer : s.buffer h = some f) (hfault : f.faultFlag = false)
    (hstate : (s.head h).state = .active) (hcal : s.calibration h = some c) :
    (s.settleHead h).channel h = (s.channel h).calibrationTick (some f) ∧
      ((s.settleHead h).head h).trim = (s.head h).trim ∧
      (f.overFlag = false → (s.settleHead h).calibration h =
        some { c with count := c.count + 1, sum := c.sum + BitVec.ofNat 72 f.aEnergy }) ∧
      (f.overFlag = true → (s.settleHead h).calibration h = none ∧
        HoldsAnswer (s.settleHead h) c.slot (s.slot c.slot).postMark .aborted 1
          [0xFFFF, intWord (s.head h).trim, intWord (s.head h).trim, word c.count]) := by
  have hprogress := (calibration_eq_some.mp hcal).2
  obtain ⟨t, settled, hhead, hchannel, hcalibration, hslot⟩ : ∃ t,
      s.settleHead h = (t.feedCalibration h f).setBuffer h none ∧ t.head h = { s.head h with miss := 0 } ∧
      t.channel h = (s.channel h).calibrationTick (some f) ∧ t.calibration h = some c ∧ SlotKept s t c.slot := by
    refine ⟨(s.setHead h { s.head h with miss := 0 }).setChannel h ((s.channel h).calibrationTick (some f)), ?_, by simp,
      by simp, hcal, .of_eq⟩
    have tick := channelTick_calibration (s := s.setHead h { s.head h with miss := 0 }) hopen (by simpa using hstate) hfault hcal
    unfold State.settleHead
    dsimp only
    rw [hbuffer, headStep_active_some hstate, tick, channel_setHead_keep]
  rw [settled]
  refine ⟨?_, ?_, fun hgood => ?_, fun hover => ?_⟩
  · simpa [State.channel] using hchannel
  · have hfed : (t.feedCalibration h f).head h = t.head h := by simp [State.head]
    simp [hfed, hhead]
  · rw [feedCalibration_of_good hcalibration hgood]
    simp [calibration_setCalibration, hprogress]
  · rw [feedCalibration_of_over hover]
    refine ⟨by simp [calibration_abortCalibration], ?_⟩
    have aborted := abortCalibration_holds hcalibration .overload
    rw [hhead, hslot.slot] at aborted
    exact aborted.kept (setBuffer_keeps_slot ..)

end Settle

/-- What the settling of a head makes of its entries at a gap tick, with `o` its frame if it has one: the head is lost, or joins
by a frame that has FAULT set, or stays as to being ACTIVE (R31, R54, R58, R73). -/
inductive GapSettled (s : State) (h : Fin 12) (o : Option Frame) (t : State) : Prop where
  | lost (hbefore : (s.head h).state = .active) (hafter : (t.head h).state ≠ .active)
    (hchannel : t.channel h = (s.channel h).forgotten.gapTick o false) (hcalibration : t.calibration h = none)
    (hanswer : ∀ c, s.calibration h = some c → HoldsAnswer t c.slot (s.slot c.slot).postMark .aborted 2
      [0xFFFF, intWord (s.head h).trim, intWord (s.head h).trim, word c.count])
  | joined (f : Frame) (hframe : o = some f) (hbefore : (s.head h).state = .joining) (hafter : (t.head h).state = .active)
    (hchannel : t.channel h = ((s.channel h).seeded f.aEnergy).gapTick o true) (hrecord : t.calRecord h = s.calRecord h)
  | stayed (hstate : (t.head h).state = .active ↔ (s.head h).state = .active)
    (hchannel : t.channel h = (s.channel h).gapTick o (decide ((t.head h).state = .active)))
    (hrecord : t.calRecord h = s.calRecord h)

theorem settleHead_gap {s : State} {h : Fin 12} (hopen : (s.channel h).isOpen = true)
    (hgap : s.buffer h = none ∨ (∃ f, s.buffer h = some f ∧ f.faultFlag = true) ∨
      ((s.settleHead h).head h).state ≠ .active) : GapSettled s h (s.buffer h) (s.settleHead h) := by
  have step := headStep_cases s h (s.buffer h)
  rw [settleHead_head] at hgap
  have settled : s.settleHead h = ((s.headStep h (s.buffer h)).channelTick h (s.buffer h)).setBuffer h none := rfl
  generalize s.headStep h (s.buffer h) = t at step hgap settled
  rw [settled]
  cases step with
  | lost hstate ho =>
    have hhead := loseHead_head s h
    rw [channelTick_gap (by rw [loseHead_channel]; exact hopen) hgap]
    refine .lost hstate ?_ ?_ ?_ fun c hc => ?_
    · simp [hhead]
    · simp [hhead, loseHead_channel]
    · simp [calibration_loseHead]
    · exact (loseHead_holds hc).kept ((setChannel_keeps_slot ..).trans (setBuffer_keeps_slot ..))
  | joined f hstate ho =>
    obtain ⟨hactive, -, hch⟩ := joinComplete_own s h f
    rw [channelTick_gap (by rw [hch]; exact hopen) hgap]
    refine .joined f ho hstate ?_ ?_ ?_
    · simpa using hactive
    · simp [hactive, hch]
    · simp [calRecord_joinComplete]
  | moved x htrim hstate =>
    rw [channelTick_gap (by simpa using hopen) hgap]
    refine .stayed ?_ ?_ ?_
    · simpa using hstate
    · simp
    · simp

/-! ## The tick close of all heads -/

/-- t comes from s by a tick close that settled head h: between them stand a state u from before its settling and what settling
the head makes of u, and neither the head's entries nor the slot of its calibration change otherwise. -/
def HeadClosed (s t : State) (h : Fin 12) : Prop :=
  ∃ u, OwnKept s u h ∧ OwnKept (u.settleHead h) t h ∧
    ∀ c, s.calibration h = some c → SlotKept s u c.slot ∧ SlotKept (u.settleHead h) t c.slot

/-- The calibrations of two heads answer in different slots. -/
def SlotsDiffer (s : State) (g h : Fin 12) : Prop :=
  ∀ n, (s.calibration g).map Calibration.slot = some n → ∀ m, (s.calibration h).map Calibration.slot = some m → n ≠ m

theorem SlotsDiffer.symm {s : State} {g h : Fin 12} (hgh : SlotsDiffer s g h) : SlotsDiffer s h g :=
  fun n hn m hm => (hgh m hm n hn).symm

theorem mem_allHeads (h : Fin 12) : h ∈ allHeads := by
  revert h
  decide

/-- Handed-over requests hold different slots, so no other head's calibration answers in this head's slot (R166). -/
theorem slotFree_of_nodup {s : State} {g h : Fin 12} {c : Calibration} (hheld : (heldSlots s).Nodup) (hne : g ≠ h)
    (hc : s.calibration h = some c) : SlotFree s c.slot g := by
  obtain ⟨-, calibrating, -⟩ := List.nodup_append.mp hheld
  have distinct : allHeads.Pairwise (SlotsDiffer s) := List.pairwise_filterMap.mp calibrating
  have symmetric : Std.Symm (SlotsDiffer s) := ⟨fun _ _ => SlotsDiffer.symm⟩
  intro d hd
  exact distinct.forall (mem_allHeads g) (mem_allHeads h) hne d.slot (by simp [hd]) c.slot (by simp [hc])

/-- Settling a list of heads settles each of them as `HeadClosed` says. -/
theorem settleHeads_closed {s : State} {l : List (Fin 12)} {h : Fin 12} (hl : l.Nodup) (hmem : h ∈ l)
    (hheld : (heldSlots s).Nodup) : HeadClosed s (l.foldl State.settleHead s) h := by
  obtain ⟨before, after, rfl⟩ := List.append_of_mem hmem
  obtain ⟨-, hafter, hdisjoint⟩ := List.nodup_append.mp hl
  have hnotBefore : h ∉ before := fun hb => hdisjoint h hb h List.mem_cons_self rfl
  have hnotAfter : h ∉ after := (List.nodup_cons.mp hafter).1
  rw [List.foldl_append, List.foldl_cons]
  refine ⟨_, settleHeads_keep_own hnotBefore s, settleHeads_keep_own hnotAfter _, fun c hc => ?_⟩
  have free : ∀ g, g ≠ h → SlotFree s c.slot g := fun g hne => slotFree_of_nodup hheld hne hc
  exact ⟨settleHeads_keep_slot fun g hg => free g (ne_of_mem_of_not_mem hg hnotBefore),
    settleHeads_keep_slot fun g hg => (free g (ne_of_mem_of_not_mem hg hnotAfter)).from
      ((settleHeads_from before s g).trans (settleHead_from _ h g))⟩

/-- The heads that a tick close settles (R27). -/
def closingHeads (s : State) : List (Fin 12) := allHeads.filter (fun h => decide ((s.head h).state ≠ .off))

theorem mem_closingHeads {s : State} {h : Fin 12} : h ∈ closingHeads s ↔ (s.head h).state ≠ .off := by
  simp [closingHeads, mem_allHeads]

theorem nodup_closingHeads (s : State) : (closingHeads s).Nodup := List.Nodup.filter _ (by decide)

theorem beginTick_of_closing {s : State} (hs : TickClosing s) :
    s.beginTick = { s with stage := .closing (closingHeads s) } := by
  obtain ⟨⟨⟨hidle, hreset⟩, hrun⟩, hopen, hquiet⟩ := hs
  simp [State.beginTick, hidle, State.timerRuns, hreset, hrun, hopen, State.endCollection, hquiet, closingHeads]

theorem captureStage_keeps_slot (s : State) (n : Fin 8) : SlotKept s s.captureStage n := by
  unfold State.captureStage
  split
  · exact (completeIfDue_keeps_slot s n).trans (.of_eq (s := s.completeIfDue))
  · exact .refl s n

theorem closeTick_of_closing {s : State} {todo : List (Fin 12)} (hs : s.stage = .closing todo) :
    s.closeTick = { (todo.foldl State.settleHead s).takeSamples with stage := .closed } := by
  simp [State.closeTick, hs]

/-- Past the settling of the heads a tick close takes samples and completes a capture, which no head's entries show. -/
theorem closeTick_captureStage_keeps {s : State} {todo : List (Fin 12)} (hs : s.stage = .closing todo) :
    (∀ h, OwnKept (todo.foldl State.settleHead s) s.closeTick.captureStage h) ∧
      ∀ n, SlotKept (todo.foldl State.settleHead s) s.closeTick.captureStage n := by
  rw [closeTick_of_closing hs]
  exact ⟨fun h => .of_eq, fun n => (SlotKept.of_eq (t := { State.takeSamples _ with stage := .closed })).trans
    (captureStage_keeps_slot _ n)⟩

/-- CAPTURE_COMPLETE settles every head that is not OFF and leaves the others' entries alone (R27; log entry 2). -/
theorem captureComplete_closes {s : State} (hs : TickClosing s) (hheld : (heldSlots s).Nodup) :
    ∃ t, exec .captureComplete s = .next t ∧ (∀ h, (s.head h).state = .off → OwnKept s t h) ∧
      ∀ h, (s.head h).state ≠ .off → HeadClosed s t h := by
  have begun := beginTick_of_closing hs
  have begunOwn : ∀ h, OwnKept s s.beginTick h := fun h => begun ▸ .of_eq
  have begunSlot : ∀ n, SlotKept s s.beginTick n := fun n => begun ▸ .of_eq
  have begunHeld : (heldSlots s.beginTick).Nodup := begun ▸ hheld
  obtain ⟨own, slot⟩ := closeTick_captureStage_keeps (s := s.beginTick) (todo := closingHeads s) (by rw [begun])
  refine ⟨_, if_pos hs.1.2, fun h hoff => ?_, fun h hon => ?_⟩
  · have hout : h ∉ closingHeads s := fun hin => mem_closingHeads.mp hin hoff
    exact (begunOwn h).trans ((settleHeads_keep_own hout _).trans (own h))
  · obtain ⟨u, hu, ht, hslots⟩ := settleHeads_closed (nodup_closingHeads s) (mem_closingHeads.mpr hon) begunHeld
    refine ⟨u, (begunOwn h).trans hu, ht.trans (own h), fun c hc => ?_⟩
    obtain ⟨hbefore, hafter⟩ := hslots c ((begunOwn h).calibration.trans hc)
    exact ⟨(begunSlot c.slot).trans hbefore, hafter.trans (slot c.slot)⟩

/-! ## The categories, from before the tick close to after it -/

section Closed

variable {s t : State} {h : Fin 12} (hclosed : HeadClosed s t h) (hopen : (s.channel h).isOpen = true)
include hclosed hopen

theorem HeadClosed.present {f : Frame} (hbuffer : s.buffer h = some f) (hfault : f.faultFlag = false)
    (hactive : (t.head h).state = .active) (hcal : s.calibration h = none) : t.calRecord h = s.calRecord h ∧
      t.channel h =
        (startEnergies (s.head h) (s.channel h) f).presentTick f (s.head h).trim (tickOffset s.period s.clock) := by
  obtain ⟨u, hu, ht, -⟩ := hclosed
  rw [ht.head] at hactive
  rw [ht.record, ht.channel, ← hu.record, ← hu.channel, ← hu.head, ← hu.period, ← hu.clock]
  exact settleHead_present (hu.channel ▸ hopen) (hu.buffer.trans hbuffer) hfault hactive (hu.calibration.trans hcal)

theorem HeadClosed.calibrated {f : Frame} {c : Calibration} (hbuffer : s.buffer h = some f) (hfault : f.faultFlag = false)
    (hstate : (s.head h).state = .active) (hcal : s.calibration h = some c) :
    t.channel h = (s.channel h).calibrationTick (some f) ∧
      (f.overFlag = false → t.calibration h =
        some { c with count := c.count + 1, sum := c.sum + BitVec.ofNat 72 f.aEnergy }) ∧
      (f.overFlag = true → t.calibration h = none ∧ (t.head h).trim = (s.head h).trim ∧
        HoldsAnswer t c.slot (s.slot c.slot).postMark .aborted 1
          [0xFFFF, intWord (s.head h).trim, intWord (s.head h).trim, word c.count]) := by
  obtain ⟨u, hu, ht, hslots⟩ := hclosed
  obtain ⟨hbefore, hafter⟩ := hslots c hcal
  obtain ⟨hchannel, htrim, hgood, hover⟩ := settleHead_calibration (hu.channel ▸ hopen) (hu.buffer.trans hbuffer) hfault
    (hu.head ▸ hstate) (hu.calibration.trans hcal)
  rw [hu.head, hbefore.slot] at hover
  rw [hu.head] at htrim
  rw [ht.calibration, ht.channel, ht.head, ← hu.channel]
  exact ⟨hchannel, hgood, fun ho => ⟨(hover ho).1, htrim, (hover ho).2.kept hafter⟩⟩

theorem HeadClosed.gap (hgap : s.buffer h = none ∨ (∃ f, s.buffer h = some f ∧ f.faultFlag = true) ∨
    (t.head h).state ≠ .active) : GapSettled s h (s.buffer h) t := by
  obtain ⟨u, hu, ht, hslots⟩ := hclosed
  rw [← hu.buffer, ht.head] at hgap
  have settled := settleHead_gap (hu.channel ▸ hopen) hgap
  rw [hu.buffer] at settled
  cases settled with
  | lost hbefore hafter hchannel hcalibration hanswer =>
    refine .lost (hu.head ▸ hbefore) (ht.head ▸ hafter) (by rw [ht.channel, hchannel, hu.channel])
      (ht.calibration.trans hcalibration) fun c hc => ?_
    have answered := hanswer c (hu.calibration.trans hc)
    rw [hu.head, (hslots c hc).1.slot] at answered
    exact answered.kept (hslots c hc).2
  | joined f hframe hbefore hafter hchannel hrecord =>
    exact .joined f hframe (hu.head ▸ hbefore) (ht.head ▸ hafter) (by rw [ht.channel, hchannel, hu.channel])
      (by rw [ht.record, hrecord, hu.record])
  | stayed hstate hchannel hrecord =>
    rw [hu.head, ← ht.head] at hstate
    rw [hu.channel, ← ht.head, ← ht.channel] at hchannel
    exact .stayed hstate hchannel (by rw [ht.record, hrecord, hu.record])

end Closed

/-! ## What a tick enters -/

theorem raiseTo_eq (old : Level) (v : Nat) : raiseTo old v = some (max v (old.getD 0)) := by
  cases old with
  | none => simp [raiseTo]
  | some o =>
    simp only [raiseTo, Option.getD_some]
    split <;> congr 1 <;> omega

theorem lowerTo_eq (old : Level) (v : Nat) : lowerTo old v = some (min v (old.getD v)) := by
  cases old with
  | none => simp [lowerTo]
  | some o =>
    simp only [lowerTo, Option.getD_some]
    split <;> congr 1 <;> omega

theorem newMaximum_iff (old : Level) (v : Nat) : newMaximum old v = true ↔ old = none ∨ old.getD 0 < v := by
  cases old with
  | none => simp [newMaximum]
  | some o => simp [newMaximum]

theorem countFlag_eq (b : Bool) (n : Nat) : (if b then n + 1 else n) = n + b.toNat := by
  cases b with
  | false => rfl
  | true => rfl

theorem countBin_getD (hist : Vector Nat 160) {k b : Nat} (hk : k < 160) (hb : b < 160) :
    (countBin hist k).toList.getD b 0 = hist.toList.getD b 0 + (if b = k then 1 else 0) := by
  by_cases hbk : b = k
  · subst hbk
    simp [countBin, hb]
  · simp [countBin, hb, hbk, Ne.symm hbk]

/-- A present tick enters the sums, extremes, counts and history as R55 to R57 say. -/
theorem presentTick_enters (ch : Channel) (f : Frame) (trim : Int) (offset : Nat) :
    let c := ch.presentTick f trim offset
    let level := headLevel c.fast trim
    let peak := headLevel f.cPeak trim
    c = { ch with
      fast := c.fast, slow := c.slow, lastFast := some level, lastSlow := some (headLevel c.slow trim)
      history := (ch.history ++ [some level]).drop (ch.history.length + 1 - 64)
      sec := { sum := ch.sec.sum + BitVec.ofNat 72 f.aEnergy, present := ch.sec.present + 1
               lafMax := some (max level (ch.sec.lafMax.getD 0))
               lcPeak := some (max peak (ch.sec.lcPeak.getD 0))
               overMark := ch.sec.overMark || f.overFlag }
      acc := { ch.acc with
        sum := ch.acc.sum + BitVec.ofNat 72 f.aEnergy
        ticksOpen := ch.acc.ticksOpen + 1
        present := ch.acc.present + 1
        overCount := ch.acc.overCount + f.overFlag.toNat
        underCount := ch.acc.underCount + f.underFlag.toNat
        windyCount := ch.acc.windyCount + f.windyFlag.toNat
        lafMax := some (max level (ch.acc.lafMax.getD 0))
        maxOffset := if ch.acc.lafMax = none ∨ ch.acc.lafMax.getD 0 < level then offset else ch.acc.maxOffset
        lafMin := some (min level (ch.acc.lafMin.getD level))
        lcPeak := some (max peak (ch.acc.lcPeak.getD 0))
        histogram := c.acc.histogram
        overloadSeen := ch.acc.overloadSeen || f.overFlag } } := by
  simp only [Channel.presentTick, SecondAcc.addPresent, PeriodAcc.addPresent, raiseTo_eq, lowerTo_eq, newMaximum_iff,
    countFlag_eq, appendHistory]

theorem presentTick_histogram (ch : Channel) (f : Frame) (trim : Int) (offset : Nat) {b : Nat} (hb : b < 160) :
    (ch.presentTick f trim offset).acc.histogram.toList.getD b 0 = ch.acc.histogram.toList.getD b 0 +
      (if b = histogramBin (headLevel (ch.presentTick f trim offset).fast trim) then 1 else 0) :=
  countBin_getD _ (Nat.lt_succ_of_le (histogramBin_holds _).1) hb

theorem seesOverload_eq (o : Option Frame) : seesOverload o = (o.map Frame.overFlag).getD false := by
  cases o with
  | none => rfl
  | some f => rfl

/-- Settles O19: a tick close settles each head that is not OFF by itself, and the category of its tick says what its channel and
its calibration make of it. -/
theorem tickEventCountsEveryChannel : Obligations.TickEventCountsEveryChannel := by
  rintro s hs ⟨-, -, -, hheld, -, -⟩
  obtain ⟨t, runs, off, closed⟩ := captureComplete_closes hs hheld
  refine ⟨t, runs, fun h hoff => ⟨(off h hoff).channel, (off h hoff).record⟩, fun h hopen hon => ⟨?_, ?_, ?_⟩⟩
  · intro f hbuffer hfault hactive hcal
    obtain ⟨hrecord, hchannel⟩ := (closed h hon).present hopen hbuffer hfault hactive hcal
    rw [hchannel]
    exact ⟨weightStep_cast (.inl rfl) _ _, weightStep_cast (.inr rfl) _ _, hrecord, presentTick_enters .., fun b hb =>
      presentTick_histogram _ f _ _ hb⟩
  · intro f c hbuffer hfault hstate hcal
    exact (closed h hon).calibrated hopen hbuffer hfault hstate hcal
  · intro hgap
    cases (closed h hon).gap hopen hgap with
    | lost hbefore hafter hchannel hcalibration hanswer =>
      rw [hchannel, ← seesOverload_eq]
      refine ⟨rfl, fun _ => ⟨rfl, rfl⟩, fun f hjoining => ?_, fun _ => ⟨rfl, rfl, rfl, hcalibration, hanswer⟩,
        fun hstays => ?_⟩
      · simp [hbefore] at hjoining
      · exact absurd ⟨hbefore, hafter⟩ hstays
    | joined f hframe hbefore hafter hchannel hrecord =>
      rw [hchannel, ← seesOverload_eq]
      refine ⟨rfl, fun hnot => absurd ⟨hbefore, hafter⟩ hnot, fun g _ _ hbuffer => ?_,
        fun hleaves => absurd hafter hleaves.2, fun _ => ⟨hrecord, rfl, rfl, (if_pos hafter).symm⟩⟩
      cases hframe.symm.trans hbuffer
      exact ⟨rfl, rfl⟩
    | stayed hstate hchannel hrecord =>
      rw [hchannel, ← seesOverload_eq]
      refine ⟨rfl, fun _ => ⟨rfl, rfl⟩, fun f hjoining hactive => ?_,
        fun hleaves => absurd (hstate.mpr hleaves.1) hleaves.2, fun _ => ⟨hrecord, rfl, rfl, ?_⟩⟩
      · simp [hstate.mp hactive] at hjoining
      · simp [Channel.gapTick, appendHistory]

end Sys2Proof.Machine
end

section
/-! PROOFS. What the engine's service of a request leaves (R165 to R168): the bytes, classes and slots that an answer touches,
and the requests that answer at once: ZERO HEAD COUNTERS, START and UNPARK. -/

namespace Sys2Proof.Machine

open Sys2Proof

/-! ## Bytes kept -/

theorem BytesKept.refl (s : State) (l : List (Nat × Nat)) : BytesKept s s l := fun _ _ => rfl

theorem BytesKept.of_store {s t : State} (h : t.store = s.store) (l : List (Nat × Nat)) : BytesKept s t l :=
  fun _ _ => by rw [h]

theorem BytesKept.trans {s t u : State} {l : List (Nat × Nat)} (hst : BytesKept s t l) (htu : BytesKept t u l) :
    BytesKept s u l := fun a ha => (htu a ha).trans (hst a ha)

theorem BytesKept.mono {s t : State} {l m : List (Nat × Nat)} (h : BytesKept s t l) (hlm : ∀ r ∈ l, r ∈ m) :
    BytesKept s t m := fun a ha => h a fun r hr => ha r (hlm r hr)

/-- A run of words written from a on leaves every byte outside it alone. -/
theorem bytesKept_of_writeWords {s t : State} {a : Nat} {ws : List Word} (h : t.store = s.store.writeWords a ws) :
    BytesKept s t [(a, a + 2 * ws.length)] := by
  intro b hb
  have := hb _ List.mem_cons_self
  rw [h]
  exact read_writeWords_outside _ _ _ _ (by omega)

theorem answer_bytesKept (s : State) (n : Fin 8) (code : AnswerCode) (detail : Nat) (reply : List Word) :
    BytesKept s (s.answer n code detail reply) [answerBytes n] := by
  have kept : BytesKept s (s.answer n code detail reply) _ := bytesKept_of_writeWords rfl
  rwa [length_answerWords] at kept

/-! ## Classes raised -/

theorem OnlyRaised.of_notices {s t : State} (h : t.notices = s.notices) : OnlyRaised s t [] :=
  ⟨fun c => by simp [State.isPending, h], by rw [h]⟩

theorem OnlyRaised.raise {s t : State} {l : List NoticeClass} (h : OnlyRaised s t l) (c : NoticeClass) :
    OnlyRaised s (t.raise c) (l ++ [c]) := by
  refine ⟨fun d => ?_, h.2⟩
  rw [isPending_raise, h.1 d]
  by_cases hd : d ∈ l
  · simp [hd]
  · simp [hd, eq_comm]

/-! ## Serving a request -/

theorem endService_keeps_slot (s : State) (n : Fin 8) : SlotKept s s.endService n := ⟨rfl, fun _ _ => rfl⟩

/-- The service of a request whose work in x ends with its answer, and has touched neither engine nor notices before (R165, R167). -/
theorem answers_of_work {s x : State} {n : Fin 8} (hrequests : x.requests = (s.take n).requests)
    (hnotices : x.notices = s.notices) (code : AnswerCode) (detail : Nat) (reply : List Word) :
    Answers s (x.answer n code detail reply).endService n code detail reply := by
  have slots : ∀ m, x.slot m = (s.take n).slot m := fun m => by simp only [State.slot, hrequests]
  refine ⟨?_, ⟨?_, rfl, fun m hm => ?_⟩, ?_⟩
  · have held := (answer_holds x n code detail reply).kept (endService_keeps_slot _ n)
    rwa [slots, slot_take, if_pos rfl] at held
  · simp [hrequests]
  · rw [slot_endService, slot_answer, if_neg (Ne.symm hm), slots, slot_take, if_neg (Ne.symm hm)]
  · have raised := (OnlyRaised.of_notices (s := s) (t := x) hnotices).raise .answer
    exact ⟨fun c => (raised.1 c : (x.raise .answer).isPending c = _), raised.2⟩

theorem endService_bytesKept {s x : State} (hstore : x.store = s.store) {n : Fin 8} (code : AnswerCode) (detail : Nat)
    (reply : List Word) : BytesKept s (x.answer n code detail reply).endService [answerBytes n] :=
  (BytesKept.of_store hstore _).trans (answer_bytesKept x n code detail reply)

/-! ## One head's entries in a fold over all heads -/

/-- A fold over all heads whose other steps keep the view of head h: the view is what h's own step makes of a state with the view
from before. -/
theorem foldl_allHeads_at {β : Type} (p : State → β) (f : State → Fin 12 → State) (h : Fin 12)
    (keep : ∀ s g, g ≠ h → p (f s g) = p s) (s : State) : ∃ u, p u = p s ∧ p (allHeads.foldl f s) = p (f u h) :=
  (foldl_at p f h keep allHeads (by decide) s).2 (mem_allHeads h)

/-! ## ZERO HEAD COUNTERS -/

/-- One head's step of ZERO HEAD COUNTERS (R38). -/
def State.zeroHead (mask : Nat) (s : State) (h : Fin 12) : State :=
  if selects mask h then s.setHead h (s.head h).zeroed else s

theorem zeroHead_eq (mask : Nat) (s : State) (h : Fin 12) : s.zeroHead mask h = { s with heads := (s.zeroHead mask h).heads } := by
  unfold State.zeroHead
  split <;> rfl

theorem zeroHeads_eq (mask : Nat) (l : List (Fin 12)) (s : State) :
    l.foldl (State.zeroHead mask) s = { s with heads := (l.foldl (State.zeroHead mask) s).heads } :=
  List.foldlRecOn (motive := fun t : State => t = { s with heads := t.heads }) l _ rfl fun (t : State) ht h _ => by
    rw [zeroHead_eq mask t h, ht]

theorem head_zeroHeads (mask : Nat) (s : State) (h : Fin 12) :
    (allHeads.foldl (State.zeroHead mask) s).head h = if mask.testBit h.val then (s.head h).zeroed else s.head h := by
  obtain ⟨u, hu, he⟩ := foldl_allHeads_at (fun t => t.head h) (State.zeroHead mask) h (fun t g hg => by
    unfold State.zeroHead
    split
    · exact head_setHead_ne _ _ _ _ hg
    · rfl) s
  rw [he, State.zeroHead, selects, ← hu]
  split
  · exact head_setHead_same ..
  · rfl

/-- Settles O42: the mask alone decides between the refusal and the fold over the selected heads. -/
theorem zeroHeadCountersClearsSelected : Obligations.ZeroHeadCountersClearsSelected := by
  intro s n hserved
  have settled : s.finishClose = s := finishClose_of_closeDone hserved.2.1
  have served := serve_of_served hserved State.workZero
  have runs : exec .zeroHeadCounters s = .next (State.workZero (s.take n) n).endService := by
    rw [← served]
    exact congrArg (fun t => Host.Outcome.next (t.serve (isKind .zeroHeadCounters) State.workZero)) settled
  have mask : (s.take n).param n 2 = s.param n 2 := rfl
  unfold State.workZero at runs
  rw [mask] at runs
  refine ⟨fun hbad => ?_, fun hgood => ?_⟩
  · rw [if_pos hbad] at runs
    refine ⟨_, runs, answers_of_work rfl rfl _ _ _, endService_bytesKept (x := s.take n) rfl _ _ _, ?_⟩
    apply State.eq_of_fields <;> simp
  · rw [if_neg (Nat.not_le.mpr hgood)] at runs
    have zeroed := zeroHeads_eq (s.param n 2) allHeads (s.take n)
    have head := head_zeroHeads (s.param n 2) (s.take n)
    change exec .zeroHeadCounters s =
      .next ((allHeads.foldl (State.zeroHead (s.param n 2)) (s.take n)).answer n .done 0 []).endService at runs
    generalize allHeads.foldl (State.zeroHead (s.param n 2)) (s.take n) = z at runs zeroed head
    refine ⟨_, runs, ?_, answers_of_work (by rw [zeroed]) (by rw [zeroed]; rfl) _ _ _,
      endService_bytesKept (x := z) (by rw [zeroed]; rfl) _ _ _, fun h => ?_⟩
    · rw [zeroed]
      apply State.eq_of_fields <;> simp
    · simpa [Head.zeroed] using head h

/-! ## START and UNPARK -/

/-- One head's step of START and UNPARK (R33, R53). -/
def State.startHead (s : State) (h : Fin 12) : State :=
  if s.enabled h then (s.setHead h ((s.head h).restarted .joining)).setChannel h ((s.channel h).opened false false) else s

theorem startHeads_eq (s : State) :
    s.startHeads = { s with heads := s.startHeads.heads, channels := s.startHeads.channels } :=
  State.eq_of_fields (by simp) (by simp) (by simp) (by simp) (by simp) (by simp) (by simp) (by simp) (by simp) rfl rfl
    (by simp) (by simp) (by simp) (by simp) (by simp) (by simp) (by simp) (by simp) (by simp) (by simp) (by simp)

/-- START and UNPARK, started from a state u with the tables and the store of s, restart an enabled head and open its channel, and
leave the others (R33, R53). -/
theorem startHeads_own {s u : State} (hheads : u.heads = s.heads) (hchannels : u.channels = s.channels)
    (hstore : u.store = s.store) (h : Fin 12) :
    (s.enabled h = true → u.startHeads.head h = (s.head h).restarted .joining ∧
      u.startHeads.channel h = (s.channel h).opened false false) ∧
    (s.enabled h = false → u.startHeads.head h = s.head h ∧ u.startHeads.channel h = s.channel h) := by
  have head : u.head h = s.head h := by simp only [State.head, hheads]
  have channel : u.channel h = s.channel h := by simp only [State.channel, hchannels]
  have enabled : u.enabled h = s.enabled h := by unfold State.enabled State.peekWord; rw [hstore]
  rw [← head, ← channel, ← enabled]
  obtain ⟨v, hv, he⟩ := foldl_allHeads_at (fun t => (t.head h, t.channel h, t.enabled h)) State.startHead h (fun t g hg => by
    unfold State.startHead
    split
    · simp [hg]
    · rfl) u
  simp only [Prod.mk.injEq] at hv he
  obtain ⟨vhead, vchannel, venabled⟩ := hv
  obtain ⟨head, channel, -⟩ := he
  refine ⟨fun on => ?_, fun off => ?_⟩
  · have step : v.startHead h = _ := if_pos (venabled.trans on)
    exact ⟨head.trans (by simp [step, vhead]), channel.trans (by simp [step, vchannel])⟩
  · have step : v.startHead h = v := if_neg (by simp [venabled, off])
    exact ⟨head.trans (by rw [step, vhead]), channel.trans (by rw [step, vchannel])⟩

@[simp] theorem adopt_live (s : State) : s.adopt.live = s.staged := rfl

@[simp] theorem staged_take (s : State) (n : Fin 8) : (s.take n).staged = s.staged := rfl

theorem rule_adopt (s : State) (r : Fin 24) : s.adopt.rule r = RuleState.clear := by
  simp [State.adopt, State.clearRules, State.rule]

/-- Settles O29: START's work is the adoption, then the fold that starts the heads, then the answer. -/
theorem startAdoptsSetAndMeasures : Obligations.StartAdoptsSetAndMeasures := by
  intro s n hserved hrun hvalid
  have settled : s.finishTick = s := finishTick_of_idle (of_decide_eq_true hserved.2.1)
  have served := serve_of_served hserved State.workStart
  have heads := startHeads_eq { (s.take n).adopt with run := .measuring }
  have own := startHeads_own (s := s) (u := { (s.take n).adopt with run := .measuring }) rfl rfl rfl
  have runs : exec .start s = .next (State.workStart (s.take n) n).endService := by
    rw [← served]
    exact congrArg (fun t => Host.Outcome.next (t.serve (isKind .start) State.workStart)) settled
  have passes : validate (s.take n).staged = none := hvalid
  rw [State.workStart, if_neg (by simpa using hrun), passes] at runs
  dsimp only at runs
  generalize State.startHeads { (s.take n).adopt with run := .measuring } = z at runs heads own
  have live : z.live = s.staged := by rw [heads]; rfl
  have lengthWord : word (lengthCode z.live) = setWord s.staged 1 := by simp [live, lengthCode, word]
  rw [lengthWord, setId, live] at runs
  refine ⟨_, runs, answers_of_work (by rw [heads]; rfl) (by rw [heads]; rfl) _ _ _, ?_,
    endService_bytesKept (x := z) (by rw [heads]; rfl) _ _ _, fun r => ?_, fun h on => ?_, fun h off => ?_⟩
  · rw [heads]
    apply State.eq_of_fields <;> simp
  · rw [rule_endService_keep, rule_answer_keep, heads]
    exact rule_adopt (s.take n) r
  · simpa [Head.restarted, Channel.opened] using (own h).1 on
  · simpa using (own h).2 off

/-- Settles O32: UNPARK's work is the fold that starts the heads, then the answer. -/
theorem unparkResumesMeasuring : Obligations.UnparkResumesMeasuring := by
  intro s n hserved hrun
  have settled : s.finishTick = s := finishTick_of_idle (of_decide_eq_true hserved.2.1)
  have served := serve_of_served hserved State.workUnpark
  have heads := startHeads_eq { s.take n with run := .measuring }
  have own := startHeads_own (s := s) (u := { s.take n with run := .measuring }) rfl rfl rfl
  have runs : exec .unpark s = .next (State.workUnpark (s.take n) n).endService := by
    rw [← served]
    exact congrArg (fun t => Host.Outcome.next (t.serve (isKind .unpark) State.workUnpark)) settled
  have parked : (s.take n).run = .parked := hrun
  rw [State.workUnpark, parked] at runs
  dsimp only at runs
  generalize State.startHeads { s.take n with run := .measuring } = z at runs heads own
  refine ⟨_, runs, answers_of_work (by rw [heads]) (by rw [heads]; rfl) _ _ _,
    endService_bytesKept (x := z) (by rw [heads]; rfl) _ _ _, ?_, fun h on => ?_, fun h off => ?_⟩
  · rw [heads]
    apply State.eq_of_fields <;> simp
  · simpa [Head.restarted, Channel.opened] using (own h).1 on
  · simpa using (own h).2 off

end Sys2Proof.Machine
end

section
/-! PROOFS. The perimeter link: the form of a character on the pair (R18, R183), the check value (R21), what the receiver makes of
a wake character and of data characters (R22, R23), and what the end of a frame leaves (R24 to R26). -/

namespace Sys2Proof.Machine

open Sys2Proof

/-! ## Characters on the pair -/

theorem onPair_getLsbD (c : LinkChar) {i : Nat} (hi : i < 11) : c.onPair.getLsbD i =
    if i = 0 then false else if i < 9 then c.value.getLsbD (i - 1) else if i = 9 then c.wake else c.stopOk := by
  simp only [LinkChar.onPair, BitVec.getLsbD_append]
  interval_cases i <;> simp

/-- What is sent as a character is received as that character. -/
theorem sampleChar_onPair (c : LinkChar) : sampleChar c.onPair = some c := by
  have value : c.onPair.extractLsb' 1 8 = c.value := by
    refine BitVec.eq_of_getLsbD_eq fun i hi => ?_
    rw [BitVec.getLsbD_extractLsb', onPair_getLsbD c (by omega), if_neg (by omega), if_pos (by omega), Nat.add_sub_cancel_left]
    simp [hi]
  unfold sampleChar
  rw [onPair_getLsbD c (by decide), onPair_getLsbD c (by decide), onPair_getLsbD c (by decide), value]
  rfl

/-- Whatever begins with a low start bit is a character in its form on the pair. -/
theorem onPair_of_lowStart {p : PairChar} (hp : p.getLsbD 0 = false) : ∃ c, sampleChar p = some c ∧ c.onPair = p := by
  refine ⟨{ value := p.extractLsb' 1 8, wake := p.getLsbD 9, stopOk := p.getLsbD 10 }, ?_, ?_⟩
  · unfold sampleChar
    rw [hp]
    rfl
  · refine BitVec.eq_of_getLsbD_eq fun i hi => ?_
    rw [onPair_getLsbD _ hi]
    split
    · next h0 => rw [h0, hp]
    · split
      · rw [BitVec.getLsbD_extractLsb', show 1 + (i - 1) = i by omega]
        simp [show i - 1 < 8 by omega]
      · split
        · next h9 => rw [h9]
        · rw [show i = 10 by omega]

theorem filterMap_sampleChar_onPair (l : List LinkChar) : (l.map LinkChar.onPair).filterMap sampleChar = l := by
  have both : sampleChar ∘ LinkChar.onPair = some := funext sampleChar_onPair
  rw [List.filterMap_map, both, List.filterMap_some]

/-! ## The check value -/

/-- One shift of the check register as a number (R21). -/
def checkShift (r : Nat) : Nat := if r < 128 then 2 * r else (2 * r - 256) ^^^ 0x07

theorem toNat_crcShift (c : Byte) : (crcShift c).toNat = checkShift c.toNat := by
  have hc := c.isLt
  have shifted : (c <<< 1).toNat = 2 * c.toNat % 256 := by simp [Nat.shiftLeft_eq, Nat.mul_comm]
  have top : c.getLsbD 7 = decide (128 ≤ c.toNat) := by
    rw [← BitVec.msb_eq_decide c, BitVec.msb_eq_getLsbD_last]
  unfold crcShift checkShift
  rw [top]
  by_cases hlt : c.toNat < 128
  · simp [hlt, Nat.not_le.mpr hlt, shifted]
    omega
  · have mod : 2 * c.toNat % 256 = 2 * c.toNat - 256 := by omega
    rw [if_pos (by simpa using hlt), if_neg hlt, BitVec.toNat_xor, shifted, mod]
    rfl

/-- The register takes a character by exclusive-or and shifts eight times (R21). -/
theorem toNat_crcStep (c b : Byte) :
    (crcStep c b).toNat = (List.range 8).foldl (fun x _ => checkShift x) (c.toNat ^^^ b.toNat) := by
  rw [show List.range 8 = [0, 1, 2, 3, 4, 5, 6, 7] from rfl]
  simp only [crcStep, toNat_crcShift, BitVec.toNat_xor, List.foldl_cons, List.foldl_nil]

theorem toNat_crc (bs : List Byte) : (crc bs).toNat =
    bs.foldl (fun r b => (List.range 8).foldl (fun x _ => checkShift x) (r ^^^ b.toNat)) 0 := by
  have general : ∀ c : Byte, (bs.foldl crcStep c).toNat =
      bs.foldl (fun r b => (List.range 8).foldl (fun x _ => checkShift x) (r ^^^ b.toNat)) c.toNat := by
    induction bs with
    | nil => exact fun _ => rfl
    | cons b bs ih => exact fun c => by rw [List.foldl_cons, List.foldl_cons, ih, toNat_crcStep]
  exact general 0

theorem energyOf_eq (bs : List Byte) : energyOf bs = ((List.range bs.length).map fun i => (bs.getD i 0).toNat * 256 ^ i).sum := by
  induction bs with
  | nil => rfl
  | cons b bs ih =>
    rw [energyOf, ih, List.length_cons, List.range_succ_eq_map, List.map_cons, List.sum_cons, List.map_map, ← List.sum_map_mul_left]
    simp [Function.comp_def, Nat.pow_succ, Nat.mul_comm, Nat.mul_assoc]

/-- The six characters from position k on as an energy (R20, R183). -/
theorem energyOf_six {d : List Byte} {k : Nat} (hk : k + 6 ≤ d.length) :
    energyOf ((d.drop k).take 6) = ((List.range 6).map fun i => (d.getD (k + i) 0).toNat * 256 ^ i).sum := by
  have len : ((d.drop k).take 6).length = 6 := by simp; omega
  rw [energyOf_eq, len]
  refine congrArg List.sum (List.map_congr_left fun i hi => ?_)
  simp [List.getD_eq_getElem?_getD, List.getElem?_take_of_lt (List.mem_range.mp hi)]

/-! ## The end of a frame -/

/-- The state with its receiver at r. -/
def State.withReceiver (s : State) (r : Receiver) : State := { s with link := { s.link with receiver := r } }

theorem withReceiver_self {s : State} {r : Receiver} (h : s.link.receiver = r) : s.withReceiver r = s := by
  subst h
  rfl

/-- A GOOD frame of head h is counted and fills the head's buffer (R25). -/
def State.acceptFrame (s : State) (h : Fin 12) (chars : List Byte) : State :=
  ((s.setHead h ((s.head h).countFrame .good)).withReceiver .quiet).setBuffer h (some (frameOf chars))

/-- A frame of head h of another kind is counted and noted (R26). -/
def State.discardFrame (s : State) (h : Fin 12) (kind : FrameKind) : State :=
  { s.setHead h ((s.head h).countFrame kind) with link := { s.link with receiver := .quiet, badNote := true } }

theorem endFrame_of_good {s : State} {h : Fin 12} {chars : List Byte} {lacksStop : Bool}
    (hk : classify s.link.tickOpen (s.buffer h).isSome lacksStop chars = .good) :
    s.endFrame h chars lacksStop = s.acceptFrame h chars := by
  unfold State.endFrame
  dsimp only
  rw [hk, if_pos rfl]
  rfl

theorem endFrame_of_bad {s : State} {h : Fin 12} {chars : List Byte} {lacksStop : Bool} {kind : FrameKind}
    (hk : classify s.link.tickOpen (s.buffer h).isSome lacksStop chars = kind) (hbad : kind ≠ .good) :
    s.endFrame h chars lacksStop = s.discardFrame h kind := by
  unfold State.endFrame
  dsimp only
  rw [hk, if_neg hbad]
  rfl

/-- The end of a frame does not look at what the receiver was. -/
theorem endFrame_withReceiver (s : State) (r : Receiver) (h : Fin 12) (chars : List Byte) (lacksStop : Bool) :
    (s.withReceiver r).endFrame h chars lacksStop = s.endFrame h chars lacksStop := rfl

/-- The kind of a frame cut off before its fifteenth data character (R24). -/
def cutKind (lacksStop : Bool) : FrameKind := if lacksStop then .framing else .short

theorem cutKind_ne_good (lacksStop : Bool) : cutKind lacksStop ≠ .good := by
  cases lacksStop with
  | false => exact fun e => nomatch e
  | true => exact fun e => nomatch e

theorem endFrame_of_cut (s : State) (h : Fin 12) {chars : List Byte} (lacksStop : Bool) (hlen : chars.length < 15) :
    s.endFrame h chars lacksStop = s.discardFrame h (cutKind lacksStop) := by
  refine endFrame_of_bad ?_ (cutKind_ne_good lacksStop)
  unfold classify cutKind
  rw [if_pos hlen]

/-- A complete frame is judged by its stop bits, check character, tick number and the buffer, in this order (R24). -/
theorem classify_of_complete {mark : Byte} {full lacksStop : Bool} {d : List Byte} (hlen : d.length = 15) :
    classify (some mark) full lacksStop d =
      if lacksStop then .framing else if d.getD 14 0 ≠ frameCheck d then .check else if d.getD 0 0 ≠ mark then .stale
      else if full then .duplicate else .good := by
  simp [classify, hlen]

theorem countFrame_of_discarded (x : Head) {kind : FrameKind} (hgood : kind ≠ .good) (hnone : kind ≠ .none)
    (hshort : kind ≠ .short) : x.countFrame kind =
      { x with
        framing := if kind = .framing then min (x.framing + 1) 65535 else x.framing
        check := if kind = .check then min (x.check + 1) 65535 else x.check
        stale := if kind = .stale then min (x.stale + 1) 65535 else x.stale
        duplicate := if kind = .duplicate then min (x.duplicate + 1) 65535 else x.duplicate
        last := kind
        errorSeen := true } := by
  cases kind with
  | none => exact absurd rfl hnone
  | good => exact absurd rfl hgood
  | short => exact absurd rfl hshort
  | framing => rfl
  | check => rfl
  | stale => rfl
  | duplicate => rfl

/-! ## The receiver -/

theorem headOf_val (h : Fin 12) : headOf h.val = some h := dif_pos h.isLt

theorem headOf_eq_some {n : Nat} {h : Fin 12} (hn : headOf n = some h) : h.val = n := by
  unfold headOf at hn
  split at hn
  · rw [← Option.some.inj hn]
  · cases hn

theorem receive_wake {s : State} {c : LinkChar} (hc : c.wake = true) :
    s.receive c = s.endCollection.withReceiver (s.endCollection.wakeReceiver c) := if_pos hc

theorem endCollection_of_quiet {s : State} (hq : s.link.receiver = .quiet) : s.endCollection = s := by
  simp [State.endCollection, hq]

theorem endCollection_of_collecting {s : State} {h : Fin 12} {chars : List Byte} {lacksStop : Bool}
    (hr : s.link.receiver = .collecting h chars lacksStop) : s.endCollection = s.endFrame h chars lacksStop := by
  simp [State.endCollection, hr]

/-- A wake character that names a head which is not OFF opens that head's collection (R22). -/
theorem wakeReceiver_of_on {s : State} {h : Fin 12} {c : LinkChar} (hv : h.val = c.value.toNat)
    (hon : (s.head h).state ≠ .off) : s.wakeReceiver c = .collecting h [] (!c.stopOk) := by
  simp [State.wakeReceiver, ← hv, headOf_val, hon]

/-- A wake character that names no head, or one that is OFF, leaves the receiver QUIET (R22). -/
theorem wakeReceiver_of_off {s : State} {c : LinkChar}
    (hoff : ∀ h : Fin 12, h.val = c.value.toNat → (s.head h).state = .off) : s.wakeReceiver c = .quiet := by
  unfold State.wakeReceiver
  split
  · rfl
  · next h hn => rw [if_pos (hoff h (headOf_eq_some hn))]

theorem receive_data_of_quiet {s : State} {c : LinkChar} (hq : s.link.receiver = .quiet) (hc : c.wake = false) :
    s.receive c = s := by
  simp [State.receive, hc, hq]

/-- A data character before the fifteenth is stored, its stop bit noted (R23). -/
theorem receive_data {s : State} {h : Fin 12} {chars : List Byte} {lacksStop : Bool} {c : LinkChar}
    (hr : s.link.receiver = .collecting h chars lacksStop) (hc : c.wake = false) (hlen : chars.length < 14) :
    s.receive c = s.withReceiver (.collecting h (chars ++ [c.value]) (lacksStop || !c.stopOk)) := by
  have short : ¬ 15 ≤ (chars ++ [c.value]).length := by simp; omega
  simp only [State.receive, hc, hr, Bool.false_eq_true, if_false, if_neg short]
  rfl

/-- The fifteenth data character ends the frame (R23, R24). -/
theorem receive_last {s : State} {h : Fin 12} {chars : List Byte} {lacksStop : Bool} {c : LinkChar}
    (hr : s.link.receiver = .collecting h chars lacksStop) (hc : c.wake = false) (hlen : chars.length = 14) :
    s.receive c = s.endFrame h (chars ++ [c.value]) (lacksStop || !c.stopOk) := by
  have full : 15 ≤ (chars ++ [c.value]).length := by simp; omega
  simp only [State.receive, hc, hr, Bool.false_eq_true, if_false, if_pos full]

theorem receive_data_run {data : List LinkChar} (hdata : ∀ c ∈ data, c.wake = false) {s : State} {h : Fin 12}
    {chars : List Byte} {lacksStop : Bool} (hr : s.link.receiver = .collecting h chars lacksStop)
    (hlen : chars.length + data.length < 15) : data.foldl State.receive s =
      s.withReceiver (.collecting h (chars ++ data.map LinkChar.value) (lacksStop || data.any fun c => !c.stopOk)) := by
  induction data generalizing s chars lacksStop with
  | nil => simp [withReceiver_self hr]
  | cons c data ih =>
    rw [List.length_cons] at hlen
    rw [List.foldl_cons, receive_data hr (hdata c List.mem_cons_self) (by omega),
      ih (fun d hd => hdata d (List.mem_cons_of_mem c hd)) rfl (by simp; omega)]
    simp [State.withReceiver, Bool.or_assoc]

theorem receive_data_run_of_quiet {data : List LinkChar} (hdata : ∀ c ∈ data, c.wake = false) {s : State}
    (hq : s.link.receiver = .quiet) : data.foldl State.receive s = s :=
  List.foldlRecOn (motive := fun t => t = s) data _ rfl fun t ht c hc => by
    rw [ht, receive_data_of_quiet hq (hdata c hc)]

/-- Some character of a frame lacked its stop bit. -/
def frameLacksStop (wakeStop : Bool) (data : List LinkChar) : Bool := !wakeStop || data.any fun c => !c.stopOk

theorem frameLacksStop_iff (wakeStop : Bool) (data : List LinkChar) :
    frameLacksStop wakeStop data = true ↔ wakeStop = false ∨ ∃ c ∈ data, c.stopOk = false := by
  simp [frameLacksStop]

section FrameRun

variable {s : State} {h : Fin 12} (hq : s.link.receiver = .quiet) (hon : (s.head h).state ≠ .off) {wakeStop : Bool}
  {data : List LinkChar} (hdata : ∀ c ∈ data, c.wake = false)
include hq hon

theorem receive_frame_wake : s.receive { value := BitVec.ofNat 8 h.val, wake := true, stopOk := wakeStop } =
    s.withReceiver (.collecting h [] (!wakeStop)) := by
  have named : h.val = (BitVec.ofNat 8 h.val).toNat := by
    rw [BitVec.toNat_ofNat]
    exact (Nat.mod_eq_of_lt (by omega)).symm
  rw [receive_wake rfl, endCollection_of_quiet hq, wakeReceiver_of_on (by exact named) hon]

include hdata

/-- A frame that is not complete stays being collected (R23). -/
theorem receive_partial_frame (hlen : data.length < 15) : (frameChars h wakeStop data).foldl State.receive s =
    s.withReceiver (.collecting h (data.map LinkChar.value) (frameLacksStop wakeStop data)) := by
  rw [frameChars, List.foldl_cons, receive_frame_wake hq hon, receive_data_run hdata rfl (by simpa using hlen)]
  rfl

/-- A complete frame ends with its fifteenth data character (R23, R24). -/
theorem receive_complete_frame (hlen : data.length = 15) : (frameChars h wakeStop data).foldl State.receive s =
    s.endFrame h (data.map LinkChar.value) (frameLacksStop wakeStop data) := by
  obtain ⟨first, last, rfl⟩ : ∃ first last, data = first ++ [last] :=
    ⟨_, _, (List.dropLast_append_getLast (List.ne_nil_of_length_pos (by omega))).symm⟩
  have firstLen : first.length = 14 := by simpa using hlen
  have collected := receive_partial_frame hq hon (wakeStop := wakeStop) (data := first)
    (fun c hc => hdata c (List.mem_append_left _ hc)) (by omega)
  rw [frameChars] at collected
  rw [frameChars, ← List.cons_append, List.foldl_append, collected, List.foldl_cons, List.foldl_nil,
    receive_last rfl (hdata last (by simp)) (by simpa using firstLen), endFrame_withReceiver]
  simp [frameLacksStop, Bool.or_assoc]

end FrameRun

/-! ## FRAME -/

theorem exec_frame {s : State} (hidle : s.stage = .idle) (chars : List PairChar) :
    exec (.frame chars) s = .next (s.receiveAll chars) := by
  change Host.Outcome.next (s.finishTick.receiveAll chars) = _
  rw [finishTick_of_idle hidle]

/-- While MEASURING, between a mark and the close of its tick, a FRAME's characters are received one by one (R18). -/
theorem exec_frame_onPair {s : State} (hs : Measuring s) (hopen : s.link.tickOpen.isSome) (chars : List LinkChar) :
    exec (.frame (chars.map LinkChar.onPair)) s = .next (chars.foldl State.receive s) := by
  rw [exec_frame hs.1.1, State.receiveAll, if_pos (by simp [State.receiverOn, hs.1.2, hs.2, hopen]),
    filterMap_sampleChar_onPair]

/-- The kind of a complete frame, its check value written out as R21 says it. -/
theorem classify_complete_frame {mark : Byte} {full wakeStop : Bool} {data : List LinkChar} {d : List Byte}
    (hlen : d.length = 15) : classify (some mark) full (frameLacksStop wakeStop data) d =
      if wakeStop = false ∨ ∃ c ∈ data, c.stopOk = false then .framing
      else if (d.getD 14 0).toNat ≠ ((d.drop 1).take 13).foldl
        (fun r b => (List.range 8).foldl (fun x _ => checkShift x) (r ^^^ b.toNat)) 0 then .check
      else if d.getD 0 0 ≠ mark then .stale
      else if full then .duplicate
      else .good := by
  have check : d.getD 14 0 ≠ frameCheck d ↔ (d.getD 14 0).toNat ≠ (crc ((d.drop 1).take 13)).toNat :=
    not_congr BitVec.toNat_inj.symm
  rw [toNat_crc] at check
  rw [classify_of_complete hlen]
  exact if_congr (frameLacksStop_iff _ _) rfl (if_congr check rfl rfl)

theorem classify_complete_ne {mark : Byte} {full lacksStop : Bool} {d : List Byte} (hlen : d.length = 15) :
    classify (some mark) full lacksStop d ≠ .none ∧ classify (some mark) full lacksStop d ≠ .short := by
  rw [classify_of_complete hlen]
  constructor <;> (repeat' split) <;> exact fun e => nomatch e

/-- Settles O21: a complete frame ends with its fifteenth data character, and its kind decides between the two effects. -/
theorem completeFrameIsClassified : Obligations.CompleteFrameIsClassified := by
  refine ⟨fun c => ⟨onPair_getLsbD c (by decide), fun i hi => ?_, onPair_getLsbD c (by decide), onPair_getLsbD c (by decide),
    sampleChar_onPair c⟩, fun p hp => onPair_of_lowStart hp, ?_⟩
  · rw [onPair_getLsbD c (by omega), if_neg (by omega), if_pos (by omega), Nat.add_sub_cancel_left]
  intro s h mark wakeStop data hs hmark hq hon hlen hdata d shift check kind
  have dlen : d.length = 15 := by simpa [d] using hlen
  have runs := exec_frame_onPair hs (by simp [hmark]) (frameChars h wakeStop data)
  rw [receive_complete_frame hq hon hdata hlen] at runs
  have hkind : classify s.link.tickOpen (s.buffer h).isSome (frameLacksStop wakeStop data) d = kind := by
    rw [hmark]
    exact classify_complete_frame dlen
  obtain ⟨hnone, hshort⟩ := classify_complete_ne (mark := mark) (full := (s.buffer h).isSome)
    (lacksStop := frameLacksStop wakeStop data) dlen
  rw [← hmark, hkind] at hnone hshort
  change exec _ s = .next (s.endFrame h d (frameLacksStop wakeStop data)) at runs
  clear_value kind d
  by_cases hgood : kind = .good
  · rw [endFrame_of_good (hkind.trans hgood)] at runs
    refine ⟨_, runs, rfl, fun g hg => ?_, fun g hg => ?_, rfl, rfl, rfl, fun _ => ⟨?_, rfl, frameOf d, ?_, ?_, ?_, rfl, rfl, rfl,
      rfl⟩, fun hbad => absurd hgood hbad⟩
    · exact head_setHead_ne s h g _ (Ne.symm hg)
    · exact buffer_setBuffer_ne _ h g _ (Ne.symm hg)
    · exact head_setHead_same s h _
    · exact buffer_setBuffer_same _ h _
    · exact energyOf_six (k := 2) (by omega)
    · exact energyOf_six (k := 8) (by omega)
  · rw [endFrame_of_bad hkind hgood] at runs
    refine ⟨_, runs, rfl, fun g hg => ?_, fun _ _ => rfl, rfl, rfl, rfl, fun hk => absurd hk hgood, fun _ => ⟨rfl, rfl, ?_⟩⟩
    · exact head_setHead_ne s h g _ (Ne.symm hg)
    · rw [← countFrame_of_discarded _ hgood hnone hshort]
      exact head_setHead_same s h _

/-! ## FRAME piece by piece -/

/-- What a character leaves in the fields that say whether the receiver is on: run state, RESET#, the open tick, the stage. -/
def SameReception (s t : State) : Prop :=
  t.stage = s.stage ∧ t.resetLow = s.resetLow ∧ t.run = s.run ∧ t.link.tickOpen = s.link.tickOpen

theorem endFrame_sameReception (s : State) (h : Fin 12) (chars : List Byte) (lacksStop : Bool) :
    SameReception s (s.endFrame h chars lacksStop) := by
  unfold State.endFrame
  dsimp only
  split <;> exact ⟨rfl, rfl, rfl, rfl⟩

theorem endCollection_sameReception (s : State) : SameReception s s.endCollection := by
  unfold State.endCollection
  split
  · exact ⟨rfl, rfl, rfl, rfl⟩
  · exact endFrame_sameReception ..

theorem receive_sameReception (s : State) (c : LinkChar) : SameReception s (s.receive c) := by
  unfold State.receive
  dsimp only
  split
  · exact endCollection_sameReception s
  · split
    · exact ⟨rfl, rfl, rfl, rfl⟩
    · split
      · exact endFrame_sameReception ..
      · exact ⟨rfl, rfl, rfl, rfl⟩

theorem receiveAll_sameReception (s : State) (chars : List PairChar) : SameReception s (s.receiveAll chars) := by
  unfold State.receiveAll
  split
  · refine List.foldlRecOn (motive := SameReception s) _ _ ⟨rfl, rfl, rfl, rfl⟩ fun t ht c _ => ?_
    obtain ⟨stage, low, run, tick⟩ := ht
    obtain ⟨stage', low', run', tick'⟩ := receive_sameReception t c
    exact ⟨stage'.trans stage, low'.trans low, run'.trans run, tick'.trans tick⟩
  · exact ⟨rfl, rfl, rfl, rfl⟩

theorem receiveAll_append (s : State) (xs ys : List PairChar) :
    s.receiveAll (xs ++ ys) = (s.receiveAll xs).receiveAll ys := by
  obtain ⟨-, low, run, tick⟩ := receiveAll_sameReception s xs
  have on : (s.receiveAll xs).receiverOn = s.receiverOn := by simp only [State.receiverOn, low, run, tick]
  by_cases hon : s.receiverOn
  · rw [State.receiveAll, State.receiveAll, if_pos hon, on, if_pos hon, State.receiveAll, if_pos hon, List.filterMap_append,
      List.foldl_append]
  · rw [State.receiveAll, State.receiveAll, if_neg hon, on, if_neg hon, State.receiveAll, if_neg hon]

/-- A FRAME that comes in two pieces is received as the one it makes up. -/
theorem exec_frame_append {s t : State} {xs : List PairChar} (ys : List PairChar) (hx : exec (.frame xs) s = .next t) :
    exec (.frame (xs ++ ys)) s = exec (.frame ys) t := by
  have ht : s.finishTick.receiveAll xs = t := Host.Outcome.next.inj hx
  have idle : t.stage = .idle := by
    rw [← ht, (receiveAll_sameReception _ xs).1]
    exact finishTick_stage s
  rw [exec_frame idle, ← ht, ← receiveAll_append]
  rfl

/-- What takes no character, or none that begins with a low start bit, is not received (R18). -/
theorem exec_frame_unheard {s : State} {chars : List PairChar} (hs : Ready s)
    (h : s.run ≠ .measuring ∨ s.link.tickOpen = none ∨ ∀ p ∈ chars, p.getLsbD 0 = true) :
    exec (.frame chars) s = .next s := by
  rw [exec_frame hs.1, State.receiveAll]
  split
  · next hon =>
    obtain ⟨⟨-, hrun⟩, hopen⟩ : (s.resetLow = false ∧ s.run = .measuring) ∧ s.link.tickOpen.isSome = true := by
      simpa [State.receiverOn] using hon
    rcases h with hrun' | hclosed | hstart
    · exact absurd hrun hrun'
    · rw [hclosed] at hopen
      cases hopen
    · have none : chars.filterMap sampleChar = [] :=
        List.filterMap_eq_nil_iff.mpr fun p hp => by unfold sampleChar; rw [if_pos (hstart p hp)]
      rw [none]
      rfl
  · rfl

/-- A character in QUIET that is no wake character of a head which is not OFF leaves the state as it is (R22, R23). -/
theorem exec_frame_ignored {s : State} {l : List LinkChar} (hs : Ready s) (hl : l.foldl State.receive s = s) :
    exec (.frame (l.map LinkChar.onPair)) s = .next s := by
  by_cases hon : s.run = .measuring ∧ s.link.tickOpen.isSome
  · rw [exec_frame_onPair ⟨hs, hon.1⟩ hon.2, hl]
  · refine exec_frame_unheard hs ?_
    rcases Decidable.not_and_iff_or_not.mp hon with hrun | hclosed
    · exact .inl hrun
    · exact .inr (.inl (by simpa using hclosed))

theorem receive_wake_of_off {s : State} {w : LinkChar} (hq : s.link.receiver = .quiet) (hw : w.wake = true)
    (hoff : ∀ h : Fin 12, h.val = w.value.toNat → (s.head h).state = .off) : s.receive w = s := by
  rw [receive_wake hw, endCollection_of_quiet hq, wakeReceiver_of_off hoff, withReceiver_self hq]

/-! ## Frames cut off -/

/-- A head entry after a frame cut off before its fifteenth data character (R24, R26). -/
theorem countFrame_cutKind (x : Head) (lacksStop : Bool) : x.countFrame (cutKind lacksStop) =
    if lacksStop then { x with framing := min (x.framing + 1) 65535, last := .framing, errorSeen := true }
    else { x with short := min (x.short + 1) 65535, last := .short, errorSeen := true } := by
  cases lacksStop with
  | false => rfl
  | true => rfl

theorem countFrame_state (x : Head) (kind : FrameKind) : (x.countFrame kind).state = x.state := by
  cases kind <;> rfl

theorem discardFrame_head_state (s : State) (h g : Fin 12) (kind : FrameKind) :
    ((s.discardFrame h kind).head g).state = (s.head g).state := by
  change ((s.setHead h ((s.head h).countFrame kind)).head g).state = _
  rw [head_setHead]
  split
  · next e => rw [countFrame_state, e]
  · rfl

/-- A wake character that cuts a frame off ends it, and opens the collection that it names (R22, R24). -/
theorem receive_wake_cut {s : State} {h : Fin 12} {chars : List Byte} {lacksStop : Bool} {w : LinkChar}
    (hw : w.wake = true) (hlen : chars.length < 15) : (s.withReceiver (.collecting h chars lacksStop)).receive w =
      (s.discardFrame h (cutKind lacksStop)).withReceiver ((s.discardFrame h (cutKind lacksStop)).wakeReceiver w) := by
  rw [receive_wake hw, endCollection_of_collecting rfl, endFrame_withReceiver, endFrame_of_cut s h lacksStop hlen]

/-- A tick event that finds a frame not complete ends it first (R27). -/
theorem beginTick_of_cut {s t : State} (hs : Measuring s) (hopen : s.link.tickOpen.isSome) (ht : t = s.endCollection)
    (hquiet : t.link.receiver = .quiet) : s.beginTick = t.beginTick := by
  obtain ⟨⟨idle, low⟩, run⟩ := hs
  obtain ⟨stage', low', run', tick'⟩ := endCollection_sameReception s
  rw [← ht] at stage' low' run' tick'
  have again : t.endCollection = t := endCollection_of_quiet hquiet
  simp [State.beginTick, State.timerRuns, stage', low', run', tick', idle, low, run, hopen, again, ← ht]

theorem exec_tickEvent_congr {s t : State} (h : s.beginTick = t.beginTick) : exec .tickEvent s = exec .tickEvent t :=
  congrArg (fun u : State => Host.Outcome.next u.finishTick) h

theorem exec_captureComplete {s : State} (hrun : s.run = .measuring) :
    exec .captureComplete s = .next s.beginTick.closeTick.captureStage := if_pos hrun

theorem exec_captureComplete_congr {s t : State} (h : s.beginTick = t.beginTick) (hs : s.run = .measuring)
    (ht : t.run = .measuring) : exec .captureComplete s = exec .captureComplete t := by
  rw [exec_captureComplete hs, exec_captureComplete ht, h]

/-- Settles O22: the receiver's rules for one character, for runs of data characters, and for the wake character and the tick
close that end a frame early. -/
theorem shortAndUnheardFrames : Obligations.ShortAndUnheardFrames := by
  refine ⟨fun s t xs ys hx => exec_frame_append ys hx, ?_, ?_, ?_, ?_, ?_, fun s chars hs h => exec_frame_unheard hs h, ?_⟩
  · intro s h w hs hopen hq hon hw hv
    have runs := exec_frame_onPair hs hopen [w]
    rwa [List.foldl_cons, List.foldl_nil, receive_wake hw, endCollection_of_quiet hq, wakeReceiver_of_on hv.symm hon] at runs
  · intro s h chars lacksStop c hs hopen hr hlen hc
    have runs := exec_frame_onPair hs hopen [c]
    rwa [List.foldl_cons, List.foldl_nil, receive_data hr hc hlen] at runs
  · exact fun s data hs hq hdata => exec_frame_ignored hs (receive_data_run_of_quiet hdata hq)
  · intro s h wakeStop data w hs hopen hq hon hlen hdata hw
    have runs := exec_frame_onPair hs hopen (frameChars h wakeStop data ++ [w])
    rw [List.foldl_append, receive_partial_frame hq hon hdata hlen, List.foldl_cons, List.foldl_nil,
      receive_wake_cut hw (by simpa using hlen)] at runs
    have counted := countFrame_cutKind (s.head h) (frameLacksStop wakeStop data)
    have states := discardFrame_head_state s h
    refine ⟨_, runs, rfl, fun g hg => head_setHead_ne s h g _ (Ne.symm hg), fun hwake hall => ?_, fun hlacks => ?_,
      fun g hg hgon => ?_, fun hgoff => ?_⟩
    · have stops : frameLacksStop wakeStop data = false := by simpa [frameLacksStop, hwake] using hall
      rw [if_neg (by simp [stops])] at counted
      exact (head_setHead_same s h _).trans counted
    · rw [if_pos ((frameLacksStop_iff wakeStop data).mpr hlacks)] at counted
      exact (head_setHead_same s h _).trans counted
    · rw [wakeReceiver_of_on hg (by rw [states]; exact hgon)]
      rfl
    · rw [wakeReceiver_of_off fun g hg => by rw [states]; exact hgoff g hg]
      simp [State.withReceiver, State.discardFrame, hq]
  · intro s h chars lacksStop hs hopen hr hlen
    have begun := beginTick_of_cut (t := s.discardFrame h (cutKind lacksStop)) hs hopen
      ((endCollection_of_collecting hr).trans (endFrame_of_cut s h lacksStop hlen)).symm rfl
    rw [State.discardFrame, countFrame_cutKind] at begun
    exact ⟨exec_tickEvent_congr begun, exec_captureComplete_congr begun hs.2 hs.2⟩
  · intro s w data hs hq hw hoff hdata
    refine exec_frame_ignored hs.1 ?_
    rw [List.foldl_cons, receive_wake_of_off hq hw hoff, receive_data_run_of_quiet hdata hq]

end Sys2Proof.Machine
end

section
/-! PROOFS. What ends a calibration early and what marks a head departed, in the blocks that the heads share (R34, R73, R156), and
the two parts of a tick close that settle one head: JOIN_COMPLETE and HEAD_LOST. -/

namespace Sys2Proof.Machine

open Sys2Proof

/-! ## Slots answered and classes raised -/

/-- Between s and t the slots listed are answered and nothing else of the engine or of the store is touched (R167). -/
structure SlotsAnswered (s t : State) (l : List (Fin 8)) : Prop where
  slot : ∀ n, n ∉ l → t.slot n = s.slot n
  bytes : BytesKept s t (l.map answerBytes)
  queue : t.requests.queue = s.requests.queue
  inService : t.requests.inService = s.requests.inService

theorem SlotsAnswered.of_eq {s t : State} (hrequests : t.requests = s.requests := by simp)
    (hstore : t.store = s.store := by simp) : SlotsAnswered s t [] :=
  ⟨fun _ _ => by simp only [State.slot, hrequests], .of_store hstore _, by rw [hrequests], by rw [hrequests]⟩

theorem SlotsAnswered.trans {s t u : State} {l m : List (Fin 8)} (hst : SlotsAnswered s t l) (htu : SlotsAnswered t u m) :
    SlotsAnswered s u (l ++ m) where
  slot n hn := (htu.slot n fun h => hn (List.mem_append_right l h)).trans (hst.slot n fun h => hn (List.mem_append_left m h))
  bytes := by
    rw [List.map_append]
    exact (hst.bytes.mono fun r hr => List.mem_append_left _ hr).trans (htu.bytes.mono fun r hr => List.mem_append_right _ hr)
  queue := htu.queue.trans hst.queue
  inService := htu.inService.trans hst.inService

/-- An operation that leaves the engine and the store alone adds nothing to the slots answered. -/
theorem SlotsAnswered.then_eq {s t u : State} {l : List (Fin 8)} (hst : SlotsAnswered s t l)
    (hrequests : u.requests = t.requests := by simp) (hstore : u.store = t.store := by simp) : SlotsAnswered s u l := by
  have both := hst.trans (SlotsAnswered.of_eq hrequests hstore)
  rwa [List.append_nil] at both

theorem SlotsAnswered.after_eq {s t u : State} {l : List (Fin 8)} (htu : SlotsAnswered t u l)
    (hrequests : t.requests = s.requests := by simp) (hstore : t.store = s.store := by simp) : SlotsAnswered s u l :=
  (SlotsAnswered.of_eq hrequests hstore).trans htu

theorem answer_answers (s : State) (n : Fin 8) (code : AnswerCode) (detail : Nat) (reply : List Word) :
    SlotsAnswered s (s.answer n code detail reply) [n] where
  slot m hm := by rw [slot_answer, if_neg fun e => hm (by simp [e])]
  bytes := answer_bytesKept s n code detail reply
  queue := rfl
  inService := rfl

/-- Slots answered are at or above 0x0A00 and below 0x0C00. -/
theorem answerBytes_bounds (n : Fin 8) : 0x0A00 ≤ (answerBytes n).1 ∧ (answerBytes n).2 ≤ 0x0C00 := by
  have := n.isLt
  simp only [answerBytes, requestAddr, Config.requestBase]
  omega

theorem SlotsAnswered.kept {s t : State} {l : List (Fin 8)} (hst : SlotsAnswered s t l) {n : Fin 8} (hn : n ∉ l) :
    SlotKept s t n where
  slot := hst.slot n hn
  words w hw := by
    have outside : ∀ b, requestAddr n w ≤ b → b < requestAddr n w + 2 → t.store.read b = s.store.read b := by
      refine fun b hlow hhigh => hst.bytes b fun r hr hin => ?_
      obtain ⟨m, hm, rfl⟩ := List.mem_map.mp hr
      have hval : n.val ≠ m.val := fun e => hn (Fin.ext e ▸ hm)
      have hn' := requestAddr_bounds n hw
      simp only [answerBytes, requestAddr] at hin hn' hlow hhigh
      omega
    simp only [State.requestWord, State.peekWord, Mem.readWord]
    rw [outside _ (by omega) (by omega), outside _ (by omega) (by omega)]

theorem OnlyRaised.trans {s t u : State} {l m : List NoticeClass} (hst : OnlyRaised s t l) (htu : OnlyRaised t u m) :
    OnlyRaised s u (l ++ m) := by
  refine ⟨fun c => ?_, htu.2.trans hst.2⟩
  rw [htu.1, hst.1]
  by_cases hl : c ∈ l
  · simp [hl]
  · simp [hl]

theorem OnlyRaised.then_eq {s t u : State} {l : List NoticeClass} (hst : OnlyRaised s t l)
    (hnotices : u.notices = t.notices := by simp) : OnlyRaised s u l := by
  have both := hst.trans (OnlyRaised.of_notices hnotices)
  rwa [List.append_nil] at both

theorem OnlyRaised.after_eq {s t u : State} {l : List NoticeClass} (htu : OnlyRaised t u l)
    (hnotices : t.notices = s.notices := by simp) : OnlyRaised s u l :=
  (OnlyRaised.of_notices hnotices).trans htu

/-- Which classes are listed counts, not in what order or how often. -/
theorem OnlyRaised.congr {s t : State} {l m : List NoticeClass} (h : OnlyRaised s t l) (hlm : ∀ c, c ∈ l ↔ c ∈ m) :
    OnlyRaised s t m :=
  ⟨fun c => by rw [h.1 c, decide_eq_decide.mpr (hlm c)], h.2⟩

theorem raise_raises (s : State) (c : NoticeClass) : OnlyRaised s (s.raise c) [c] :=
  (OnlyRaised.of_notices (s := s) rfl).raise c

theorem answer_raises (s : State) (n : Fin 8) (code : AnswerCode) (detail : Nat) (reply : List Word) :
    OnlyRaised s (s.answer n code detail reply) [.answer] := raise_raises s .answer

/-! ## Early ends and departures -/

theorem answer_endCalibration_answers (s : State) (n : Fin 8) (code : AnswerCode) (detail : Nat) (reply : List Word)
    (h : Fin 12) : SlotsAnswered s ((s.answer n code detail reply).endCalibration h) [n] :=
  (answer_answers s n code detail reply).then_eq rfl rfl

theorem answer_endCalibration_raises (s : State) (n : Fin 8) (code : AnswerCode) (detail : Nat) (reply : List Word)
    (h : Fin 12) : OnlyRaised s ((s.answer n code detail reply).endCalibration h) [.answer] :=
  (answer_raises s n code detail reply).then_eq rfl

theorem abortCalibration_of_none {s : State} {h : Fin 12} (hc : s.calibration h = none) (r : AbortReason) :
    s.abortCalibration h r = s := by simp [State.abortCalibration, hc]

section Aborted

variable {s : State} {h : Fin 12} {c : Calibration} (hc : s.calibration h = some c) (r : AbortReason)
include hc

theorem abortCalibration_of_some : s.abortCalibration h r = (s.answer c.slot .aborted r.code
    [0xFFFF, intWord (s.head h).trim, intWord (s.head h).trim, word c.count]).endCalibration h := by
  simp [State.abortCalibration, hc]

theorem abortCalibration_answers : SlotsAnswered s (s.abortCalibration h r) [c.slot] := by
  rw [abortCalibration_of_some hc]
  exact answer_endCalibration_answers ..

theorem abortCalibration_raises : OnlyRaised s (s.abortCalibration h r) [.answer] := by
  rw [abortCalibration_of_some hc]
  exact answer_endCalibration_raises ..

end Aborted

/-- The capture in which the heads that `left` names are marked departed (R156). -/
def Capture.departing (c : Capture) (left : Nat → Bool) : Capture :=
  { c with
    scope := c.scope.map fun x => { x with departed := x.departed || left x.head }
    headLeft := c.headLeft || c.scope.any fun x => left x.head }

theorem departing_of_none {c : Capture} {left : Nat → Bool} (hleft : ∀ x ∈ c.scope, left x.head = false) :
    c.departing left = c := by
  have scope : c.scope.map (fun x => { x with departed := x.departed || left x.head }) = c.scope.map id :=
    List.map_congr_left fun x hx => by simp [hleft x hx]
  have none : c.scope.any (fun x => left x.head) = false := by simpa using hleft
  unfold Capture.departing
  rw [scope, none, List.map_id, Bool.or_false]

theorem any_or (l : List ScopeHead) (p q : ScopeHead → Bool) : l.any (fun x => p x || q x) = (l.any p || l.any q) := by
  induction l with
  | nil => rfl
  | cons x l ih => simp [ih, Bool.or_assoc, Bool.or_left_comm]

theorem departing_departing (c : Capture) (left left' : Nat → Bool) :
    (c.departing left).departing left' = c.departing fun g => left g || left' g := by
  simp [Capture.departing, List.any_map, Function.comp_def, Bool.or_assoc, any_or]

/-- What heads that leave ACTIVE do to a trace state (R156). -/
def TraceMode.departing (m : TraceMode) (left : Nat → Bool) : TraceMode :=
  match m with
  | .capturing c => .capturing (c.departing left)
  | .armed => .armed
  | .disarmed => .disarmed

theorem mode_departing_departing (m : TraceMode) (left left' : Nat → Bool) :
    (m.departing left).departing left' = m.departing fun g => left g || left' g := by
  cases m with
  | capturing c => exact congrArg TraceMode.capturing (departing_departing c left left')
  | armed => rfl
  | disarmed => rfl

theorem mode_departing_of_none (m : TraceMode) : m.departing (fun _ => false) = m := by
  cases m with
  | capturing c => exact congrArg TraceMode.capturing (departing_of_none fun _ _ => rfl)
  | armed => rfl
  | disarmed => rfl

theorem departHead_trace (s : State) (h : Fin 12) :
    (s.departHead h).trace = { s.trace with mode := s.trace.mode.departing fun g => decide (g = h.val) } := by
  unfold State.departHead
  split
  · next c hc =>
    rw [hc]
    split
    · next hin =>
      have some : c.scope.any (fun x => decide (x.head = h.val)) = true := by simpa using hin
      have scope : (fun x : ScopeHead => if x.head = h.val then { x with departed := true } else x) =
          fun x => { x with departed := x.departed || decide (x.head = h.val) } := by
        funext x
        by_cases hx : x.head = h.val
        · simp [hx]
        · simp [hx]
      simp [State.setTraceMode, TraceMode.departing, Capture.departing, some, scope]
    · next hout =>
      have none : c.departing (fun g => decide (g = h.val)) = c := departing_of_none (by simpa using hout)
      simp [TraceMode.departing, none, ← hc]
  · next hnot =>
    cases hm : s.trace.mode with
    | capturing c => exact absurd hm (hnot c)
    | armed => simp [TraceMode.departing, ← hm]
    | disarmed => simp [TraceMode.departing, ← hm]

/-! ## The head that is lost -/

theorem forgetActive_trace (s : State) (h : Fin 12) :
    (s.forgetActive h).trace = { s.trace with mode := s.trace.mode.departing fun g => decide (g = h.val) } :=
  departHead_trace (s.setChannel h _) h

theorem forgetActive_channel (s : State) (h : Fin 12) : (s.forgetActive h).channel h = (s.channel h).forgotten := by
  have left : OwnKept _ (s.forgetActive h) h := departHead_keeps_own _ h h
  rw [left.channel, channel_setChannel_same]
  rfl

theorem loseHead_trace (s : State) (h : Fin 12) :
    (s.loseHead h).trace = { s.trace with mode := s.trace.mode.departing fun g => decide (g = h.val) } := by
  have left := forgetActive_trace
    ((s.setHead h { s.head h with state := .lost, miss := 32, join := 0 }).abortCalibration h .headLost) h
  simpa [State.loseHead, State.leaveActive] using left

/-- A list with one item for a calibration in progress: the slot it answers. -/
def State.calibrationSlot (s : State) (h : Fin 12) : List (Fin 8) := ((s.calibration h).map Calibration.slot).toList

theorem abortCalibration_answers_slot (s : State) (h : Fin 12) (r : AbortReason) :
    SlotsAnswered s (s.abortCalibration h r) (s.calibrationSlot h) := by
  cases hc : s.calibration h with
  | none => simpa [State.calibrationSlot, hc, abortCalibration_of_none hc] using SlotsAnswered.of_eq rfl rfl
  | some c => simpa [State.calibrationSlot, hc] using abortCalibration_answers hc r

/-- The class that the end of a calibration raises, if there is one. -/
def State.calibrationClass (s : State) (h : Fin 12) : List NoticeClass :=
  if (s.calibration h).isSome then [.answer] else []

theorem abortCalibration_raises_class (s : State) (h : Fin 12) (r : AbortReason) :
    OnlyRaised s (s.abortCalibration h r) (s.calibrationClass h) := by
  cases hc : s.calibration h with
  | none => simpa [State.calibrationClass, hc, abortCalibration_of_none hc] using OnlyRaised.of_notices rfl
  | some c => simpa [State.calibrationClass, hc] using abortCalibration_raises hc r

theorem loseHead_answers (s : State) (h : Fin 12) : SlotsAnswered s (s.loseHead h) (s.calibrationSlot h) := by
  have aborted : SlotsAnswered s _ (s.calibrationSlot h) := (abortCalibration_answers_slot
    (s.setHead h { s.head h with state := .lost, miss := 32, join := 0 }) h .headLost).after_eq (by rfl) (by rfl)
  refine aborted.then_eq ?_ ?_
  · simp [State.loseHead, State.leaveActive]
  · simp [State.loseHead, State.leaveActive]

theorem loseHead_of_uncalibrated {s : State} {h : Fin 12} (hc : s.calibration h = none) :
    (s.loseHead h).requests = s.requests ∧ (s.loseHead h).store = s.store := by
  unfold State.loseHead State.leaveActive
  rw [abortCalibration_of_none (s := s.setHead h _) hc]
  simp

theorem loseHead_raises (s : State) (h : Fin 12) : OnlyRaised s (s.loseHead h) (s.calibrationClass h ++ [.head]) := by
  have aborted : OnlyRaised s _ (s.calibrationClass h) := (abortCalibration_raises_class
    (s.setHead h { s.head h with state := .lost, miss := 32, join := 0 }) h .headLost).after_eq (by rfl)
  refine OnlyRaised.trans (aborted.then_eq ?_) (raise_raises _ .head)
  simp [State.leaveActive]

/-! ## The head that joins -/

theorem joinComplete_head (s : State) (h : Fin 12) (f : Frame) :
    (s.joinComplete h f).head h = { s.head h with state := .active, join := 4, miss := 0, returning := false } := by
  unfold State.joinComplete
  dsimp only
  split <;> simp

theorem joinComplete_raises (s : State) (h : Fin 12) (f : Frame) :
    OnlyRaised s (s.joinComplete h f) (if (s.head h).returning then [.head] else []) := by
  unfold State.joinComplete
  dsimp only
  split
  · exact (raise_raises _ .head).after_eq (by rfl)
  · exact .of_notices rfl

/-! ## The tick of a head that is not being calibrated -/

theorem setChannel_self (s : State) (h : Fin 12) : s.setChannel h (s.channel h) = s := by
  simp [State.setChannel, State.channel]

/-- Without a calibration a tick writes its head's channel alone, and only a present tick steps the running energies (R11, R54). -/
theorem channelTick_of_uncalibrated {s : State} {h : Fin 12} (hcal : s.calibration h = none) (o : Option Frame) :
    ∃ x : Channel, s.channelTick h o = s.setChannel h x ∧
      (o = none → x.fast = (s.channel h).fast ∧ x.slow = (s.channel h).slow ∧ x.lastFast = (s.channel h).lastFast ∧
        x.lastSlow = (s.channel h).lastSlow ∧ ((s.head h).state ≠ .active → x.history = (s.channel h).history)) ∧
      ∀ f, o = some f → (s.channel h).fast = f.aEnergy → (s.channel h).slow = f.aEnergy →
        x.fast = f.aEnergy ∧ x.slow = f.aEnergy := by
  by_cases hopen : (s.channel h).isOpen = true
  · by_cases hpresent : ∃ f, o = some f ∧ f.faultFlag = false ∧ (s.head h).state = .active
    · obtain ⟨f, rfl, hfault, hstate⟩ := hpresent
      refine ⟨_, channelTick_present hopen hstate hfault hcal, fun hf => (Option.some_ne_none f hf).elim, fun g hg hfast hslow => ?_⟩
      cases hg
      simp only [Channel.presentTick, hfast, hslow]
      exact ⟨weightStep_self (.inl rfl) _, weightStep_self (.inr rfl) _⟩
    · have hgap : o = none ∨ (∃ f, o = some f ∧ f.faultFlag = true) ∨ (s.head h).state ≠ .active := by
        cases o with
        | none => exact .inl rfl
        | some f => simpa [imp_iff_not_or] using hpresent
      refine ⟨_, channelTick_gap hopen hgap, fun _ => ⟨rfl, rfl, rfl, rfl, fun hstate => by simp [Channel.gapTick, hstate]⟩,
        fun f _ hfast hslow => ⟨hfast, hslow⟩⟩
  · refine ⟨s.channel h, ?_, fun _ => ⟨rfl, rfl, rfl, rfl, fun _ => rfl⟩, fun f _ hfast hslow => ⟨hfast, hslow⟩⟩
    rw [setChannel_self]
    simp [State.channelTick, hopen]

/-! ## JOIN_COMPLETE and HEAD_LOST -/

/-- The state with its tick event at stage x. -/
def State.atStage (s : State) (x : TickStage) : State := { s with stage := x }

section AtStage

variable (s : State) (x : TickStage)

@[simp] theorem atStage_stage : (s.atStage x).stage = x := rfl
@[simp] theorem head_atStage (h : Fin 12) : (s.atStage x).head h = s.head h := rfl
@[simp] theorem channel_atStage (h : Fin 12) : (s.atStage x).channel h = s.channel h := rfl
@[simp] theorem calRecord_atStage (h : Fin 12) : (s.atStage x).calRecord h = s.calRecord h := rfl
@[simp] theorem calibration_atStage (h : Fin 12) : (s.atStage x).calibration h = s.calibration h := rfl
@[simp] theorem buffer_atStage (h : Fin 12) : (s.atStage x).buffer h = s.buffer h := rfl
@[simp] theorem slot_atStage (n : Fin 8) : (s.atStage x).slot n = s.slot n := rfl
@[simp] theorem isPending_atStage (c : NoticeClass) : (s.atStage x).isPending c = s.isPending c := rfl
@[simp] theorem atStage_requests : (s.atStage x).requests = s.requests := rfl
@[simp] theorem atStage_store : (s.atStage x).store = s.store := rfl
@[simp] theorem atStage_notices : (s.atStage x).notices = s.notices := rfl
@[simp] theorem atStage_trace : (s.atStage x).trace = s.trace := rfl
@[simp] theorem atStage_records : (s.atStage x).records = s.records := rfl
@[simp] theorem atStage_link : (s.atStage x).link = s.link := rfl
@[simp] theorem atStage_period : (s.atStage x).period = s.period := rfl
@[simp] theorem atStage_clock : (s.atStage x).clock = s.clock := rfl
@[simp] theorem atStage_live : (s.atStage x).live = s.live := rfl

end AtStage

/-- The state of a tick event begun whose heads wait to be settled (R27). -/
abbrev State.begun (s : State) : State := s.atStage (.closing (closingHeads s))

/-- A tick event carried as far as the settling of head h (R27). -/
theorem closeHead_of_closing {s : State} (hs : TickClosing s) (h : Fin 12) :
    s.beginTick.closeHead h = (s.begun.settleHead h).atStage (.closing ((closingHeads s).erase h)) := by
  rw [beginTick_of_closing hs]
  rfl

theorem exec_joinComplete_of_due {s : State} {h : Fin 12} (hs : TickClosing s) (hstate : (s.head h).state = .joining)
    (hjoin : (s.head h).join = 3) (hbuffer : (s.buffer h).isSome) : exec (.joinComplete h) s =
      .next ((s.begun.settleHead h).atStage (.closing ((closingHeads s).erase h))) := by
  have waiting : h ∈ closingHeads s := mem_closingHeads.mpr (by simp [hstate])
  have due : s.begun.joinDue h = true := by
    change ((closingHeads s).contains h && decide ((s.head h).state = .joining) && decide (4 ≤ (s.head h).join + 1) &&
      (s.buffer h).isSome) = true
    simp [waiting, hstate, hjoin, hbuffer]
  rw [← closeHead_of_closing hs]
  exact if_pos ((congrArg (fun t : State => t.joinDue h) (beginTick_of_closing hs)).trans due)

theorem exec_headLost_of_due {s : State} {h : Fin 12} (hs : TickClosing s) (hstate : (s.head h).state = .active)
    (hmiss : (s.head h).miss = 31) (hbuffer : s.buffer h = none) : exec (.headLost h) s =
      .next ((s.begun.settleHead h).atStage (.closing ((closingHeads s).erase h))) := by
  have waiting : h ∈ closingHeads s := mem_closingHeads.mpr (by simp [hstate])
  have due : s.begun.lossDue h = true := by
    change ((closingHeads s).contains h && decide ((s.head h).state = .active) && decide (32 ≤ (s.head h).miss + 1) &&
      (s.buffer h).isNone) = true
    simp [waiting, hstate, hmiss, hbuffer]
  rw [← closeHead_of_closing hs]
  exact if_pos ((congrArg (fun t : State => t.lossDue h) (beginTick_of_closing hs)).trans due)

/-- Settling head h leaves the other heads' entries and channels alone. -/
theorem settled_otherHeadsKept (s : State) (h : Fin 12) (x : TickStage) :
    OtherHeadsKept s ((s.begun.settleHead h).atStage x) h :=
  ⟨fun _ hg => (settleHead_keeps_other s.begun (Ne.symm hg)).head,
    fun _ hg => (settleHead_keeps_other s.begun (Ne.symm hg)).channel⟩

theorem settleHead_eq {s : State} {h : Fin 12} {o : Option Frame} (ho : s.buffer h = o) :
    s.settleHead h = ((s.headStep h o).channelTick h o).setBuffer h none := by
  subst ho
  rfl

/-- Settles O23: the head joins, and the tick that its channel then counts leaves its running energies as they were seeded. -/
theorem joinCompleteMakesHeadActive : Obligations.JoinCompleteMakesHeadActive := by
  intro s h f hs hstate hjoin hbuffer hcal
  have runs := exec_joinComplete_of_due hs hstate hjoin (by simp [hbuffer])
  have others := settled_otherHeadsKept s h (.closing ((closingHeads s).erase h))
  have joined : s.begun.headStep h (some f) = s.begun.joinComplete h f := by
    simp [State.headStep, hstate, hjoin]
  have head := joinComplete_head s.begun h f
  have channel := (joinComplete_own s.begun h f).2.2
  have raised := joinComplete_raises s.begun h f
  have calibration : (s.begun.joinComplete h f).calibration h = none := by
    simpa only [State.calibration, calRecord_joinComplete, calRecord_atStage] using hcal
  obtain ⟨x, tick, -, seeded⟩ := channelTick_of_uncalibrated calibration (some f)
  obtain ⟨hfast, hslow⟩ := seeded f rfl (by rw [channel]; rfl) (by rw [channel]; rfl)
  have settled : s.begun.settleHead h = ((s.begun.joinComplete h f).setChannel h x).setBuffer h none := by
    rw [← tick, ← joined, settleHead_eq (s := s.begun) hbuffer]
  rw [settled] at runs others
  refine ⟨_, runs, ?_, ?_, others, ?_, ?_, ?_, ?_⟩
  · apply State.eq_of_fields <;> simp [State.setBuffer, State.atStage]
  · simpa using head
  · simpa using hfast
  · simpa using hslow
  · simp
  · exact raised.then_eq (by rfl)

/-- A head that is no scope head of the capture leaves it as it is; in every trace state the items beside the mode are kept. -/
theorem trace_of_departing {t u : TraceUnit} {left : Nat → Bool} (hu : u = { t with mode := t.mode.departing left }) :
    ((∀ c, t.mode ≠ .capturing c) → u = t) ∧ ∀ c, t.mode = .capturing c → u.mode = .capturing (c.departing left) := by
  subst hu
  refine ⟨fun hnot => ?_, fun c hc => by simp [hc, TraceMode.departing]⟩
  cases hm : t.mode with
  | capturing c => exact absurd hm (hnot c)
  | armed => simp [TraceMode.departing, ← hm]
  | disarmed => simp [TraceMode.departing, ← hm]

/-- Settles O24: the head is lost, and the tick that its channel then counts is a gap of a head that is not ACTIVE. -/
theorem headLostLeavesActive : Obligations.HeadLostLeavesActive := by
  intro s h hs hstate hmiss hbuffer
  have runs := exec_headLost_of_due hs hstate hmiss hbuffer
  have others := settled_otherHeadsKept s h (.closing ((closingHeads s).erase h))
  have records : ∀ g, g ≠ h → (s.begun.settleHead h).calRecord g = s.calRecord g := fun g hg =>
    (settleHead_keeps_other s.begun (Ne.symm hg)).record
  have lost : s.begun.headStep h none = s.begun.loseHead h := by simp [State.headStep, hstate, hmiss]
  have head := loseHead_head s.begun h
  have channel := loseHead_channel s.begun h
  have calibration := calibration_loseHead s.begun h
  have trace := loseHead_trace s.begun h
  have answers : SlotsAnswered s (s.begun.loseHead h) (s.calibrationSlot h) := (loseHead_answers s.begun h).after_eq (by rfl) (by rfl)
  have raises : OnlyRaised s (s.begun.loseHead h) (s.calibrationClass h ++ [.head]) := (loseHead_raises s.begun h).after_eq (by rfl)
  have holds := fun c => loseHead_holds (s := s.begun) (h := h) (c := c)
  obtain ⟨x, tick, gap, -⟩ := channelTick_of_uncalibrated calibration none
  obtain ⟨hfast, hslow, hlastFast, hlastSlow, hhistory⟩ := gap rfl
  have settled : s.begun.settleHead h = ((s.begun.loseHead h).setChannel h x).setBuffer h none := by
    rw [← tick, ← lost, settleHead_eq (s := s.begun) hbuffer]
  rw [settled] at runs others records
  rw [channel] at hfast hslow hlastFast hlastSlow hhistory
  obtain ⟨traceKept, traceDeparts⟩ := trace_of_departing trace
  generalize hend : (((s.begun.loseHead h).setChannel h x).setBuffer h none).atStage (.closing ((closingHeads s).erase h)) = t
    at runs others
  have answered : SlotsAnswered s t (s.calibrationSlot h) := hend ▸ answers.then_eq (by rfl) (by rfl)
  have raised : OnlyRaised s t (s.calibrationClass h ++ [.head]) := hend ▸ raises.then_eq (by rfl)
  refine ⟨t, runs, ?_, ?_, others, ?_, ?_, ?_, ?_, ?_, ?_, ?_, fun g hg => ?_, fun hnot => ?_, fun c hc => ⟨_, ?_, rfl⟩,
    fun c hc => ?_, fun hc => ?_⟩
  · subst hend
    apply State.eq_of_fields <;> simp [State.setBuffer, State.atStage, loseHead_trace]
  · simpa [← hend] using head
  · simpa [← hend, Channel.forgotten] using hhistory (by simp [head])
  · simpa [← hend, Channel.forgotten] using hlastFast
  · simpa [← hend, Channel.forgotten] using hlastSlow
  · simpa [← hend, Channel.forgotten] using hfast
  · simpa [← hend, Channel.forgotten] using hslow
  · simpa using raised.1 .head
  · simpa [← hend] using calibration
  · simpa [← hend] using records g hg
  · simpa [← hend] using traceKept hnot
  · simpa [← hend, Capture.departing] using traceDeparts c hc
  · have slots : s.calibrationSlot h = [c.slot] := by simp [State.calibrationSlot, hc]
    have classes : s.calibrationClass h = [.answer] := by simp [State.calibrationClass, hc]
    rw [slots] at answered
    rw [classes] at raised
    refine ⟨hend ▸ (holds c hc).kept .of_eq, answered.bytes, raised.congr fun d => ?_, answered.queue, answered.inService,
      fun m hm => answered.slot m (by simpa using hm)⟩
    simp [or_comm]
  · obtain ⟨requests, store⟩ := loseHead_of_uncalibrated (s := s.begun) hc
    have classes : s.calibrationClass h = [] := by simp [State.calibrationClass, hc]
    rw [classes] at raised
    refine ⟨?_, ?_, raised⟩
    · simpa [← hend] using requests
    · simpa [← hend] using store

end Sys2Proof.Machine
end

section
/-! PROOFS. What a read of the window port gives (R76, R86, R89 to R91): the areas of the store by byte address, the control
block, the head table and the arrival lists word by word, and when a read releases nothing. -/

namespace Sys2Proof.Machine

open Sys2Proof

/-! ## Areas -/

theorem areaOf_control {a : Nat} (h : a < 0x0100) : areaOf a = .control := if_pos h

theorem areaOf_mirror {a : Nat} (hlow : 0x0400 ≤ a) (hhigh : a < 0x0600) : areaOf a = .mirror := by
  simp (disch := omega) only [areaOf, if_neg, if_pos]

theorem areaOf_headTable {a : Nat} (hlow : 0x0600 ≤ a) (hhigh : a < 0x0780) : areaOf a = .headTable := by
  simp (disch := omega) only [areaOf, if_neg, if_pos]

theorem areaOf_unused {a : Nat} (h : (0x01C0 ≤ a ∧ a < 0x0200) ∨ (0x0780 ≤ a ∧ a < 0x0800) ∨ (0x09E0 ≤ a ∧ a < 0x0A00) ∨
    0xF000 ≤ a) : areaOf a = .unused := by
  rcases h with ⟨hlow, hhigh⟩ | ⟨hlow, hhigh⟩ | ⟨hlow, hhigh⟩ | hlow
  all_goals simp (disch := omega) only [areaOf, if_neg, if_pos]

/-- Word w of request slot n is in the request area, under its slot and index. -/
theorem areaOf_request (n : Fin 8) {w : Nat} (hw : w < 32) : areaOf (requestAddr n w) = .request n w := by
  have slot : Fin.ofNat 8 ((requestAddr n w - 0x0A00) / 64) = n := by
    refine Fin.ext ?_
    simp only [Fin.ofNat, requestAddr, Config.requestBase]
    omega
  have index : (requestAddr n w - 0x0A00) % 64 / 2 = w := by
    simp only [requestAddr, Config.requestBase]
    omega
  have low : 0x0A00 ≤ requestAddr n w ∧ requestAddr n w < 0x0C00 := by
    simp only [requestAddr, Config.requestBase]
    omega
  generalize requestAddr n w = a at slot index low
  simp (disch := omega) only [areaOf, if_neg, if_pos, slot, index]

/-- An even address of the request area is a word of a slot. -/
theorem exists_requestAddr {a : Nat} (heven : a % 2 = 0) (hlow : 0x0A00 ≤ a) (hhigh : a < 0x0C00) :
    ∃ n : Fin 8, ∃ w < 32, a = requestAddr n w := by
  refine ⟨⟨(a - 0x0A00) / 64, by omega⟩, (a - 0x0A00) % 64 / 2, by omega, ?_⟩
  simp only [requestAddr, Config.requestBase]
  omega

/-- The areas that show the store's own words (R76). -/
theorem viewWord_stored (s : State) {a : Nat} (h : (0x0100 ≤ a ∧ a < 0x01C0) ∨ (0x0200 ≤ a ∧ a < 0x0400) ∨
    (0x0800 ≤ a ∧ a < 0x09E0) ∨ (0x0C00 ≤ a ∧ a < 0xF000)) : s.viewWord a = s.peekWord a := by
  unfold State.viewWord
  rcases h with ⟨hlow, hhigh⟩ | ⟨hlow, hhigh⟩ | ⟨hlow, hhigh⟩ | ⟨hlow, hhigh⟩
  · rw [show areaOf a = .headSettings by simp (disch := omega) only [areaOf, if_neg, if_pos]]
  · rw [show areaOf a = .staged by simp (disch := omega) only [areaOf, if_neg, if_pos]]
  · rw [show areaOf a = .pages by simp (disch := omega) only [areaOf, if_neg, if_pos]]
  · rcases Nat.lt_or_ge a 0x1000 with h1 | h1
    · rw [show areaOf a = .events by simp (disch := omega) only [areaOf, if_neg, if_pos]]
    · rcases Nat.lt_or_ge a 0x3000 with h3 | h3
      · rw [show areaOf a = .traces by simp (disch := omega) only [areaOf, if_neg, if_pos]]
      · rw [show areaOf a = .records by simp (disch := omega) only [areaOf, if_neg, if_pos]]

theorem viewWord_request (s : State) (n : Fin 8) {w : Nat} (hw : w < 31) :
    s.viewWord (requestAddr n w) = s.peekWord (requestAddr n w) := by
  unfold State.viewWord
  rw [areaOf_request n (by omega)]
  exact if_neg (by omega)

theorem viewWord_unused (s : State) {a : Nat} (h : areaOf a = .unused) : s.viewWord a = 0 := by
  unfold State.viewWord
  rw [h]

theorem viewWord_mirror (s : State) {i : Nat} (hi : i < 256) : s.viewWord (0x0400 + 2 * i) = setWord s.live i := by
  unfold State.viewWord
  rw [areaOf_mirror (by omega) (by omega)]
  exact congrArg (setWord s.live) (by simp only [Config.mirrorBase]; omega)

theorem viewWord_headTable (s : State) (h : Fin 12) {i : Nat} (hi : i < 16) :
    s.viewWord (0x0600 + 32 * h.val + 2 * i) = (s.head h).words.getD i 0 := by
  have entry : (0x0600 + 32 * h.val + 2 * i - Config.headTableBase) / 32 = h.val := by
    simp only [Config.headTableBase]; omega
  have index : (0x0600 + 32 * h.val + 2 * i - Config.headTableBase) % 32 / 2 = i := by
    simp only [Config.headTableBase]; omega
  unfold State.viewWord
  rw [areaOf_headTable (by omega) (by omega)]
  dsimp only
  rw [entry, index, headOf_val]

theorem viewWord_control (s : State) {i : Nat} (hi : i < 128) : s.viewWord (2 * i) = s.controlBlock.getD i 0 := by
  unfold State.viewWord
  rw [areaOf_control (by omega)]
  exact congrArg (s.controlBlock.getD · 0) (by omega)

/-! ## The control block -/

theorem length_listEntries (n : Nat) (l : List Nat) : (listEntries n l).length = n := by simp [listEntries]

/-- Entry i of an arrival list, 0xFFFF from the count on (R90). -/
theorem listEntries_getD {n i : Nat} (hi : i < n) (l : List Nat) (d : Word) :
    (listEntries n l).getD i d = ((l.map word)[i]?).getD 0xFFFF := by
  simp only [listEntries, List.getD_eq_getElem?_getD, List.getElem?_take_of_lt hi, List.getElem?_append]
  split
  · next hlt => simp [List.getElem?_eq_getElem hlt]
  · next hge =>
    rw [List.getElem?_eq_none (Nat.not_lt.mp hge), List.getElem?_replicate, if_pos (by omega)]
    rfl

/-- Words 0 to 22 of the control block: identity, run state, clock, period and port counters (11 section 11.3). -/
def State.controlHead (s : State) : List Word :=
  [0x5C12, 1, word s.run.code, setWord s.live 0, setWord s.live 1, s.clock.day] ++ words32 s.clock.second ++
    [word s.clock.weekday, word s.clock.tick, flagWord s.period.isOpen, s.period.startDay] ++
    words32 s.period.startSecond ++ [word s.period.startTick] ++ words32 s.period.plannedEnd ++
    [word s.period.plannedLength, flagWord s.period.short, word s.port.dropped, s.port.lastDropped, word s.port.mispost,
      word s.trace.mode.code]

theorem length_controlHead (s : State) : s.controlHead.length = 23 := rfl

theorem controlBlock_eq (s : State) : s.controlBlock = s.controlHead ++
    ([word (s.traceSlotCode 0), word (s.traceSlotCode 1), word s.trace.list.length] ++
      (listEntries 2 (s.trace.list.map Fin.val) ++ ([word s.events.list.length] ++
        (listEntries 32 (s.events.list.map Fin.val) ++ ([word s.records.list.length] ++
          listEntries 48 (s.records.list.map Fin.val)))))) := by
  have code : word (lengthCode s.live) = setWord s.live 1 := BitVec.ofNat_toNat ..
  simp [State.controlBlock, State.controlHead, code, setId, Config.partCode, Config.revision]

theorem getD_append_add {A B : List Word} {n : Nat} (hA : A.length = n) (k : Nat) : (A ++ B).getD (n + k) 0 = B.getD k 0 := by
  rw [List.getD_append_right _ _ _ _ (by omega), ← hA, Nat.add_sub_cancel_left]

section ControlWords

variable (s : State)

theorem controlBlock_head {i : Nat} (hi : i < 23) : s.controlBlock.getD i 0 = s.controlHead.getD i 0 := by
  rw [controlBlock_eq, List.getD_append _ _ _ _ (by rwa [length_controlHead])]

/-- What stands past the first 23 words. -/
theorem controlBlock_tail (k : Nat) : s.controlBlock.getD (23 + k) 0 =
    ([word (s.traceSlotCode 0), word (s.traceSlotCode 1), word s.trace.list.length] ++
      (listEntries 2 (s.trace.list.map Fin.val) ++ ([word s.events.list.length] ++
        (listEntries 32 (s.events.list.map Fin.val) ++ ([word s.records.list.length] ++
          listEntries 48 (s.records.list.map Fin.val)))))).getD k 0 := by
  rw [controlBlock_eq, getD_append_add (length_controlHead s)]

theorem controlBlock_traces {i : Nat} (hi : i < 2) :
    s.controlBlock.getD (26 + i) 0 = ((s.trace.list.map fun n => word n.val)[i]?).getD 0xFFFF := by
  rw [show 26 + i = 23 + (3 + i) by omega, controlBlock_tail, getD_append_add (n := 3) rfl,
    List.getD_append _ _ _ _ (by rwa [length_listEntries]), listEntries_getD hi, List.map_map]
  rfl

/-- What stands from the event list's count on. -/
theorem controlBlock_fromEvents (k : Nat) : s.controlBlock.getD (28 + k) 0 = ([word s.events.list.length] ++
    (listEntries 32 (s.events.list.map Fin.val) ++ ([word s.records.list.length] ++
      listEntries 48 (s.records.list.map Fin.val)))).getD k 0 := by
  rw [show 28 + k = 23 + (3 + (2 + k)) by omega, controlBlock_tail, getD_append_add (n := 3) rfl,
    getD_append_add (length_listEntries _ _)]

theorem controlBlock_events {i : Nat} (hi : i < 32) :
    s.controlBlock.getD (29 + i) 0 = ((s.events.list.map fun n => word n.val)[i]?).getD 0xFFFF := by
  rw [show 29 + i = 28 + (1 + i) by omega, controlBlock_fromEvents, getD_append_add (n := 1) rfl,
    List.getD_append _ _ _ _ (by rwa [length_listEntries]), listEntries_getD hi, List.map_map]
  rfl

/-- What stands from the record list's count on. -/
theorem controlBlock_fromRecords (k : Nat) : s.controlBlock.getD (61 + k) 0 =
    ([word s.records.list.length] ++ listEntries 48 (s.records.list.map Fin.val)).getD k 0 := by
  rw [show 61 + k = 28 + (1 + (32 + k)) by omega, controlBlock_fromEvents, getD_append_add (n := 1) rfl,
    getD_append_add (length_listEntries _ _)]

theorem controlBlock_records {i : Nat} (hi : i < 48) :
    s.controlBlock.getD (62 + i) 0 = ((s.records.list.map fun n => word n.val)[i]?).getD 0xFFFF := by
  rw [show 62 + i = 61 + (1 + i) by omega, controlBlock_fromRecords, getD_append_add (n := 1) rfl, listEntries_getD hi, List.map_map]
  rfl

theorem controlBlock_rest {i : Nat} (hi : 110 ≤ i) : s.controlBlock.getD i 0 = 0 := by
  obtain ⟨k, rfl⟩ := Nat.exists_eq_add_of_le hi
  rw [show 110 + k = 61 + (1 + (48 + k)) by omega, controlBlock_fromRecords, getD_append_add (n := 1) rfl]
  exact List.getD_eq_default _ _ (by rw [length_listEntries]; omega)

end ControlWords

/-- The state word of a trace slot (R149, R180). -/
theorem controlBlock_traceSlot (s : State) (n : Fin 2) : s.controlBlock.getD (23 + n.val) 0 = word (s.traceSlotCode n) := by
  rw [controlBlock_tail]
  rcases Fin.exists_fin_two.mp ⟨n, rfl⟩ with rfl | rfl
  · rfl
  · rfl

/-! ## Reads that release nothing -/

/-- A read releases nothing where WADR stands at no go word and at no closing word of a FILLED slot (R88, R89). -/
theorem releaseAt_of_elsewhere {s : State} {a : Nat} (heven : a % 2 = 0) (hgo : ∀ n, a ≠ requestAddr n 31)
    (hevents : ∀ n ∈ s.events.list, a ≠ eventAddr n 15) (hrecords : ∀ n ∈ s.records.list, a ≠ s.recordClosing n)
    (htraces : ∀ n ∈ s.trace.list, a ≠ s.traceClosing n) : s.releaseAt a = none := by
  have band : a < 0x0100 ∨ (0x0100 ≤ a ∧ a < 0x01C0) ∨ (0x01C0 ≤ a ∧ a < 0x0200) ∨ (0x0200 ≤ a ∧ a < 0x0400) ∨
      (0x0400 ≤ a ∧ a < 0x0600) ∨ (0x0600 ≤ a ∧ a < 0x0780) ∨ (0x0780 ≤ a ∧ a < 0x0800) ∨ (0x0800 ≤ a ∧ a < 0x09E0) ∨
      (0x09E0 ≤ a ∧ a < 0x0A00) ∨ 0xF000 ≤ a ∨ (0x0A00 ≤ a ∧ a < 0x0C00) ∨ (0x0C00 ≤ a ∧ a < 0x1000) ∨
      (0x1000 ≤ a ∧ a < 0x3000) ∨ (0x3000 ≤ a ∧ a < 0xF000) := by omega
  rcases band with h | h | h | h | h | h | h | h | h | h | h | h | h | h
  case inr.inr.inr.inr.inr.inr.inr.inr.inr.inr.inl =>
    obtain ⟨n, w, hw, rfl⟩ := exists_requestAddr heven h.1 h.2
    unfold State.releaseAt
    rw [areaOf_request n hw]
    exact if_neg fun hi => hgo n (by rw [hi.1])
  all_goals simp (disch := omega) only [State.releaseAt, areaOf, if_neg, if_pos]
  · rw [List.find?_eq_none.mpr fun n hn => by simpa using (hevents n hn).symm]
    rfl
  · rw [List.find?_eq_none.mpr fun n hn => by simpa using (htraces n hn).symm]
    rfl
  · rw [List.find?_eq_none.mpr fun n hn => by simpa using (hrecords n hn).symm]
    rfl

/-- A 16-bit read outside STARTING that releases nothing drives its word and takes its step (R76, R80, R91). -/
theorem exec_wdatRead_plain {s : State} (hs : Settled s) (hrun : s.run ≠ .starting) (hwide : s.port.wide = true)
    (hplain : s.port.peek = true ∨ s.releaseAt s.port.accessAddr.toNat = none) : exec .wdatRead s =
      .next { s with port := { s.port with
        wadr := s.port.addrAfter, readOut := .word (s.viewWord s.port.accessAddr.toNat) } } := by
  have read : s.readWord s.port.accessAddr.toNat = s.drive (.word (s.viewWord s.port.accessAddr.toNat)) := by
    have word : s.hostWord s.port.accessAddr.toNat = s.viewWord s.port.accessAddr.toNat := if_neg (by simp [hs.2, hrun])
    rw [State.readWord, word]
    unfold State.releaseUnlessPeek
    split
    · rfl
    · next x hx =>
      rcases hplain with hpeek | hnone
      · exact if_pos hpeek
      · simp [hnone] at hx
  have access : s.wdatRead = (s.readWord s.port.accessAddr.toNat).stepWadr := by
    simp [State.wdatRead, hs.2, hrun, State.readAt, hwide]
  have runs : exec .wdatRead s = .next s.finishClose.wdatRead := rfl
  rw [runs, finishClose_of_settled hs, access, read]
  rfl

theorem headWords_getD (x : Head) {i : Nat} (hi : i < 16) : x.words.getD i 0 =
    ([word x.state.code, word x.join, word x.miss, word x.good, word x.framing, word x.short, word x.check, word x.stale,
      word x.duplicate, word x.last.code, (if x.errorSeen then 1 else 0), BitVec.ofInt 16 x.trim, 0, 0, 0, 0] :
      List Word).getD i 0 := by
  have padded : (x.words ++ [0, 0, 0, 0]).getD i 0 = x.words.getD i 0 := by
    rcases Nat.lt_or_ge i 12 with h | h
    · exact List.getD_append _ _ _ _ h
    · obtain ⟨k, rfl⟩ := Nat.exists_eq_add_of_le h
      rw [getD_append_add (n := 12) rfl, List.getD_eq_default x.words _ (by exact h)]
      rcases Nat.lt_or_ge k 4 with hk | hk
      · interval_cases k <;> rfl
      · exact List.getD_eq_default _ _ (by exact hk)
  rw [← padded]
  rfl

theorem metric_ofCode_iff (code : Nat) (m : Metric) : Metric.ofCode code = some m ↔ code = m.code := by
  constructor
  · intro h
    unfold Metric.ofCode at h
    split at h <;> simp_all <;> subst h <;> rfl
  · rintro rfl
    cases m <;> rfl

/-- Settles O12: no such read releases anything, so that it drives the word its area shows. -/
theorem otherReadsReleaseNothing : Obligations.OtherReadsReleaseNothing := by
  refine ⟨fun s hs hrun hwide hplain heven => ?_, rfl, rfl, rfl, rfl, fun _ => rfl, rfl, rfl, rfl, rfl, rfl, rfl, rfl,
    metric_ofCode_iff⟩
  have even : s.port.accessAddr.toNat % 2 = 0 := by
    rw [← BitVec.testBit_toNat, Nat.testBit_zero, decide_eq_false_iff_not] at heven
    omega
  have runs := exec_wdatRead_plain hs hrun hwide (hplain.imp_right fun h =>
    releaseAt_of_elsewhere even h.1 h.2.1 h.2.2.1 h.2.2.2)
  refine ⟨_, _, runs, rfl, ?_⟩
  generalize s.port.accessAddr.toNat = a
  refine ⟨?_, fun h => viewWord_unused s (areaOf_unused h), ?_, ?_, ?_, ?_, ?_, ?_, ?_, ?_, ?_, ?_, ?_⟩
  · rintro (h | h | h | h | ⟨n, w, hw, rfl⟩)
    · exact viewWord_stored s (.inl h)
    · exact viewWord_stored s (.inr (.inl h))
    · exact viewWord_stored s (.inr (.inr (.inl h)))
    · exact viewWord_stored s (.inr (.inr (.inr h)))
    · exact viewWord_request s n hw
  · rintro i hi rfl
    exact viewWord_mirror s hi
  · rintro h i hi rfl
    exact (viewWord_headTable s h hi).trans (headWords_getD _ hi)
  · rintro i hi rfl
    exact (viewWord_control s (by omega)).trans (controlBlock_head s hi)
  · rintro n rfl
    rw [viewWord_control s (by omega), controlBlock_traceSlot]
    refine ⟨fun hin => ?_, fun hout hnot => ?_, fun c hout hc => ?_⟩
    · simp [State.traceSlotCode, hin, word]
    · cases hm : s.trace.mode with
      | capturing c => exact absurd hm (hnot c)
      | armed => simp [State.traceSlotCode, hout, hm, word]
      | disarmed => simp [State.traceSlotCode, hout, hm, word]
    · by_cases hslot : c.slot = n
      · simp [State.traceSlotCode, hout, hc, hslot, word]
      · simp [State.traceSlotCode, hout, hc, hslot, word]
  · rintro rfl
    exact (viewWord_control s (by omega)).trans (controlBlock_tail s 2)
  · rintro i hi rfl
    exact (viewWord_control s (by omega)).trans (controlBlock_traces s hi)
  · rintro rfl
    exact (viewWord_control s (by omega)).trans (controlBlock_fromEvents s 0)
  · rintro i hi rfl
    exact (viewWord_control s (by omega)).trans (controlBlock_events s hi)
  · rintro rfl
    exact (viewWord_control s (by omega)).trans (controlBlock_fromRecords s 0)
  · rintro i hi rfl
    exact (viewWord_control s (by omega)).trans (controlBlock_records s hi)
  · rintro i hlow hhigh rfl
    exact (viewWord_control s hhigh).trans (controlBlock_rest s hlow)

end Sys2Proof.Machine
end

section
/-! PROOFS. The tick close of all heads in the blocks that they share (R27, R30 to R35, R73, R155, R156, R159): which calibrations
end there, which classes are raised, which heads depart from a capture, and what a capture that completes there writes. -/

namespace Sys2Proof.Machine

open Sys2Proof

/-! ## Folds over heads, each step with its own effect -/

/-- A fold over different heads of an operation that keeps what concerns the other heads, which K says: where each step's effect,
told from the head's own entries, composes, the fold's effect is the heads' effects in order. -/
theorem foldl_effects {ι : Type} {f : State → Fin 12 → State} {effect : State → Fin 12 → List ι}
    {K : State → State → Fin 12 → Prop} {R : State → State → List ι → Prop} (other : ∀ s g h, g ≠ h → K s (f s g) h)
    (refl : ∀ s, R s s [])
    (trans : ∀ s t u l m, R s t l → R t u m → R s u (l ++ m)) (step : ∀ s h, R s (f s h) (effect s h))
    (own : ∀ s t h, K s t h → effect t h = effect s h) {l : List (Fin 12)} (hl : l.Nodup) (s : State) :
    R s (l.foldl f s) (l.flatMap (effect s)) := by
  induction l generalizing s with
  | nil => exact refl s
  | cons h l ih =>
    obtain ⟨hnot, hl⟩ := List.nodup_cons.mp hl
    have rest : l.flatMap (effect (f s h)) = l.flatMap (effect s) :=
      List.flatMap_congr fun g hg => own s _ g (other s h g fun e => hnot (e ▸ hg))
    rw [List.foldl_cons, List.flatMap_cons, ← rest]
    exact trans _ _ _ _ _ (step s h) (ih hl (f s h))

theorem settleHeads_effects {ι : Type} {effect : State → Fin 12 → List ι} {R : State → State → List ι → Prop}
    (refl : ∀ s, R s s []) (trans : ∀ s t u l m, R s t l → R t u m → R s u (l ++ m))
    (step : ∀ s h, R s (s.settleHead h) (effect s h)) (own : ∀ s t h, OwnKept s t h → effect t h = effect s h)
    {l : List (Fin 12)} (hl : l.Nodup) (s : State) : R s (l.foldl State.settleHead s) (l.flatMap (effect s)) :=
  foldl_effects (K := OwnKept) (fun s _ _ hne => settleHead_keeps_other s hne) refl trans step own hl s

/-! ## What a tick close means for one head -/

/-- Head h is lost at the close of the open tick (R31). -/
def State.lostAtClose (s : State) (h : Fin 12) : Bool :=
  decide ((s.head h).state = .active ∧ 31 ≤ (s.head h).miss ∧ s.buffer h = none)

/-- Head h completes its join at the close of the open tick (R30). -/
def State.joinsAtClose (s : State) (h : Fin 12) : Bool :=
  decide ((s.head h).state = .joining ∧ 3 ≤ (s.head h).join) && (s.buffer h).isSome

/-- Head h is ACTIVE past the close of the open tick, at which it has a frame (R30, R32). -/
def Head.activeWithFrame (x : Head) : Bool := decide (x.state = .active ∨ (x.state = .joining ∧ 3 ≤ x.join))

/-- Head h's channel takes a frame with FAULT clear and OVER set at the close of the open tick, with the head ACTIVE past it, which
ends a calibration (R54, R73). -/
def State.overloadsAtClose (s : State) (h : Fin 12) : Bool :=
  match s.buffer h with
  | none => false
  | some f => (s.channel h).isOpen && (s.head h).activeWithFrame && !f.faultFlag && f.overFlag

/-- The slots that the close of the open tick answers for head h (R73). -/
def State.closeSlots (s : State) (h : Fin 12) : List (Fin 8) :=
  if s.lostAtClose h || s.overloadsAtClose h then s.calibrationSlot h else []

/-- The classes that the close of the open tick raises for head h (R35, R167). -/
def State.closeClasses (s : State) (h : Fin 12) : List NoticeClass :=
  (if s.lostAtClose h || s.overloadsAtClose h then s.calibrationClass h else []) ++
    if s.lostAtClose h || (s.joinsAtClose h && (s.head h).returning) then [.head] else []

/-- The step of the head state machine with the conditions of its three kinds (R30 to R32). -/
inductive CloseStep (s : State) (h : Fin 12) : State → Prop where
  | lost (hlost : s.lostAtClose h = true) (hbuffer : s.buffer h = none) : CloseStep s h (s.loseHead h)
  | joined (f : Frame) (hjoins : s.joinsAtClose h = true) (hbuffer : s.buffer h = some f) : CloseStep s h (s.joinComplete h f)
  | moved (x : Head) (hlost : s.lostAtClose h = false) (hjoins : s.joinsAtClose h = false)
    (hstate : x.state = .active ↔ (s.head h).state = .active) : CloseStep s h (s.setHead h x)

theorem closeStep_cases (s : State) (h : Fin 12) : CloseStep s h (s.headStep h (s.buffer h)) := by
  have stays : s.lostAtClose h = false → s.joinsAtClose h = false → CloseStep s h s := by
    intro hlost hjoins
    have := CloseStep.moved (s.head h) hlost hjoins Iff.rfl
    rwa [setHead_self] at this
  unfold State.headStep
  dsimp only
  split
  · next o ho => exact stays (by simp [State.lostAtClose, ho]) (by simp [State.joinsAtClose, ho])
  · next o hj ho => exact .moved _ (by simp [State.lostAtClose, hj]) (by simp [State.joinsAtClose, ho]) Iff.rfl
  · next o f hj ho =>
    split
    · next hge => exact .joined f (by simp [State.joinsAtClose, hj, ho]; omega) ho
    · next hlt => exact .moved _ (by simp [State.lostAtClose, hj]) (by simp [State.joinsAtClose, hj]; omega) Iff.rfl
  · next o ha ho =>
    split
    · next hge => exact .lost (by simp [State.lostAtClose, ha, ho]; omega) ho
    · next hlt => exact .moved _ (by simp [State.lostAtClose]; omega) (by simp [State.joinsAtClose, ho]) Iff.rfl
  · next o f ha ho => exact .moved _ (by simp [State.lostAtClose, ho]) (by simp [State.joinsAtClose, ha]) Iff.rfl
  · next o hl ho => exact stays (by simp [State.lostAtClose, hl]) (by simp [State.joinsAtClose, hl])
  · next o f hl ho =>
    exact .moved _ (by simp [State.lostAtClose, hl]) (by simp [State.joinsAtClose, hl]) (by simp [hl])

/-- The head state machine's table (R30 to R32) for counts in range. -/
theorem settleHead_head_eq {s : State} {h : Fin 12} (hjoin : (s.head h).state = .joining → (s.head h).join ≤ 3)
    (hmiss : (s.head h).state = .active → (s.head h).miss ≤ 31) :
    (s.settleHead h).head h = settledHead (s.head h) (s.buffer h).isSome := by
  rw [settleHead_head]
  cases ho : s.buffer h with
  | none =>
    cases hs : (s.head h).state with
    | off => simp [State.headStep, settledHead, hs]
    | joining => simp [State.headStep, settledHead, hs]
    | active =>
      have := hmiss hs
      by_cases hm : (s.head h).miss = 31
      · simp [State.headStep, settledHead, hs, hm, loseHead_head]
      · simp [State.headStep, settledHead, hs, hm, show ¬ 31 ≤ (s.head h).miss by omega]
    | lost => simp [State.headStep, settledHead, hs]
  | some f =>
    cases hs : (s.head h).state with
    | off => simp [State.headStep, settledHead, hs]
    | joining =>
      have := hjoin hs
      by_cases hj : (s.head h).join = 3
      · simp [State.headStep, settledHead, hs, hj, joinComplete_head]
      · simp [State.headStep, settledHead, hs, hj, show ¬ 3 ≤ (s.head h).join by omega]
    | active => simp [State.headStep, settledHead, hs]
    | lost => simp [State.headStep, settledHead, hs]

/-! ## What settling a head answers and raises -/

/-- Between s and t the slots of `slots` are answered, the classes of `classes` raised, and nothing else of the engine, the store and
the notices is touched. -/
structure Effects (s t : State) (slots : List (Fin 8)) (classes : List NoticeClass) : Prop where
  answered : SlotsAnswered s t slots
  raised : OnlyRaised s t classes

theorem Effects.none {s t : State} (hrequests : t.requests = s.requests) (hstore : t.store = s.store)
    (hnotices : t.notices = s.notices) : Effects s t [] [] := ⟨.of_eq hrequests hstore, .of_notices hnotices⟩

theorem Effects.trans {s t u : State} {l l' : List (Fin 8)} {m m' : List NoticeClass} (hst : Effects s t l m)
    (htu : Effects t u l' m') : Effects s u (l ++ l') (m ++ m') :=
  ⟨hst.answered.trans htu.answered, hst.raised.trans htu.raised⟩

theorem Effects.after {s t u : State} {l : List (Fin 8)} {m : List NoticeClass} (htu : Effects t u l m)
    (hst : Effects s t [] []) : Effects s u l m := hst.trans htu

theorem Effects.andThen {s t u : State} {l : List (Fin 8)} {m : List NoticeClass} (hst : Effects s t l m)
    (htu : Effects t u [] []) : Effects s u l m := by
  have both := hst.trans htu
  rwa [List.append_nil, List.append_nil] at both

theorem abortCalibration_effects (s : State) (h : Fin 12) (r : AbortReason) :
    Effects s (s.abortCalibration h r) (s.calibrationSlot h) (s.calibrationClass h) :=
  ⟨abortCalibration_answers_slot s h r, abortCalibration_raises_class s h r⟩

theorem setChannel_effects (s : State) (h : Fin 12) (x : Channel) : Effects s (s.setChannel h x) [] [] := .none rfl rfl rfl

theorem setHead_effects (s : State) (h : Fin 12) (x : Head) : Effects s (s.setHead h x) [] [] := .none rfl rfl rfl

/-- A tick ends its head's calibration when it is a calibration tick whose frame has OVER set (R54, R73). -/
def State.tickEnds (s : State) (h : Fin 12) (o : Option Frame) : Bool :=
  match o with
  | none => false
  | some f => (s.channel h).isOpen && decide ((s.head h).state = .active) && !f.faultFlag && f.overFlag

theorem channelTick_effects (s : State) (h : Fin 12) (o : Option Frame) : Effects s (s.channelTick h o)
    (if s.tickEnds h o then s.calibrationSlot h else []) (if s.tickEnds h o then s.calibrationClass h else []) := by
  by_cases hopen : (s.channel h).isOpen = true
  · cases o with
    | none =>
      rw [channelTick_gap hopen (.inl rfl)]
      exact setChannel_effects ..
    | some f =>
      by_cases hgap : f.faultFlag = true ∨ (s.head h).state ≠ .active
      · have quiet : s.tickEnds h (some f) = false := by
          rcases hgap with hfault | hstate
          · simp [State.tickEnds, hfault]
          · simp [State.tickEnds, hstate]
        rw [channelTick_gap hopen (.inr (hgap.imp_left fun hf => ⟨f, rfl, hf⟩)), quiet]
        exact setChannel_effects ..
      · obtain ⟨hfault, hstate⟩ : f.faultFlag = false ∧ (s.head h).state = .active := by simpa using hgap
        have ends : s.tickEnds h (some f) = f.overFlag := by simp [State.tickEnds, hopen, hfault, hstate]
        rw [ends]
        cases hcal : s.calibration h with
        | none =>
          rw [channelTick_present hopen hstate hfault hcal]
          simpa [State.calibrationSlot, State.calibrationClass, hcal] using setChannel_effects s h _
        | some c =>
          rw [channelTick_calibration hopen hstate hfault hcal]
          refine Effects.after ?_ (setChannel_effects s h ((s.channel h).calibrationTick (some f)))
          cases hover : f.overFlag with
          | false =>
            rw [feedCalibration_of_good (s := s.setChannel h _) hcal hover]
            exact .none rfl rfl rfl
          | true =>
            rw [feedCalibration_of_over hover]
            exact abortCalibration_effects (s.setChannel h ((s.channel h).calibrationTick (some f))) h .overload
  · have quiet : s.tickEnds h o = false := by
      cases o with
      | none => rfl
      | some f => simp [State.tickEnds, hopen]
    have same : s.channelTick h o = s := by simp [State.channelTick, hopen]
    rw [quiet, same]
    exact .none rfl rfl rfl

theorem loseHead_effects (s : State) (h : Fin 12) :
    Effects s (s.loseHead h) (s.calibrationSlot h) (s.calibrationClass h ++ [.head]) :=
  ⟨loseHead_answers s h, loseHead_raises s h⟩

theorem joinComplete_effects (s : State) (h : Fin 12) (f : Frame) :
    Effects s (s.joinComplete h f) [] (if (s.head h).returning then [.head] else []) :=
  ⟨.of_eq (by simp) (by simp), joinComplete_raises s h f⟩

/-- Settling head h answers and raises what the close of the open tick means for it. -/
theorem settleHead_effects (s : State) (h : Fin 12) :
    Effects s (s.settleHead h) (s.closeSlots h) (s.closeClasses h) := by
  have step := closeStep_cases s h
  have settled : Effects _ (s.settleHead h) [] [] := .none (s := (s.headStep h (s.buffer h)).channelTick h (s.buffer h)) rfl rfl rfl
  refine Effects.andThen ?_ settled
  generalize s.headStep h (s.buffer h) = t at step
  cases step with
  | lost hlost hbuffer =>
    have tick := channelTick_effects (s.loseHead h) h (s.buffer h)
    rw [hbuffer] at tick ⊢
    simpa [State.closeSlots, State.closeClasses, hlost] using (loseHead_effects s h).andThen tick
  | joined f hjoins hbuffer =>
    have notLost : s.lostAtClose h = false := by simp [State.lostAtClose, hbuffer]
    have tick := channelTick_effects (s.joinComplete h f) h (s.buffer h)
    obtain ⟨hactive, -, hch⟩ := joinComplete_own s h f
    have ends : (s.joinComplete h f).tickEnds h (s.buffer h) = s.overloadsAtClose h := by
      have hj : (s.head h).state = .joining ∧ 3 ≤ (s.head h).join := by simpa [State.joinsAtClose, hbuffer] using hjoins
      simp [State.tickEnds, State.overloadsAtClose, hbuffer, hch, hactive, Head.activeWithFrame, hj, Channel.seeded]
    have calibration : (s.joinComplete h f).calibration h = s.calibration h := by
      simp only [State.calibration, calRecord_joinComplete]
    have slot : (s.joinComplete h f).calibrationSlot h = s.calibrationSlot h := by simp only [State.calibrationSlot, calibration]
    have cls : (s.joinComplete h f).calibrationClass h = s.calibrationClass h := by simp only [State.calibrationClass, calibration]
    rw [ends, slot, cls] at tick
    have both := (joinComplete_effects s h f).trans tick
    refine ⟨by simpa [State.closeSlots, notLost] using both.answered, both.raised.congr fun c => ?_⟩
    simp [State.closeClasses, notLost, hjoins, or_comm]
  | moved x hlost hjoins hstate =>
    have tick := channelTick_effects (s.setHead h x) h (s.buffer h)
    have ends : (s.setHead h x).tickEnds h (s.buffer h) = s.overloadsAtClose h := by
      cases hbuffer : s.buffer h with
      | none => simp [State.tickEnds, State.overloadsAtClose, hbuffer]
      | some f =>
        have notJoining : ¬ ((s.head h).state = .joining ∧ 3 ≤ (s.head h).join) := by
          simpa [State.joinsAtClose, hbuffer] using hjoins
        simp [State.tickEnds, State.overloadsAtClose, hbuffer, Head.activeWithFrame, hstate, notJoining]
    have slot : (s.setHead h x).calibrationSlot h = s.calibrationSlot h := rfl
    have cls : (s.setHead h x).calibrationClass h = s.calibrationClass h := rfl
    rw [ends, slot, cls] at tick
    have both := (setHead_effects s h x).trans tick
    simpa [State.closeSlots, State.closeClasses, hlost, hjoins] using both

theorem settleHead_trace (s : State) (h : Fin 12) : (s.settleHead h).trace =
    { s.trace with mode := s.trace.mode.departing fun g => s.lostAtClose h && decide (g = h.val) } := by
  have step := closeStep_cases s h
  have counted : (s.settleHead h).trace = (s.headStep h (s.buffer h)).trace := by simp [State.settleHead]
  rw [counted]
  generalize s.headStep h (s.buffer h) = t at step
  cases step with
  | lost hlost hbuffer => simp [loseHead_trace, hlost]
  | joined f hjoins hbuffer =>
    have notLost : s.lostAtClose h = false := by simp [State.lostAtClose, hbuffer]
    simp [notLost, mode_departing_of_none]
  | moved x hlost hjoins hstate => simp [hlost, mode_departing_of_none]

/-! ## What settling all heads answers and raises -/

section OwnEntries

variable {s t : State} {h : Fin 12} (hst : OwnKept s t h)
include hst

theorem OwnKept.lostAtClose : t.lostAtClose h = s.lostAtClose h := by
  simp only [State.lostAtClose, hst.head, hst.buffer]

theorem OwnKept.calibrationSlot : t.calibrationSlot h = s.calibrationSlot h := by
  simp only [State.calibrationSlot, hst.calibration]

theorem OwnKept.calibrationClass : t.calibrationClass h = s.calibrationClass h := by
  simp only [State.calibrationClass, hst.calibration]

theorem OwnKept.overloadsAtClose : t.overloadsAtClose h = s.overloadsAtClose h := by
  simp only [State.overloadsAtClose, hst.head, hst.buffer, hst.channel]

theorem OwnKept.closeSlots : t.closeSlots h = s.closeSlots h := by
  simp only [State.closeSlots, hst.lostAtClose, hst.overloadsAtClose, hst.calibrationSlot]

theorem OwnKept.closeClasses : t.closeClasses h = s.closeClasses h := by
  unfold State.closeClasses State.joinsAtClose
  rw [hst.lostAtClose, hst.overloadsAtClose, hst.calibrationClass, hst.head, hst.buffer]

end OwnEntries

theorem settleHeads_shared {l : List (Fin 12)} (hl : l.Nodup) (s : State) :
    Effects s (l.foldl State.settleHead s) (l.flatMap s.closeSlots) (l.flatMap s.closeClasses) where
  answered := settleHeads_effects (R := SlotsAnswered) (fun _ => .of_eq rfl rfl) (fun _ _ _ _ _ => .trans)
    (fun s h => (settleHead_effects s h).answered) (fun _ _ _ hst => hst.closeSlots) hl s
  raised := settleHeads_effects (R := OnlyRaised) (fun _ => .of_notices rfl) (fun _ _ _ _ _ => .trans)
    (fun s h => (settleHead_effects s h).raised) (fun _ _ _ hst => hst.closeClasses) hl s

/-- A trace unit whose capture has lost the heads listed (R156). -/
def DepartsFrom (t u : TraceUnit) (l : List (Fin 12)) : Prop :=
  u = { t with mode := t.mode.departing fun g => l.any fun h => decide (g = h.val) }

theorem DepartsFrom.refl (t : TraceUnit) : DepartsFrom t t [] := by simp [DepartsFrom, mode_departing_of_none]

theorem DepartsFrom.trans {t u v : TraceUnit} {l m : List (Fin 12)} (htu : DepartsFrom t u l) (huv : DepartsFrom u v m) :
    DepartsFrom t v (l ++ m) := by
  unfold DepartsFrom at *
  simp [huv, htu, mode_departing_departing]

theorem flatMap_eq_filter {α : Type} (p : α → Bool) (l : List α) :
    l.flatMap (fun a => if p a then [a] else []) = l.filter p := by
  induction l with
  | nil => rfl
  | cons a l ih =>
    rw [List.flatMap_cons, List.filter_cons, ih]
    split <;> rfl

theorem settleHeads_trace {l : List (Fin 12)} (hl : l.Nodup) (s : State) :
    DepartsFrom s.trace (l.foldl State.settleHead s).trace (l.filter s.lostAtClose) := by
  have departs := settleHeads_effects (R := fun s t l => DepartsFrom s.trace t.trace l)
    (effect := fun s h => if s.lostAtClose h then [h] else []) (fun _ => .refl _) (fun _ _ _ _ _ => .trans) (fun s h => by
      cases hlost : s.lostAtClose h with
      | true => simp [DepartsFrom, settleHead_trace, hlost]
      | false => simp [DepartsFrom, settleHead_trace, hlost]) (fun _ _ _ hst => by rw [hst.lostAtClose]) hl s
  rwa [flatMap_eq_filter] at departs

/-! ## What one head shows past the settling of several -/

theorem settleHeads_own {l : List (Fin 12)} (hl : l.Nodup) {h : Fin 12} (hmem : h ∈ l) (s : State) :
    ∃ u, OwnKept s u h ∧ OwnKept (u.settleHead h) (l.foldl State.settleHead s) h := by
  obtain ⟨before, after, rfl⟩ := List.append_of_mem hmem
  obtain ⟨-, hafter, hdisjoint⟩ := List.nodup_append.mp hl
  have hnotBefore : h ∉ before := fun hb => hdisjoint h hb h List.mem_cons_self rfl
  rw [List.foldl_append, List.foldl_cons]
  exact ⟨_, settleHeads_keep_own hnotBefore s, settleHeads_keep_own (List.nodup_cons.mp hafter).1 _⟩

theorem settleHeads_link (l : List (Fin 12)) (s : State) :
    (l.foldl State.settleHead s).link = { s.link with buffers := (l.foldl State.settleHead s).link.buffers } :=
  List.foldlRecOn (motive := fun t : State => t.link = { s.link with buffers := t.link.buffers }) l _ rfl fun t ht h _ => by
    have link : (t.settleHead h).link = { t.link with buffers := (t.settleHead h).link.buffers } := by
      simp [State.settleHead, State.setBuffer]
    rw [link, ht]

/-! ## Traces written out -/

theorem flagBits_eq_sixFlags (b0 b1 b2 b3 b4 b5 : Bool) : word (flagBits [b0, b1, b2, b3, b4, b5]) = sixFlags b0 b1 b2 b3 b4 b5 := by
  have bit : ∀ b : Bool, (if b then 1 else 0) = b.toNat := fun b => by cases b <;> rfl
  simp only [flagBits, sixFlags, bit]
  congr 1
  omega

theorem scopeWord_eq (c : Capture) : scopeWord c =
    let place := fun i => (c.scope.map (fun x => x.head % 16)).getD i 15
    word (place 0 + 16 * place 1 + 256 * place 2 + 4096 * place 3) := by
  unfold scopeWord
  rcases c.scope with _ | ⟨x0, _ | ⟨x1, _ | ⟨x2, _ | ⟨x3, rest⟩⟩⟩⟩ <;> simp

/-- The words that a completion writes are those of 11 section 11.9. -/
theorem traceImage_eq (c : Capture) (truncated : Bool) (missed : Nat) (number : DWord) :
    traceImage c truncated missed number = traceWords c truncated missed number := by
  have flags : traceFlagWord c.padded truncated c.headLeft = sixFlags c.padded truncated c.headLeft false false false := by
    rw [← flagBits_eq_sixFlags]
    rfl
  simp only [traceImage, traceWords, scopeWord_eq, flags, List.map_append]

theorem traceAddr_add (n : Fin 2) (w : Nat) : traceAddr n w = traceAddr n 0 + 2 * w := by simp [traceAddr]

section Completed

variable (s : State) (c : Capture) (truncated : Bool) (after : TraceMode)

theorem completeCapture_bytes : BytesKept s (s.completeCapture c truncated after)
    [(traceAddr c.slot 0, traceAddr c.slot (traceWords c truncated s.trace.missed (s.trace.number + 1)).length)] := by
  rw [traceAddr_add c.slot (List.length _), ← traceImage_eq]
  exact bytesKept_of_writeWords (completeCapture_store ..)

theorem completeCapture_trace : (s.completeCapture c truncated after).trace =
    { s.trace with mode := after, list := s.trace.list ++ [c.slot], missed := 0, number := s.trace.number + 1 } := by
  unfold State.completeCapture
  dsimp only
  split <;> simp

theorem completeCapture_raises : OnlyRaised s (s.completeCapture c truncated after)
    (if s.trace.settings.repeating then [] else [.trace]) := by
  unfold State.completeCapture
  dsimp only
  split
  · exact .of_notices rfl
  · exact ⟨(raise_raises _ .trace).1, rfl⟩

end Completed

end Sys2Proof.Machine
end

section
/-! PROOFS. CAPTURE_COMPLETE: what a tick close as a whole makes of the heads, the answers, the capture and the notices (R27, R30 to
R35, R73, R155, R159). -/

namespace Sys2Proof.Machine

open Sys2Proof

/-! ## The steps of a tick close -/

/-- The state past the settling of every head at a tick close (R27). -/
def State.headsClosed (s : State) : State := (closingHeads s).foldl State.settleHead s.begun

/-- The state past the samples that a capture takes at a tick close (R155). -/
def State.sampledClose (s : State) : State := s.headsClosed.takeSamples.atStage .closed

/-- The state past a whole tick close. -/
def State.tickClosed (s : State) : State := s.begun.closeTick.captureStage

theorem tickClosed_eq (s : State) : s.tickClosed = s.sampledClose.completeIfDue.atStage .captured := rfl

theorem beginTick_closes {s : State} (hs : TickClosing s) : s.beginTick.closeTick.captureStage = s.tickClosed := by
  rw [beginTick_of_closing hs]
  rfl

theorem exec_captureComplete_of_closing {s : State} (hs : TickClosing s) : exec .captureComplete s = .next s.tickClosed :=
  (exec_captureComplete hs.1.2).trans (congrArg _ (beginTick_closes hs))

theorem atStage_keeps_own (s : State) (x : TickStage) (h : Fin 12) : OwnKept s (s.atStage x) h := ⟨rfl, rfl, rfl, rfl, rfl, rfl⟩

theorem headsClosed_own (s : State) (h : Fin 12) : OwnKept s.headsClosed s.tickClosed h := by
  have sampled : OwnKept s.headsClosed s.headsClosed.takeSamples h := .of_eq
  have completed : OwnKept s.sampledClose s.sampledClose.completeIfDue h := .of_eq
  rw [tickClosed_eq]
  exact (sampled.trans (atStage_keeps_own _ _ h)).trans (completed.trans (atStage_keeps_own _ _ h))

theorem tickClosed_frame (s : State) : s.tickClosed =
    { s with stage := .captured, link := { s.link with buffers := s.tickClosed.link.buffers }, heads := s.tickClosed.heads,
             channels := s.tickClosed.channels, calibrations := s.tickClosed.calibrations, trace := s.tickClosed.trace,
             requests := s.tickClosed.requests, store := s.tickClosed.store, notices := s.tickClosed.notices } := by
  have link : s.tickClosed.link = { s.link with buffers := s.tickClosed.link.buffers } := by
    have settled := settleHeads_link (closingHeads s) s.begun
    have same : s.tickClosed.link = s.headsClosed.link := by simp [tickClosed_eq, State.sampledClose]
    rw [same]
    exact settled
  have stage : s.tickClosed.stage = .captured := rfl
  apply State.eq_of_fields (h5 := stage) (h9 := link) <;> simp [State.tickClosed, State.atStage]

/-! ## One head -/

theorem tickClosed_of_off {s : State} {h : Fin 12} (hoff : (s.head h).state = .off) : OwnKept s s.tickClosed h :=
  (atStage_keeps_own s _ h).trans
    ((settleHeads_keep_own (fun hin => mem_closingHeads.mp hin hoff) s.begun).trans (headsClosed_own s h))

theorem tickClosed_of_on {s : State} {h : Fin 12} (hon : (s.head h).state ≠ .off) :
    ∃ u, OwnKept s u h ∧ OwnKept (u.settleHead h) s.tickClosed h := by
  obtain ⟨u, hu, ht⟩ := settleHeads_own (nodup_closingHeads s) (mem_closingHeads.mpr hon) s.begun
  exact ⟨u, (atStage_keeps_own s _ h).trans hu, ht.trans (headsClosed_own s h)⟩

theorem buffer_settleHead (s : State) (h : Fin 12) : (s.settleHead h).buffer h = none := by
  simp [State.settleHead, State.buffer, State.setBuffer]

theorem buffer_tickClosed {s : State} {h : Fin 12} (hon : (s.head h).state ≠ .off) : s.tickClosed.buffer h = none := by
  obtain ⟨u, -, ht⟩ := tickClosed_of_on hon
  rw [ht.buffer, buffer_settleHead]

section InRange

variable {s : State} (hjoin : ∀ h, (s.head h).state = .joining → (s.head h).join ≤ 3)
  (hmiss : ∀ h, (s.head h).state = .active → (s.head h).miss ≤ 31)

include hjoin hmiss in
theorem head_tickClosed (h : Fin 12) : s.tickClosed.head h = settledHead (s.head h) (s.buffer h).isSome := by
  by_cases hoff : (s.head h).state = .off
  · rw [(tickClosed_of_off hoff).head]
    simp [settledHead, hoff]
  · obtain ⟨u, hu, ht⟩ := tickClosed_of_on hoff
    rw [ht.head, settleHead_head_eq (by rw [hu.head]; exact hjoin h) (by rw [hu.head]; exact hmiss h), hu.head, hu.buffer]

include hmiss in
theorem lostAtClose_iff (h : Fin 12) : s.lostAtClose h = true ↔
    (s.head h).state = .active ∧ (s.head h).miss = 31 ∧ s.buffer h = none := by
  have := hmiss h
  simp only [State.lostAtClose, decide_eq_true_eq]
  constructor
  · rintro ⟨hstate, hge, hbuffer⟩
    have := hmiss h hstate
    exact ⟨hstate, by omega, hbuffer⟩
  · rintro ⟨hstate, heq, hbuffer⟩
    exact ⟨hstate, by omega, hbuffer⟩

include hjoin in
theorem joinsAtClose_iff (h : Fin 12) : s.joinsAtClose h = true ↔
    (s.head h).state = .joining ∧ (s.head h).join = 3 ∧ (s.buffer h).isSome := by
  simp only [State.joinsAtClose, Bool.and_eq_true, decide_eq_true_eq]
  constructor
  · rintro ⟨⟨hstate, hge⟩, hbuffer⟩
    have := hjoin h hstate
    exact ⟨hstate, by omega, hbuffer⟩
  · rintro ⟨hstate, heq, hbuffer⟩
    exact ⟨⟨hstate, by omega⟩, hbuffer⟩

theorem settledHead_leaves (x : Head) (valid : Bool) :
    x.state = .active ∧ (settledHead x valid).state ≠ .active ↔ x.state = .active ∧ x.miss = 31 ∧ valid = false := by
  cases hx : x.state with
  | active =>
    cases valid with
    | false =>
      by_cases hm : x.miss = 31
      · simp [settledHead, hx, hm]
      · simp [settledHead, hx, hm]
    | true => simp [settledHead, hx]
  | off => simp
  | joining => simp
  | lost => simp

include hjoin hmiss in
/-- The heads that leave ACTIVE at a tick close are those that are lost there (R31, R34). -/
theorem leaves_tickClosed_iff (h : Fin 12) : Leaves s s.tickClosed h ↔ s.lostAtClose h = true := by
  rw [lostAtClose_iff hmiss, Leaves, head_tickClosed hjoin hmiss, settledHead_leaves]
  simp

theorem settledHead_active_iff (x : Head) (hx : x.state = .joining → x.join ≤ 3) :
    (settledHead x true).state = .active ↔ x.activeWithFrame = true := by
  cases hs : x.state with
  | joining =>
    have := hx hs
    by_cases hj : x.join = 3
    · simp [settledHead, hs, hj, Head.activeWithFrame]
    · simp [settledHead, hs, hj, Head.activeWithFrame, show ¬ 3 ≤ x.join by omega]
  | off => simp [settledHead, hs, Head.activeWithFrame]
  | active => simp [settledHead, hs, Head.activeWithFrame]
  | lost => simp [settledHead, hs, Head.activeWithFrame]

/-! ## Calibrations that end -/

theorem flatMap_filter_of_nil {α β : Type} {f : α → List β} {p : α → Bool} (hp : ∀ a, p a = false → f a = []) (l : List α) :
    (l.filter p).flatMap f = l.flatMap f := by
  induction l with
  | nil => rfl
  | cons a l ih =>
    rw [List.filter_cons, List.flatMap_cons, ← ih]
    cases ha : p a with
    | true => rfl
    | false => simp [hp a ha]

theorem closeSlots_of_off {h : Fin 12} (hoff : (s.head h).state = .off) : s.closeSlots h = [] := by
  have lost : s.lostAtClose h = false := by simp [State.lostAtClose, hoff]
  have overloads : s.overloadsAtClose h = false := by
    cases hb : s.buffer h with
    | none => simp [State.overloadsAtClose, hb]
    | some f => simp [State.overloadsAtClose, hb, Head.activeWithFrame, hoff]
  simp [State.closeSlots, lost, overloads]

include hjoin hmiss in
/-- The calibrations that the settling of the heads answers are those that the tick close ends early (R73). -/
theorem closeSlots_eq : (closingHeads s).flatMap s.closeSlots = endedAtClose s := by
  rw [closingHeads, flatMap_filter_of_nil (fun h hh => closeSlots_of_off (by simpa using hh)), endedAtClose,
    List.filterMap_eq_flatMap_toList]
  refine List.flatMap_congr fun h _ => ?_
  have lost : decide ((s.head h).state = .active ∧ (s.head h).miss = 31 ∧ s.buffer h = none) = s.lostAtClose h := by
    rw [Bool.eq_iff_iff, lostAtClose_iff hmiss, decide_eq_true_eq]
  have active : decide ((settledHead (s.head h) true).state = .active) = (s.head h).activeWithFrame := by
    rw [Bool.eq_iff_iff, decide_eq_true_eq, settledHead_active_iff _ (hjoin h)]
  unfold State.closeSlots State.overloadsAtClose
  dsimp only
  rw [lost, active]
  cases hb : s.buffer h with
  | none => cases s.lostAtClose h <;> simp [State.calibrationSlot]
  | some f =>
    dsimp only
    split <;> simp [State.calibrationSlot]

theorem answer_mem_closeClasses (h : Fin 12) : .answer ∈ s.closeClasses h ↔ s.closeSlots h ≠ [] := by
  cases hc : s.calibration h with
  | none => simp [State.closeClasses, State.closeSlots, State.calibrationClass, State.calibrationSlot, hc]
  | some c =>
    cases hl : s.lostAtClose h || s.overloadsAtClose h <;>
      simp [State.closeClasses, State.closeSlots, State.calibrationClass, State.calibrationSlot, hc, hl]

theorem head_mem_closeClasses (h : Fin 12) :
    .head ∈ s.closeClasses h ↔ s.lostAtClose h = true ∨ s.joinsAtClose h = true ∧ (s.head h).returning = true := by
  cases hc : s.calibration h with
  | none => simp [State.closeClasses, State.calibrationClass, hc]
  | some c => simp [State.closeClasses, State.calibrationClass, hc]

theorem mem_closeClasses {h : Fin 12} {c : NoticeClass} (hc : c ∈ s.closeClasses h) : c = .answer ∨ c = .head := by
  simp only [State.closeClasses, State.calibrationClass, List.mem_append, List.mem_ite_nil_right, List.mem_singleton] at hc
  tauto

/-! ## The capture -/

theorem takeSamples_of_idle (hnot : ∀ c, s.trace.mode ≠ .capturing c) : s.takeSamples = s := by
  unfold State.takeSamples
  split
  · next c hc => exact absurd hc (hnot c)
  · rfl

theorem takeSamples_of_capturing {c : Capture} (hc : s.trace.mode = .capturing c) : s.takeSamples.trace.mode = .capturing
    { c with scope := c.scope.map (fun x => x.sampled (s.tickSample x.head)), postCounter := c.postCounter - 1,
             captured := c.captured + 1 } := by
  simp [State.takeSamples, hc, State.setTraceMode]

theorem takeSamples_items (s : State) : s.takeSamples.trace = { s.trace with mode := s.takeSamples.trace.mode } := by
  unfold State.takeSamples
  split <;> rfl

/-- A scope head's sample is read from the head table and the channels only (R155). -/
theorem tickSample_congr {t u : State} (hst : ∀ h, OwnKept t u h) (g : Nat) : t.tickSample g = u.tickSample g := by
  unfold State.tickSample
  cases headOf g with
  | none => rfl
  | some h =>
    dsimp only
    rw [(hst h).head, (hst h).channel]

include hjoin hmiss in
/-- A capture past the samples of a tick close (R155, R156). -/
theorem sampledClose_capture {c : Capture} (hc : s.trace.mode = .capturing c) :
    s.sampledClose.trace.mode = .capturing (sampledCapture s s.tickClosed c) := by
  have departs : DepartsFrom s.trace s.headsClosed.trace ((closingHeads s).filter s.lostAtClose) :=
    settleHeads_trace (nodup_closingHeads s) s.begun
  have left : ∀ g, ((closingHeads s).filter s.lostAtClose).any (fun h => decide (g = h.val)) =
      allHeads.any (fun h => decide (h.val = g ∧ Leaves s s.tickClosed h)) := by
    intro g
    rw [Bool.eq_iff_iff]
    simp only [List.any_eq_true, List.mem_filter, mem_closingHeads, decide_eq_true_eq, mem_allHeads, true_and,
      leaves_tickClosed_iff hjoin hmiss, lostAtClose_iff hmiss]
    constructor
    · rintro ⟨h, ⟨-, hlost⟩, rfl⟩
      exact ⟨h, rfl, hlost⟩
    · rintro ⟨h, rfl, hlost⟩
      exact ⟨h, ⟨by simp [hlost.1], hlost⟩, rfl⟩
  obtain ⟨-, capturing⟩ := trace_of_departing departs
  have samples : ∀ g, s.headsClosed.tickSample g = s.tickClosed.tickSample g := tickSample_congr (headsClosed_own s)
  have taken := takeSamples_of_capturing (capturing c hc)
  have mode : s.sampledClose.trace.mode = s.headsClosed.takeSamples.trace.mode := rfl
  rw [mode, taken]
  simp only [Capture.departing, left, sampledCapture, samples, List.map_map]
  rfl

end InRange

theorem sampledClose_items (s : State) : s.sampledClose.trace = { s.trace with mode := s.sampledClose.trace.mode } := by
  have departs : DepartsFrom s.trace s.headsClosed.trace ((closingHeads s).filter s.lostAtClose) :=
    settleHeads_trace (nodup_closingHeads s) s.begun
  have same : s.sampledClose.trace = s.headsClosed.takeSamples.trace := rfl
  rw [same, takeSamples_items, departs]

theorem sampledClose_idle {s : State} (hnot : ∀ c, s.trace.mode ≠ .capturing c) : s.sampledClose.trace = s.trace := by
  have departs : DepartsFrom s.trace s.headsClosed.trace ((closingHeads s).filter s.lostAtClose) :=
    settleHeads_trace (nodup_closingHeads s) s.begun
  have same := (trace_of_departing departs).1 hnot
  have idle : ∀ c, s.headsClosed.trace.mode ≠ .capturing c := by rwa [same]
  rw [State.sampledClose, takeSamples_of_idle idle]
  exact same

/-! ## The store and the notices -/

theorem SlotsAnswered.congr {s t : State} {l m : List (Fin 8)} (hst : SlotsAnswered s t l) (hlm : ∀ n ∈ l, n ∈ m) :
    SlotsAnswered s t m :=
  ⟨fun n hn => hst.slot n fun h => hn (hlm n h), hst.bytes.mono (List.map_subset _ hlm), hst.queue, hst.inService⟩

/-- Settling the heads answers and raises what the tick close means for each of them. -/
theorem sampledClose_shared (s : State) :
    Effects s s.sampledClose ((closingHeads s).flatMap s.closeSlots) ((closingHeads s).flatMap s.closeClasses) := by
  have settled : Effects s s.headsClosed ((closingHeads s).flatMap s.closeSlots) ((closingHeads s).flatMap s.closeClasses) :=
    (settleHeads_shared (nodup_closingHeads s) s.begun).after (.none rfl rfl rfl)
  refine settled.andThen (.none ?_ ?_ ?_) <;> simp [State.sampledClose]

section Completion

variable {s : State} {c : Capture}

theorem completeIfDue_of_due (hc : s.trace.mode = .capturing c) (hdue : c.postCounter = 0) :
    s.completeIfDue = s.completeCapture c false s.modeAfterCapture := by
  simp [State.completeIfDue, hc, hdue]

theorem completeIfDue_of_waiting (hc : s.trace.mode = .capturing c) (hdue : c.postCounter ≠ 0) : s.completeIfDue = s := by
  simp [State.completeIfDue, hc, hdue]

theorem completeIfDue_of_idle (hnot : ∀ c, s.trace.mode ≠ .capturing c) : s.completeIfDue = s := by
  unfold State.completeIfDue
  split
  · next c hc => exact absurd hc (hnot c)
  · rfl

end Completion

/-- What the completion of a capture at the end of a tick close writes, raises and leaves (R155, R159). -/
structure CloseCompleted (s u : State) : Prop where
  bytes : BytesKept s.sampledClose u (completedBytes s u)
  raised : OnlyRaised s.sampledClose u (if completedBytes s u ≠ [] ∧ s.trace.settings.repeating = false then [.trace] else [])
  idle : (∀ c, s.trace.mode ≠ .capturing c) → u.trace = s.trace

theorem tickClosed_completed {s : State} (hjoin : ∀ h, (s.head h).state = .joining → (s.head h).join ≤ 3)
    (hmiss : ∀ h, (s.head h).state = .active → (s.head h).miss ≤ 31) : CloseCompleted s s.tickClosed := by
  have items := sampledClose_items s
  have settings : s.sampledClose.trace.settings = s.trace.settings := by rw [items]
  have missed : s.sampledClose.trace.missed = s.trace.missed := by rw [items]
  have number : s.sampledClose.trace.number = s.trace.number := by rw [items]
  have kept : ∀ t, s.sampledClose.completeIfDue = t → BytesKept t s.tickClosed [] ∧ OnlyRaised t s.tickClosed [] ∧
      s.tickClosed.trace = t.trace := by
    rintro t rfl
    exact ⟨.of_store rfl _, .of_notices rfl, rfl⟩
  by_cases hcapturing : ∃ c, s.trace.mode = .capturing c
  · obtain ⟨c, hm⟩ := hcapturing
    have mode := sampledClose_capture hjoin hmiss hm
    have counter : (sampledCapture s s.tickClosed c).postCounter = c.postCounter - 1 := rfl
    by_cases hdue : c.postCounter ≤ 1
    · have bytes := completeCapture_bytes s.sampledClose (sampledCapture s s.tickClosed c) false s.sampledClose.modeAfterCapture
      have raised := completeCapture_raises s.sampledClose (sampledCapture s s.tickClosed c) false s.sampledClose.modeAfterCapture
      obtain ⟨keptBytes, keptRaised, -⟩ := kept _ (completeIfDue_of_due mode (by omega))
      have written : completedBytes s s.tickClosed = [(traceAddr c.slot 0,
          traceAddr c.slot (traceWords (sampledCapture s s.tickClosed c) false s.trace.missed (s.trace.number + 1)).length)] := by
        simp [completedBytes, hm, hdue]
      rw [missed, number] at bytes
      rw [settings] at raised
      refine ⟨?_, (raised.trans keptRaised).congr fun d => ?_, fun hnot => absurd hm (hnot c)⟩
      · rw [written]
        exact bytes.trans (keptBytes.mono (by simp))
      · rw [written]
        cases s.trace.settings.repeating <;> simp
    · obtain ⟨keptBytes, keptRaised, -⟩ := kept _ (completeIfDue_of_waiting mode (by omega))
      have none : completedBytes s s.tickClosed = [] := by simp [completedBytes, hm, hdue]
      refine ⟨?_, ?_, fun hnot => absurd hm (hnot c)⟩
      · rw [none]
        exact keptBytes
      · simpa [none] using keptRaised
  · have hnot : ∀ c, s.trace.mode ≠ .capturing c := fun c hc => hcapturing ⟨c, hc⟩
    have idle := sampledClose_idle hnot
    obtain ⟨keptBytes, keptRaised, keptTrace⟩ := kept _ (completeIfDue_of_idle (by rwa [idle]))
    have none : completedBytes s s.tickClosed = [] := by
      unfold completedBytes
      split
      · next c hc => exact absurd hc (hnot c)
      · rfl
    refine ⟨?_, ?_, fun _ => keptTrace.trans idle⟩
    · rw [none]
      exact keptBytes
    · simpa [none] using keptRaised


/-! ## The rest of a tick event that closes a tick within a second -/

theorem secondStage_within {s : State} (hs : s.stage = .captured) (hclock : s.clock.tick ≠ 31) :
    s.secondStage = s.atStage (.secondClosed false) := by
  simp [State.secondStage, hs, hclock, State.atStage]

theorem periodStage_within {s : State} (hs : s.stage = .secondClosed false) (hopen : s.link.tickOpen.isSome)
    (hclock : s.clock.tick ≠ 31) : s.periodStage = { s with stage := .stepped, clock := s.clock.step } := by
  have notNone : s.link.tickOpen.isNone = false := by simpa using hopen
  have notDue : s.alignedDue = false := by simp [State.alignedDue, hclock]
  simp [State.periodStage, hs, notNone, notDue]

theorem exec_periodEnd {s : State} (hrun : s.run = .measuring) :
    exec .periodEnd s = .next s.beginTick.finishClose.periodStage := if_pos hrun

theorem exec_periodEnd_within {s : State} (hs : TickClosing s) (hclock : s.clock.tick ≠ 31) :
    exec .periodEnd s = .next { s.tickClosed with stage := .stepped, clock := s.clock.step } := by
  have frame := tickClosed_frame s
  have stage : s.tickClosed.stage = .captured := rfl
  have clock : s.tickClosed.clock = s.clock := by rw [frame]
  have link : s.tickClosed.link.tickOpen = s.link.tickOpen := by rw [frame]
  have second : s.beginTick.finishClose = s.tickClosed.atStage (.secondClosed false) := by
    rw [State.finishClose, beginTick_closes hs, secondStage_within stage (by rwa [clock])]
  rw [exec_periodEnd hs.1.2, second,
    periodStage_within (s := s.tickClosed.atStage _) rfl (by simpa [link] using hs.2.1) (by simpa [clock] using hclock)]
  simp [State.atStage, clock]

/-- A tick event that closes a tick and stops at its clock step goes on from there as it would have alone (log entry 2). -/
theorem exec_tickEvent_of_periodEnd {s v : State} (hs : TickClosing s) (hv : exec .periodEnd s = .next v) :
    v.stage = .stepped ∧ v.run = .measuring ∧ exec .tickEvent s = exec .tickEvent v := by
  rw [exec_periodEnd hs.1.2] at hv
  obtain rfl : s.beginTick.finishClose.periodStage = v := by injection hv
  have captured : s.beginTick.closeTick.captureStage.stage = .captured := by rw [beginTick_closes hs]; rfl
  have stage : s.beginTick.finishClose.periodStage.stage = .stepped := by
    rcases secondStage_stage s.beginTick.closeTick.captureStage with ⟨-, b, hb⟩ | ⟨hne, -⟩
    · rw [periodStage_stage, State.finishClose, hb]
    · exact absurd captured hne
  refine ⟨stage, ?_, ?_⟩
  · simpa [State.finishClose] using hs.1.2
  · have begun : s.beginTick.finishClose.periodStage.beginTick = s.beginTick.finishClose.periodStage := by
      rw [State.beginTick, stage]
    have closed := finishClose_of_closeDone (s := s.beginTick.finishClose.periodStage) (by simp [closeDone, stage])
    have stepped : s.beginTick.finishClose.periodStage.periodStage = s.beginTick.finishClose.periodStage := by
      rw [State.periodStage, stage]
    have both : s.beginTick.finishTick = s.beginTick.finishClose.periodStage.beginTick.finishTick := by
      rw [begun, State.finishTick, State.finishTick, closed, stepped]
    exact congrArg Host.Outcome.next both

/-! ## A tick close as O18 states it -/

section Settled

variable {s : State} (hjoin : ∀ h, (s.head h).state = .joining → (s.head h).join ≤ 3)
  (hmiss : ∀ h, (s.head h).state = .active → (s.head h).miss ≤ 31)
include hjoin hmiss

theorem tickClosed_bytes : BytesKept s s.tickClosed ((endedAtClose s).map answerBytes ++ completedBytes s s.tickClosed) := by
  have settled := (sampledClose_shared s).answered.bytes
  rw [closeSlots_eq hjoin hmiss] at settled
  exact (settled.mono fun r hr => List.mem_append_left _ hr).trans
    ((tickClosed_completed hjoin hmiss).bytes.mono fun r hr => List.mem_append_right _ hr)

theorem tickClosed_requests : s.tickClosed.requests = { s.requests with slots := s.tickClosed.requests.slots } ∧
    ∀ n, n ∉ endedAtClose s → s.tickClosed.slot n = s.slot n := by
  obtain ⟨answered, -⟩ := sampledClose_shared s
  have same : s.tickClosed.requests = s.sampledClose.requests := by simp [tickClosed_eq]
  have slots : ∀ n, s.tickClosed.slot n = s.sampledClose.slot n := fun n => by simp only [State.slot, same]
  rw [closeSlots_eq hjoin hmiss] at answered
  refine ⟨?_, fun n hn => (slots n).trans (answered.slot n hn)⟩
  rw [same]
  dsimp only
  rw [← answered.queue, ← answered.inService]

theorem tickClosed_raised : OnlyRaised s s.tickClosed ((closingHeads s).flatMap s.closeClasses ++
    if completedBytes s s.tickClosed ≠ [] ∧ s.trace.settings.repeating = false then [.trace] else []) :=
  (sampledClose_shared s).raised.trans (tickClosed_completed hjoin hmiss).raised

omit hjoin hmiss in
theorem mem_tickClasses {c : NoticeClass} {p : Prop} [Decidable p] :
    c ∈ (closingHeads s).flatMap s.closeClasses ++ (if p then [NoticeClass.trace] else []) ↔
      (∃ h ∈ closingHeads s, c ∈ s.closeClasses h) ∨ p ∧ c = .trace := by
  simp

theorem tickClosed_answer_pending :
    s.tickClosed.isPending .answer = (decide (endedAtClose s ≠ []) || s.isPending .answer) := by
  rw [(tickClosed_raised hjoin hmiss).1]
  congr 1
  rw [Bool.eq_iff_iff, decide_eq_true_eq, decide_eq_true_eq, mem_tickClasses, ← closeSlots_eq hjoin hmiss]
  simp [answer_mem_closeClasses]

theorem tickClosed_trace_pending : s.tickClosed.isPending .trace =
    (decide (completedBytes s s.tickClosed ≠ [] ∧ s.trace.settings.repeating = false) || s.isPending .trace) := by
  rw [(tickClosed_raised hjoin hmiss).1]
  congr 1
  rw [Bool.eq_iff_iff, decide_eq_true_eq, decide_eq_true_eq, mem_tickClasses]
  have never : ¬ ∃ h ∈ closingHeads s, NoticeClass.trace ∈ s.closeClasses h := by
    rintro ⟨h, -, hmem⟩
    simpa using mem_closeClasses hmem
  simp [never]

theorem tickClosed_head_pending : s.tickClosed.isPending .head = true ↔ s.isPending .head = true ∨
    ∃ h, ((s.head h).state = .active ∧ (s.head h).miss = 31 ∧ s.buffer h = none) ∨
      ((s.head h).state = .joining ∧ (s.head h).join = 3 ∧ (s.buffer h).isSome ∧ (s.head h).returning = true) := by
  have named : ∀ h, .head ∈ s.closeClasses h ↔
      ((s.head h).state = .active ∧ (s.head h).miss = 31 ∧ s.buffer h = none) ∨
      ((s.head h).state = .joining ∧ (s.head h).join = 3 ∧ (s.buffer h).isSome ∧ (s.head h).returning = true) := fun h => by
    rw [head_mem_closeClasses, lostAtClose_iff hmiss, joinsAtClose_iff hjoin]
    simp only [and_assoc]
  have on : ∀ h, .head ∈ s.closeClasses h → h ∈ closingHeads s := fun h hmem => by
    rw [mem_closingHeads]
    rcases (named h).mp hmem with ⟨hstate, -⟩ | ⟨hstate, -⟩
    · simp [hstate]
    · simp [hstate]
  rw [(tickClosed_raised hjoin hmiss).1, Bool.or_eq_true, decide_eq_true_eq, mem_tickClasses, or_comm]
  refine or_congr_right ⟨?_, ?_⟩
  · rintro (⟨h, -, hmem⟩ | ⟨-, hne⟩)
    · exact ⟨h, (named h).mp hmem⟩
    · cases hne
  · rintro ⟨h, hh⟩
    exact .inl ⟨h, on h ((named h).mpr hh), (named h).mpr hh⟩

theorem tickClosed_other_pending {c : NoticeClass} (hhead : c ≠ .head) (htrace : c ≠ .trace) (hanswer : c ≠ .answer) :
    s.tickClosed.isPending c = s.isPending c := by
  have never : ¬ ∃ h ∈ closingHeads s, c ∈ s.closeClasses h := by
    rintro ⟨h, -, hmem⟩
    rcases mem_closeClasses hmem with e | e
    · exact hanswer e
    · exact hhead e
  rw [(tickClosed_raised hjoin hmiss).1]
  simp only [mem_tickClasses, never, htrace, and_false, or_false, decide_false, Bool.false_or]

end Settled

end Sys2Proof.Machine
end

section
/-! PROOFS. The hand-over of PERIOD records (R62 to R64, R135 to R140): what one closing channel posts or loses, and what several
closing one after another leave, with other work between them. -/

namespace Sys2Proof.Machine

open Sys2Proof

/-! ## The words of a record -/

theorem zip_range_eq (l : List Nat) : List.zip (List.range l.length) l = (List.range l.length).map fun b => (b, l.getD b 0) := by
  refine List.ext_getElem (by simp) fun i hi _ => ?_
  have : i < l.length := by simpa using hi
  simp [this]

/-- The non-empty bins, by their numbers. -/
theorem filledBins_eq (hist : Vector Nat 160) : filledBins hist =
    ((List.range 160).filter fun b => hist.toList.getD b 0 ≠ 0).map fun b => (b, hist.toList.getD b 0) := by
  have zipped := zip_range_eq hist.toList
  rw [Vector.length_toList] at zipped
  rw [filledBins, zipped, List.filter_map]
  rfl

/-- The bins that a record lists, by their numbers, under the head's histogram option (R63, R137). -/
def listedBins (option : Word) (hist : Vector Nat 160) : List Nat :=
  if option = 0 then [] else (List.range 160).filter fun b => hist.toList.getD b 0 ≠ 0

theorem recordBins_eq (option : Word) (hist : Vector Nat 160) : (if option ≠ 0 then filledBins hist else []) =
    (listedBins option hist).map fun b => (b, hist.toList.getD b 0) := by
  by_cases ho : option = 0
  · rw [listedBins, if_pos ho, if_neg (not_not.mpr ho), List.map_nil]
  · rw [listedBins, if_neg ho, if_pos ho, filledBins_eq]

theorem histogramWords_map (l : List Nat) (count : Nat → Nat) : histogramWords (l.map fun b => (b, count b)) =
    l.flatMap fun b => words32 (count b % 16777216 + 16777216 * b) := by
  rw [histogramWords, List.flatMap_map]
  rfl

theorem length_listedBins (option : Word) (hist : Vector Nat 160) : (listedBins option hist).length ≤ 160 := by
  unfold listedBins
  split
  · simp
  · exact (List.length_filter_le _ _).trans (by simp)

/-- What a PERIOD record of head h is made of is as it was. -/
structure RecordKept (u t : State) (h : Fin 12) : Prop where
  acc : (t.channel h).acc = (u.channel h).acc
  isPartial : (t.channel h).isPartial = (u.channel h).isPartial
  sequence : (t.channel h).sequence = (u.channel h).sequence
  trim : (t.head h).trim = (u.head h).trim
  period : t.period = u.period
  live : t.live = u.live
  settings : ∀ a < 0x0800, t.store.read a = u.store.read a

theorem RecordKept.refl (u : State) (h : Fin 12) : RecordKept u u h := ⟨rfl, rfl, rfl, rfl, rfl, rfl, fun _ _ => rfl⟩

theorem RecordKept.trans {s t u : State} {h : Fin 12} (hst : RecordKept s t h) (htu : RecordKept t u h) : RecordKept s u h :=
  ⟨htu.acc.trans hst.acc, htu.isPartial.trans hst.isPartial, htu.sequence.trans hst.sequence, htu.trim.trans hst.trim,
    htu.period.trans hst.period, htu.live.trans hst.live, fun a ha => (htu.settings a ha).trans (hst.settings a ha)⟩

theorem peekWord_of_settings {u t : State} (hst : ∀ a < 0x0800, t.store.read a = u.store.read a) {a : Nat} (ha : a + 1 < 0x0800) :
    t.peekWord a = u.peekWord a := by
  simp only [State.peekWord, Mem.readWord]
  rw [hst a (by omega), hst (a + 1) ha]

/-- The record that a closing channel hands over (R62 to R64). -/
theorem periodBody_eq {u t : State} {h : Fin 12} (hk : RecordKept u t h) (cut : Bool) (actual : Nat) :
    t.periodBody h cut actual ((t.channel h).sequence + 1) u.records.lost[h] = periodRecordWords u h cut actual := by
  have hval := h.isLt
  have addr : ∀ w, headSettingAddr h w = 0x0100 + 16 * h.val + 2 * w := fun w => rfl
  have setting : ∀ w < 8, t.peekWord (headSettingAddr h w) = u.peekWord (headSettingAddr h w) := fun w hw =>
    peekWord_of_settings hk.settings (by rw [addr]; omega)
  have flags : ∀ a b c d e f, periodFlagWord a b c d e f = sixFlags a b c d e f := fun _ _ _ _ _ _ => flagBits_eq_sixFlags ..
  unfold State.periodBody periodRecordWords State.recordBins State.closesLow
  dsimp only
  rw [setting 1 (by omega), setting 2 (by omega), setting 3 (by omega), hk.acc, hk.isPartial, hk.sequence, hk.trim, hk.period,
    hk.live, flags, recordBins_eq, histogramWords_map, List.length_map]
  rfl

theorem length_words32 (n : Nat) : (words32 n).length = 2 := rfl

theorem length_wordsD (d : DWord) : (wordsD d).length = 2 := rfl

theorem length_flatMap_words32 (l : List Nat) (f : Nat → Nat) : (l.flatMap fun b => words32 (f b)).length = 2 * l.length := by
  simp [length_words32, Nat.mul_comm]

/-- A PERIOD record fits its slot (R135, R137). -/
theorem length_periodRecordWords (u : State) (h : Fin 12) (cut : Bool) (actual : Nat) :
    (periodRecordWords u h cut actual).length + 5 ≤ 512 := by
  have bins := length_listedBins (u.peekWord (0x0100 + 16 * h.val + 2)) (u.channel h).acc.histogram
  have words := length_flatMap_words32 (listedBins (u.peekWord (0x0100 + 16 * h.val + 2)) (u.channel h).acc.histogram)
    fun b => (u.channel h).acc.histogram.toList.getD b 0 % 16777216 + 16777216 * b
  unfold listedBins at bins words
  unfold periodRecordWords
  simp only [List.length_append, List.length_cons, List.length_nil, length_words32, length_wordsD, words]
  omega

/-! ## The slots that a shelf fills one after another -/

/-- In a list without repetitions the first item past the first k is item k. -/
theorem find?_not_mem_take {α : Type} [DecidableEq α] {l : List α} (hl : l.Nodup) (k : Nat) :
    l.find? (fun a => decide (a ∉ l.take k)) = l[k]? := by
  have early : (l.take k).find? (fun a => decide (a ∉ l.take k)) = none := by simp
  have late : (l.drop k).find? (fun a => decide (a ∉ l.take k)) = (l.drop k).head? := by
    rw [← List.take_append_drop k l] at hl
    obtain ⟨-, -, disjoint⟩ := List.nodup_append.mp hl
    cases hd : l.drop k with
    | nil => rfl
    | cons b m =>
      have hb : b ∉ l.take k := fun hin => disjoint b hin b (by simp [hd]) rfl
      simp [hb]
  calc l.find? (fun a => decide (a ∉ l.take k))
      = (l.take k ++ l.drop k).find? (fun a => decide (a ∉ l.take k)) := by rw [List.take_append_drop]
    _ = l[k]? := by rw [List.find?_append, early, late, List.head?_drop]; rfl

theorem nodup_freeRecordSlots (s : State) : (freeRecordSlots s).Nodup := (List.nodup_finRange 48).filter _

/-- After the first k FREE slots have been filled the next one is the lowest FREE slot (R138). -/
theorem lowestFree_append_take (s : State) (k : Nat) :
    lowestFree (s.records.list ++ (freeRecordSlots s).take k) = (freeRecordSlots s)[k]? := by
  rw [← find?_not_mem_take (nodup_freeRecordSlots s) k, lowestFree, freeRecordSlots, List.find?_filter]
  congr 1
  funext m
  simp

/-! ## A record in its slot -/

theorem length_recordImage (kind : RecordKind) (number : DWord) (body : List Word) :
    (recordImage kind number body).length = body.length + 5 := by
  simp only [recordImage, List.length_append, List.length_cons, List.length_nil, length_wordsD]
  omega

theorem recordAddr_add (m : Fin 48) (w : Nat) : recordAddr m w = recordAddr m 0 + 2 * w := by simp [recordAddr]

theorem recordAddr_bounds (m : Fin 48) : 0x3000 ≤ recordAddr m 0 ∧ recordAddr m 0 + 1024 ≤ 0xF000 := by
  have := m.isLt
  simp only [recordAddr, Config.recordBase]
  omega

/-- A record written into its slot stands there (R135). -/
theorem holdsRecord_of_image {t : State} {m : Fin 48} {kind : RecordKind} {number : DWord} {body : List Word} {store : Mem}
    (ht : t.store = store.writeWords (recordAddr m 0) (recordImage kind number body)) (hfits : body.length + 5 ≤ 512) :
    HoldsRecord t m kind number body := by
  have bounds := recordAddr_bounds m
  have length := length_recordImage kind number body
  have words : ∀ i, (hi : i < body.length + 5) →
      t.peekWord (recordAddr m i) = (recordImage kind number body)[i]'(by omega) := fun i hi => by
    rw [State.peekWord, ht, recordAddr_add]
    exact readWord_writeWords _ _ _ _ _ (by simp only [Config.storeBytes]; omega)
  refine ⟨words 0 (by omega), words 1 (by omega), words 2 (by omega), words 3 (by omega), fun i hi => ?_, ?_⟩
  · rw [words (4 + i) (by omega)]
    simp [recordImage, wordsD, Nat.add_comm 4 i, hi]
  · rw [words (4 + body.length) (by omega)]
    simp [recordImage, wordsD, Nat.add_comm 4 body.length]

/-- A record whose slot is not written stays there. -/
theorem HoldsRecord.kept {s t : State} {m : Fin 48} {kind : RecordKind} {number : DWord} {body : List Word}
    (hs : HoldsRecord s m kind number body) (hfits : body.length + 5 ≤ 512)
    (hst : ∀ a, recordAddr m 0 ≤ a → a < recordAddr m 0 + 1024 → t.store.read a = s.store.read a) :
    HoldsRecord t m kind number body := by
  have words : ∀ w < 512, t.peekWord (recordAddr m w) = s.peekWord (recordAddr m w) := fun w hw => by
    simp only [State.peekWord, Mem.readWord]
    rw [recordAddr_add, hst _ (by omega) (by omega), hst _ (by omega) (by omega)]
  obtain ⟨hkind, hlength, hlow, hhigh, hbody, hclosing⟩ := hs
  refine ⟨(words 0 (by omega)).trans hkind, (words 1 (by omega)).trans hlength, (words 2 (by omega)).trans hlow,
    (words 3 (by omega)).trans hhigh, fun i hi => (words (4 + i) (by omega)).trans (hbody i hi),
    (words _ (by omega)).trans hclosing⟩

/-! ## One record handed over -/

section Hand

variable (t : State) (h : Fin 12) (body : Nat → List Word)

theorem handPeriodRecord_of_full (hfull : lowestFree t.records.list = none) : t.handPeriodRecord h body =
    { t with records := { t.records with lost := t.records.lost.set h.val (saturate t.records.lost[h]) h.isLt } } := by
  simp [State.handPeriodRecord, hfull]

variable {t} {m : Fin 48} (hm : lowestFree t.records.list = some m)
include hm

theorem handPeriodRecord_records : (t.handPeriodRecord h body).records =
    { t.records with lost := t.records.lost.set h.val 0 h.isLt, number := t.records.number + 1,
                     list := t.records.list ++ [m] } := by
  simp [State.handPeriodRecord, hm, State.postRecord]

theorem handPeriodRecord_store : (t.handPeriodRecord h body).store = t.store.writeWords (recordAddr m 0)
    (recordImage .period (t.records.number + 1) (body t.records.lost[h])) := by
  simp [State.handPeriodRecord, hm, State.postRecord, State.pokeWords]

theorem handPeriodRecord_raises : OnlyRaised t (t.handPeriodRecord h body) [.record] := by
  have raised : (t.handPeriodRecord h body).notices = (t.raise .record).notices := by
    simp [State.handPeriodRecord, hm, State.postRecord, State.raise]
  exact (raise_raises t .record).then_eq raised

end Hand

section Close

variable (t : State) (h : Fin 12) (cut : Bool) (actual : Nat)

/-- The record that closing head h's channel hands over, for its lost-before count (R62). -/
def State.closingBody : Nat → List Word := t.periodBody h cut actual ((t.channel h).sequence + 1)

theorem closeChannel_records :
    (t.closeChannel h cut actual).records = (t.handPeriodRecord h (t.closingBody h cut actual)).records := rfl

theorem closeChannel_store :
    (t.closeChannel h cut actual).store = (t.handPeriodRecord h (t.closingBody h cut actual)).store := rfl

theorem closeChannel_notices :
    (t.closeChannel h cut actual).notices = (t.handPeriodRecord h (t.closingBody h cut actual)).notices := rfl

end Close

theorem lost_set (lost : Vector Nat 12) (h g : Fin 12) (x : Nat) :
    (lost.set h.val x h.isLt)[g] = if g = h then x else lost[g] := by
  simp only [Fin.getElem_fin, Vector.getElem_set, Fin.ext_iff, eq_comm]

/-! ## Records handed over one after another -/

/-- From state u on the records of `heads` have been handed over by state t, and of the other bytes only those of `aside` were
written. -/
structure Handing (u t : State) (heads : List (Fin 12)) (cut : Bool) (actual : Nat) (aside : List (Nat × Nat)) : Prop where
  records : PeriodRecordsHanded u t heads cut actual
  bytes : BytesKept u t (handedBytes u heads cut actual ++ aside)

section Handed

variable {u t : State} {heads : List (Fin 12)} {cut : Bool} {actual : Nat} {aside : List (Nat × Nat)}

theorem Handing.refl (u : State) (cut : Bool) (actual : Nat) : Handing u u [] cut actual [] where
  records := ⟨fun i h hi => by simp at hi, fun _ _ => rfl, by simp, by simp, by simp⟩
  bytes := .refl _ _

/-- Work that keeps the record shelf and writes below it. -/
theorem Handing.beside {v : State} {l : List (Nat × Nat)} (hut : Handing u t heads cut actual aside)
    (hrecords : v.records = t.records) (hpending : v.isPending .record = t.isPending .record) (hbytes : BytesKept t v l)
    (hbelow : ∀ r ∈ l, r.2 ≤ 0x3000) : Handing u v heads cut actual (aside ++ l) where
  records := by
    obtain ⟨posted, others, list, number, pending⟩ := hut.records
    refine ⟨fun i h hi => ?_, fun h hh => by rw [hrecords]; exact others h hh, by rw [hrecords, list], by rw [hrecords, number],
      hpending.trans pending⟩
    obtain ⟨filled, full⟩ := posted i h hi
    rw [hrecords]
    refine ⟨fun m hm => ⟨(filled m hm).1, (filled m hm).2.kept (length_periodRecordWords ..) fun a hlow _ => ?_⟩, full⟩
    have := (recordAddr_bounds m).1
    exact hbytes a fun r hr hin => by have := hbelow r hr; omega
  bytes := by
    rw [← List.append_assoc]
    exact (hut.bytes.mono fun r hr => List.mem_append_left _ hr).trans (hbytes.mono fun r hr => List.mem_append_right _ hr)

theorem mem_handedBytes {r : Nat × Nat} : r ∈ handedBytes u heads cut actual ↔
    ∃ (i : Nat) (m : Fin 48) (h : Fin 12), (freeRecordSlots u)[i]? = some m ∧ heads[i]? = some h ∧ r = recordBytes m ((periodRecordWords u h cut actual).length + 5) := by
  simp only [handedBytes, List.mem_iff_getElem?, List.getElem?_zipWith_eq_some]
  constructor
  · rintro ⟨i, m, h, hm, hh, rfl⟩
    exact ⟨i, m, h, hm, hh, rfl⟩
  · rintro ⟨i, m, h, hm, hh, rfl⟩
    exact ⟨i, m, h, hm, hh, rfl⟩

theorem handedBytes_append (l : List (Fin 12)) : ∀ r ∈ handedBytes u heads cut actual, r ∈ handedBytes u (heads ++ l) cut actual := by
  intro r hr
  obtain ⟨i, m, h, hm, hh, rfl⟩ := mem_handedBytes.mp hr
  obtain ⟨hi, -⟩ := List.getElem?_eq_some_iff.mp hh
  exact mem_handedBytes.mpr ⟨i, m, h, hm, by rw [List.getElem?_append_left hi, hh], rfl⟩

/-- An item of a list with one more item at its end. -/
theorem getElem?_append_singleton {α : Type} {l : List α} {a b : α} {i : Nat} (h : (l ++ [a])[i]? = some b) :
    l[i]? = some b ∨ i = l.length ∧ b = a := by
  rcases Nat.lt_trichotomy i l.length with hlt | rfl | hgt
  · exact .inl (by rwa [List.getElem?_append_left hlt] at h)
  · exact .inr ⟨rfl, by simpa using h.symm⟩
  · rw [List.getElem?_eq_none (by simp; omega)] at h
    cases h

variable (hut : Handing u t heads cut actual aside) {h : Fin 12} (hnot : h ∉ heads) (hkept : RecordKept u t h)
include hut hnot hkept

/-- The shelf is full: the record of the closing channel is lost (R138, R140). -/
theorem Handing.close_full (hfull : (freeRecordSlots u)[heads.length]? = none) :
    Handing u (t.closeChannel h cut actual) (heads ++ [h]) cut actual aside := by
  obtain ⟨posted, others, list, number, pending⟩ := hut.records
  have full : lowestFree t.records.list = none := by rw [list, lowestFree_append_take, hfull]
  have short : (freeRecordSlots u).length ≤ heads.length := List.getElem?_eq_none_iff.mp hfull
  have closed : (t.closeChannel h cut actual).records =
      { t.records with lost := t.records.lost.set h.val (saturate t.records.lost[h]) h.isLt } := by
    rw [closeChannel_records, handPeriodRecord_of_full _ _ _ full]
  have store : (t.closeChannel h cut actual).store = t.store := by
    rw [closeChannel_store, handPeriodRecord_of_full _ _ _ full]
  have notices : (t.closeChannel h cut actual).notices = t.notices := by
    rw [closeChannel_notices, handPeriodRecord_of_full _ _ _ full]
  have lost : ∀ g : Fin 12, (t.closeChannel h cut actual).records.lost[g] =
      if g = h then saturate t.records.lost[h] else t.records.lost[g] := fun g => by
    rw [closed]
    exact lost_set _ _ _ _
  refine ⟨⟨fun i g hg => ?_, fun g hg => ?_, ?_, ?_, ?_⟩, ?_⟩
  · rcases getElem?_append_singleton hg with hi | ⟨rfl, rfl⟩
    · have hne : g ≠ h := fun e => hnot (e ▸ List.mem_of_getElem? hi)
      obtain ⟨filled, missing⟩ := posted i g hi
      rw [lost, if_neg hne]
      exact ⟨fun m hm => ⟨(filled m hm).1, (filled m hm).2.kept (length_periodRecordWords ..) fun a _ _ => by rw [store]⟩, missing⟩
    · refine ⟨fun m hm => by simp [hfull] at hm, fun _ => ?_⟩
      rw [lost, if_pos rfl, others g hnot]
      rfl
  · have hne : g ≠ h := fun e => hg (by simp [e])
    rw [lost, if_neg hne]
    exact others g fun hin => hg (List.mem_append_left _ hin)
  · rw [closed, List.length_append, List.take_of_length_le (by simp; omega)]
    simpa [List.take_of_length_le short] using list
  · rw [closed, List.length_append, Nat.min_eq_right (by simp; omega)]
    simpa [Nat.min_eq_right short] using number
  · have same : (t.closeChannel h cut actual).isPending .record = t.isPending .record := by simp only [State.isPending, notices]
    have some : heads = [] → freeRecordSlots u = [] := fun e => by simpa [e] using short
    rw [same, pending]
    congr 1
    simp only [ne_eq, List.append_eq_nil_iff, List.cons_ne_nil, and_false, not_false_eq_true, true_and, decide_eq_decide]
    exact ⟨fun hh => hh.2, fun hh => ⟨fun e => hh (some e), hh⟩⟩
  · refine (hut.bytes.trans (.of_store store _)).mono fun r hr => ?_
    rw [List.mem_append] at hr ⊢
    exact hr.imp_left (handedBytes_append _ r)

/-- The lowest FREE slot takes the record of the closing channel (R138). -/
theorem Handing.close_posted {m : Fin 48} (hm : (freeRecordSlots u)[heads.length]? = some m) :
    Handing u (t.closeChannel h cut actual) (heads ++ [h]) cut actual aside := by
  obtain ⟨posted, others, list, number, pending⟩ := hut.records
  have free : lowestFree t.records.list = some m := by rw [list, lowestFree_append_take, hm]
  obtain ⟨long, hat⟩ := List.getElem?_eq_some_iff.mp hm
  have fits := length_periodRecordWords u h cut actual
  have body : t.closingBody h cut actual t.records.lost[h] = periodRecordWords u h cut actual := by
    rw [others h hnot]
    exact periodBody_eq hkept cut actual
  have nextNumber : t.records.number + 1 = u.records.number + BitVec.ofNat 32 (heads.length + 1) := by
    rw [number, Nat.min_eq_left (by omega), BitVec.ofNat_add, BitVec.add_assoc]
    rfl
  have closed := handPeriodRecord_records h (t.closingBody h cut actual) free
  have store := handPeriodRecord_store h (t.closingBody h cut actual) free
  have raises := handPeriodRecord_raises h (t.closingBody h cut actual) free
  rw [← closeChannel_records] at closed
  rw [body, ← closeChannel_store, nextNumber] at store
  replace raises : OnlyRaised t (t.closeChannel h cut actual) [.record] := raises.then_eq rfl
  have lost : ∀ g : Fin 12, (t.closeChannel h cut actual).records.lost[g] = if g = h then 0 else t.records.lost[g] := fun g => by
    rw [closed]
    exact lost_set _ _ _ _
  have written : BytesKept t (t.closeChannel h cut actual)
      [recordBytes m ((periodRecordWords u h cut actual).length + 5)] := by
    have bytes := bytesKept_of_writeWords store
    rwa [length_recordImage] at bytes
  refine ⟨⟨fun i g hg => ?_, fun g hg => ?_, ?_, ?_, ?_⟩, ?_⟩
  · rcases getElem?_append_singleton hg with hi | ⟨rfl, rfl⟩
    · have hne : g ≠ h := fun e => hnot (e ▸ List.mem_of_getElem? hi)
      obtain ⟨filled, missing⟩ := posted i g hi
      rw [lost, if_neg hne]
      refine ⟨fun k hk => ⟨(filled k hk).1, (filled k hk).2.kept (length_periodRecordWords ..) fun a hlow hhigh => ?_⟩, missing⟩
      obtain ⟨hlt, hat'⟩ := List.getElem?_eq_some_iff.mp hk
      have hshort : i < heads.length := (List.getElem?_eq_some_iff.mp hi).1
      have differ : k.val ≠ m.val := fun e => by
        have := (nodup_freeRecordSlots u).getElem_inj_iff.mp ((hat'.trans (Fin.ext e)).trans hat.symm)
        omega
      refine written a fun r hr hin => ?_
      rw [List.mem_singleton] at hr
      subst hr
      simp only [recordBytes, recordAddr] at hin hlow hhigh
      omega
    · rw [lost, if_pos rfl]
      refine ⟨fun k hk => ?_, fun hnone => by simp [hm] at hnone⟩
      obtain rfl : m = k := by simpa [hm] using hk
      exact ⟨rfl, holdsRecord_of_image store fits⟩
  · have hne : g ≠ h := fun e => hg (by simp [e])
    rw [lost, if_neg hne]
    exact others g fun hin => hg (List.mem_append_left _ hin)
  · rw [closed, List.length_append, List.length_singleton, List.take_add_one, hm]
    simp [list]
  · rw [closed, List.length_append, Nat.min_eq_left (by simp; omega)]
    exact nextNumber
  · have some : freeRecordSlots u ≠ [] := List.ne_nil_of_length_pos (by omega)
    rw [raises.1]
    simp [some]
  · refine BytesKept.trans (hut.bytes.mono fun r hr => ?_) (written.mono fun r hr => ?_)
    · rw [List.mem_append] at hr ⊢
      exact hr.imp_left (handedBytes_append _ r)
    · rw [List.mem_singleton] at hr
      exact List.mem_append_left _ (mem_handedBytes.mpr ⟨heads.length, m, h, hm, by simp, hr⟩)

/-- A channel that closes hands its record over. -/
theorem Handing.close : Handing u (t.closeChannel h cut actual) (heads ++ [h]) cut actual aside := by
  cases hm : (freeRecordSlots u)[heads.length]? with
  | none => exact hut.close_full hnot hkept hm
  | some m => exact hut.close_posted hnot hkept hm

end Handed

end Sys2Proof.Machine
end

section
/-! PROOFS. The completion of a calibration whose measurement is complete (R68, R72), and what other work leaves of the engine, the
store and the notices beside the records that it hands over. -/

namespace Sys2Proof.Machine

open Sys2Proof

/-! ## Setting a trim -/

/-- A channel with its calibration-seen mark set where a trim changes in an open period (R68). -/
def Channel.trimmed (ch : Channel) (seen : Bool) : Channel :=
  if seen then { ch with acc := { ch.acc with calSeen := true } } else ch

theorem setTrim_head (s : State) (h : Fin 12) (x : Int) : (s.setTrim h x).head h = { s.head h with trim := x } := by
  unfold State.setTrim
  dsimp only
  split <;> simp

theorem setTrim_channel (s : State) (h : Fin 12) (x : Int) :
    (s.setTrim h x).channel h = (s.channel h).trimmed ((s.channel h).isOpen && s.period.isOpen) := by
  unfold State.setTrim Channel.trimmed
  dsimp only
  split
  · next hopen =>
    have both : ((s.channel h).isOpen && s.period.isOpen) = true := hopen
    rw [both]
    simp
  · next hclosed =>
    have both : ((s.channel h).isOpen && s.period.isOpen) = false := by simpa using hclosed
    rw [both]
    simp

theorem setTrim_keeps_other (s : State) {g h : Fin 12} (hne : g ≠ h) (x : Int) : OwnKept s (s.setTrim g x) h := by
  have trimmed := setHead_keeps_other s hne { s.head g with trim := x }
  unfold State.setTrim
  dsimp only
  split
  · exact trimmed.trans (setChannel_keeps_other _ hne _)
  · exact trimmed

theorem setTrim_keeps_slot (s : State) (h : Fin 12) (x : Int) (n : Fin 8) : SlotKept s (s.setTrim h x) n := .of_eq

/-! ## Completing a calibration -/

theorem calibrationDue_of_some {s : State} {h : Fin 12} {c : Calibration} (hc : s.calibration h = some c) :
    s.calibrationDue h = decide (128 ≤ c.count) := by
  simp [State.calibrationDue, hc]

theorem calibrationDue_iff {s : State} {h : Fin 12} :
    s.calibrationDue h = true ↔ ∃ c, s.calibration h = some c ∧ 128 ≤ c.count := by
  cases hc : s.calibration h with
  | none => simp [State.calibrationDue, hc]
  | some c => simp [State.calibrationDue, hc]

theorem completeCalibration_of_waiting {s : State} {h : Fin 12} (hdue : s.calibrationDue h = false) :
    s.completeCalibration h = s := by
  cases hc : s.calibration h with
  | none => simp [State.completeCalibration, hc]
  | some c =>
    rw [calibrationDue_of_some hc] at hdue
    simp only [decide_eq_false_iff_not] at hdue
    simp [State.completeCalibration, hc, hdue]

theorem calibratedTrim_of_waiting {s : State} {h : Fin 12} (hdue : s.calibrationDue h = false) : calibratedTrim s h = none := by
  cases hc : s.calibration h with
  | none => simp [calibratedTrim, hc]
  | some c =>
    rw [calibrationDue_of_some hc] at hdue
    simp only [decide_eq_false_iff_not] at hdue
    simp [calibratedTrim, hc, hdue]

section Due

variable {s : State} {h : Fin 12} {c : Calibration} (hc : s.calibration h = some c) (hcount : 128 ≤ c.count)
include hc hcount

/-- A completion sets the trim when the difference is in range, and answers in either case (R72). -/
theorem completeCalibration_of_due : ∃ u, (u = s ∧ calibratedTrim s h = none ∨
      ∃ x, calibratedTrim s h = some x ∧ u = s.setTrim h x) ∧
    s.completeCalibration h = (u.answer c.slot (if (calibratedTrim s h).isSome then .done else .outOfRange) 0
      [word (rawLevel (c.sum.toNat / 128)), intWord (s.head h).trim, intWord ((calibratedTrim s h).getD (s.head h).trim),
        word c.count]).endCalibration h := by
  by_cases hrange : -500 ≤ (c.expected : Int) - rawLevel (c.sum.toNat / 128) ∧
      (c.expected : Int) - rawLevel (c.sum.toNat / 128) ≤ 500
  · have trim : calibratedTrim s h = some ((c.expected : Int) - rawLevel (c.sum.toNat / 128)) := by
      simp [calibratedTrim, hc, hcount, hrange]
    refine ⟨_, .inr ⟨_, trim, rfl⟩, ?_⟩
    rw [trim]
    simp [State.completeCalibration, hc, hcount, Calibration.measured, hrange]
  · have trim : calibratedTrim s h = none := by
      simp only [calibratedTrim, hc, hcount, true_and]
      exact if_neg hrange
    refine ⟨_, .inl ⟨rfl, trim⟩, ?_⟩
    rw [trim]
    simp only [State.completeCalibration, hc, hcount, Calibration.measured, if_true]
    exact if_neg hrange

end Due

section Completed

variable (s : State) (h : Fin 12)

theorem completeCalibration_own :
    (s.completeCalibration h).head h = { s.head h with trim := (calibratedTrim s h).getD (s.head h).trim } ∧
    (s.completeCalibration h).channel h =
      (s.channel h).trimmed ((calibratedTrim s h).isSome && (s.channel h).isOpen && s.period.isOpen) ∧
    (s.completeCalibration h).calibration h = if s.calibrationDue h then none else s.calibration h := by
  cases hdue : s.calibrationDue h with
  | false =>
    rw [completeCalibration_of_waiting hdue, calibratedTrim_of_waiting hdue]
    simp [Channel.trimmed]
  | true =>
    obtain ⟨c, hc, hcount⟩ := calibrationDue_iff.mp hdue
    obtain ⟨u, hu, he⟩ := completeCalibration_of_due hc hcount
    rw [he]
    rcases hu with ⟨rfl, htrim⟩ | ⟨x, htrim, rfl⟩
    · simp [htrim, Channel.trimmed]
    · simp [htrim, setTrim_head, setTrim_channel]

/-- The slots that completing head h's calibration answers, and the classes it raises. -/
def State.dueSlots : List (Fin 8) := if s.calibrationDue h then s.calibrationSlot h else []

def State.dueClasses : List NoticeClass := if s.calibrationDue h then s.calibrationClass h else []

theorem completeCalibration_effects : Effects s (s.completeCalibration h) (s.dueSlots h) (s.dueClasses h) := by
  cases hdue : s.calibrationDue h with
  | false =>
    rw [completeCalibration_of_waiting hdue, State.dueSlots, State.dueClasses, hdue]
    exact .none rfl rfl rfl
  | true =>
    obtain ⟨c, hc, hcount⟩ := calibrationDue_iff.mp hdue
    obtain ⟨u, hu, he⟩ := completeCalibration_of_due hc hcount
    have before : Effects s u [] [] := by
      rcases hu with ⟨rfl, -⟩ | ⟨x, -, rfl⟩
      · exact .none rfl rfl rfl
      · exact .none (by simp) (by simp) (by simp)
    have slots : s.dueSlots h = [c.slot] := by simp [State.dueSlots, hdue, State.calibrationSlot, hc]
    have classes : s.dueClasses h = [.answer] := by simp [State.dueClasses, hdue, State.calibrationClass, hc]
    rw [he, slots, classes]
    exact Effects.after ⟨answer_endCalibration_answers .., answer_endCalibration_raises ..⟩ before

theorem completeCalibration_keeps_other {g : Fin 12} (hne : g ≠ h) : OwnKept s (s.completeCalibration g) h := by
  cases hdue : s.calibrationDue g with
  | false =>
    rw [completeCalibration_of_waiting hdue]
    exact .refl s h
  | true =>
    obtain ⟨c, hc, hcount⟩ := calibrationDue_iff.mp hdue
    obtain ⟨u, hu, he⟩ := completeCalibration_of_due hc hcount
    have before : OwnKept s u h := by
      rcases hu with ⟨rfl, -⟩ | ⟨x, -, rfl⟩
      · exact .refl _ h
      · exact setTrim_keeps_other s hne x
    rw [he]
    exact before.trans ((answer_keeps_own ..).trans (setCalibration_keeps_other _ hne _))

theorem completeCalibration_from (g : Fin 12) : CalibrationFrom s (s.completeCalibration g) h := by
  by_cases hne : g = h
  · subst hne
    obtain ⟨-, -, calibration⟩ := completeCalibration_own s g
    cases hdue : s.calibrationDue g with
    | false => exact .of_eq (by rw [completeCalibration_of_waiting hdue])
    | true => exact .of_none (by rw [calibration, hdue]; rfl)
  · exact .of_eq (completeCalibration_keeps_other s h hne).calibration

/-- The answer of a completed calibration stands in its slot (R72). -/
theorem completeCalibration_holds {c : Calibration} (hc : s.calibration h = some c) (hcount : 128 ≤ c.count) :
    HoldsAnswer (s.completeCalibration h) c.slot (s.slot c.slot).postMark
      (if (calibratedTrim s h).isSome then .done else .outOfRange) 0
      [word (rawLevel (c.sum.toNat / 128)), intWord (s.head h).trim, intWord ((calibratedTrim s h).getD (s.head h).trim),
        word c.count] := by
  obtain ⟨u, hu, he⟩ := completeCalibration_of_due hc hcount
  have slot : u.slot c.slot = s.slot c.slot := by
    rcases hu with ⟨rfl, -⟩ | ⟨x, -, rfl⟩
    · rfl
    · exact (setTrim_keeps_slot s h x c.slot).slot
  rw [he, ← slot]
  exact (answer_holds ..).kept (endCalibration_keeps_slot ..)

theorem completeCalibration_keeps_slot {n : Fin 8} (hfree : SlotFree s n h) : SlotKept s (s.completeCalibration h) n := by
  refine (completeCalibration_effects s h).answered.kept fun hin => ?_
  obtain ⟨c, hc, hn⟩ : ∃ c, s.calibration h = some c ∧ n = c.slot := by
    unfold State.dueSlots State.calibrationSlot at hin
    split at hin
    · cases hc : s.calibration h with
      | none => simp [hc] at hin
      | some c => exact ⟨c, rfl, by simpa [hc] using hin⟩
    · simp at hin
  exact hfree c hc hn.symm

end Completed

/-! ## Records handed over in a fold over heads -/

/-- A fold over different heads, each of which closes its channel or not and writes its own bytes beside, hands the records of those
that close over in order. K is what a head's step needs and the other heads' steps keep. -/
theorem foldl_handing {f : State → Fin 12 → State} {K : State → Fin 12 → Prop} {cuts : Fin 12 → Bool}
    {extra : Fin 12 → List (Nat × Nat)} {u : State} {cut : Bool} {actual : Nat}
    (other : ∀ t g h, g ≠ h → K t h → K (f t g) h)
    (step : ∀ t h heads aside, K t h → h ∉ heads → Handing u t heads cut actual aside →
      Handing u (f t h) (heads ++ if cuts h then [h] else []) cut actual (aside ++ extra h))
    {l : List (Fin 12)} (hl : l.Nodup) {t : State} {heads : List (Fin 12)} {aside : List (Nat × Nat)} (hK : ∀ h ∈ l, K t h)
    (hout : ∀ h ∈ l, h ∉ heads) (hut : Handing u t heads cut actual aside) :
    Handing u (l.foldl f t) (heads ++ l.filter cuts) cut actual (aside ++ l.flatMap extra) := by
  induction l generalizing t heads aside with
  | nil => simpa using hut
  | cons h l ih =>
    obtain ⟨hnot, hl⟩ := List.nodup_cons.mp hl
    have first := step t h heads aside (hK h List.mem_cons_self) (hout h List.mem_cons_self) hut
    have rest := ih hl (fun g hg => other t h g (fun e => hnot (e ▸ hg)) (hK g (List.mem_cons_of_mem h hg))) (fun g hg hin => by
      rcases List.mem_append.mp hin with hin | hin
      · exact hout g (List.mem_cons_of_mem h hg) hin
      · split at hin
        · obtain rfl := List.mem_singleton.mp hin
          exact hnot hg
        · simp at hin) first
    rw [List.foldl_cons, List.flatMap_cons, List.filter_cons, ← List.append_assoc]
    split
    · next hcut => simpa [hcut] using rest
    · next hcut => simpa [hcut] using rest

/-! ## The channels of all heads closed -/

section CloseChannels

variable {u t : State} (hkept : ∀ h, RecordKept u t h ∧ (t.channel h).isOpen = (u.channel h).isOpen) (cut : Bool) (actual : Nat)

theorem closeChannel_keeps_other (s : State) {g h : Fin 12} (hne : g ≠ h) : OwnKept s (s.closeChannel g cut actual) h := by
  have handed : OwnKept s (s.handPeriodRecord g (s.closingBody g cut actual)) h := .of_eq
  exact handed.trans (setChannel_keeps_other _ hne _)

theorem closeChannel_channel (s : State) (h : Fin 12) :
    (s.closeChannel h cut actual).channel h = { (s.channel h).closed with sequence := (s.channel h).sequence + 1 } :=
  channel_setChannel_same ..

include hkept in
/-- The end of a period hands the records of the open channels over, in ascending head number (R53, R139). -/
theorem closeChannels_handing {aside : List (Nat × Nat)} (hut : Handing u t [] cut actual aside) :
    Handing u (t.closeChannels cut actual) (openHeads u) cut actual aside := by
  have handed := foldl_handing (u := u) (cut := cut) (actual := actual) (cuts := fun h => (u.channel h).isOpen)
    (f := fun t h => if (t.channel h).isOpen then t.closeChannel h cut actual else t) (extra := fun _ => [])
    (K := fun t h => RecordKept u t h ∧ (t.channel h).isOpen = (u.channel h).isOpen)
    (fun t g h hne hk => by
      obtain ⟨record, isOpen⟩ := hk
      split
      · have other := closeChannel_keeps_other cut actual t hne
        refine ⟨record.trans ⟨?_, ?_, ?_, ?_, ?_, ?_, fun a ha => ?_⟩, ?_⟩
        · rw [other.channel]
        · rw [other.channel]
        · rw [other.channel]
        · rw [other.head]
        · exact other.period
        · simp
        · exact (closeChannel_writes t g cut actual).keeps_below a ha
        · rw [other.channel, isOpen]
      · exact ⟨record, isOpen⟩)
    (fun t h heads aside hk hnot hut => by
      obtain ⟨record, isOpen⟩ := hk
      rw [isOpen]
      split
      · simpa using hut.close hnot record
      · simpa using hut) (l := allHeads) (by decide) (fun h _ => hkept h) (by simp) hut
  have nothing : allHeads.flatMap (fun _ : Fin 12 => ([] : List (Nat × Nat))) = [] := rfl
  rwa [nothing, List.append_nil, List.nil_append] at handed

end CloseChannels

end Sys2Proof.Machine
end

section
/-! PROOFS. What a mark makes of one head (R29, R33, R53, R62, R67, R68, R73): the head that is enabled, the head that is disabled, and
what it leaves in the blocks that the heads share. -/

namespace Sys2Proof.Machine

open Sys2Proof

/-! ## Effects beside the record shelf -/

/-- Between s and t the slots of `slots` are answered and the classes of `classes` raised; of the engine and the notices nothing else
is touched, but for the class of the record shelf. -/
structure Besides (s t : State) (slots : List (Fin 8)) (classes : List NoticeClass) : Prop where
  kept : ∀ n, n ∉ slots → SlotKept s t n
  queue : t.requests.queue = s.requests.queue
  inService : t.requests.inService = s.requests.inService
  raised : ∀ c, c ≠ .record → t.isPending c = (decide (c ∈ classes) || s.isPending c)
  mask : t.notices.mask = s.notices.mask

theorem Effects.besides {s t : State} {l : List (Fin 8)} {m : List NoticeClass} (h : Effects s t l m) : Besides s t l m :=
  ⟨fun _ => h.answered.kept, h.answered.queue, h.answered.inService, fun c _ => h.raised.1 c, h.raised.2⟩

theorem Besides.refl (s : State) : Besides s s [] [] := (Effects.none rfl rfl rfl).besides

theorem Besides.trans {s t u : State} {l l' : List (Fin 8)} {m m' : List NoticeClass} (hst : Besides s t l m)
    (htu : Besides t u l' m') : Besides s u (l ++ l') (m ++ m') where
  kept n hn := (hst.kept n fun h => hn (List.mem_append_left l' h)).trans (htu.kept n fun h => hn (List.mem_append_right l h))
  queue := htu.queue.trans hst.queue
  inService := htu.inService.trans hst.inService
  raised c hc := by
    rw [htu.raised c hc, hst.raised c hc, ← Bool.or_assoc]
    congr 1
    simp [Bool.or_comm]
  mask := htu.mask.trans hst.mask

theorem Besides.andThen {s t u : State} {l : List (Fin 8)} {m : List NoticeClass} (hst : Besides s t l m)
    (htu : Besides t u [] []) : Besides s u l m := by
  have both := hst.trans htu
  rwa [List.append_nil, List.append_nil] at both

/-- A record is written above every request slot. -/
theorem closeChannel_keeps_slot (s : State) (h : Fin 12) (cut : Bool) (actual : Nat) (n : Fin 8) :
    SlotKept s (s.closeChannel h cut actual) n where
  slot := by simp [State.slot]
  words w hw := by
    have hn := requestAddr_bounds n hw
    have hval := n.isLt
    rw [State.requestWord, State.requestWord, State.peekWord, State.peekWord, closeChannel_store]
    cases hm : lowestFree s.records.list with
    | none => rw [handPeriodRecord_of_full _ _ _ hm]
    | some m =>
      have bounds := recordAddr_bounds m
      rw [handPeriodRecord_store _ _ hm]
      exact readWord_writeWords_outside _ _ _ _ (.inl (by simp only [Config.requestBase] at hn; omega))

theorem closeChannel_besides (s : State) (h : Fin 12) (cut : Bool) (actual : Nat) :
    Besides s (s.closeChannel h cut actual) [] [] := by
  have requests : (s.closeChannel h cut actual).requests = s.requests := by simp
  refine ⟨fun n _ => closeChannel_keeps_slot s h cut actual n, by rw [requests], by rw [requests], fun c hc => ?_, ?_⟩
  · cases hm : lowestFree s.records.list with
    | none =>
      simp only [State.isPending]
      rw [closeChannel_notices, handPeriodRecord_of_full _ _ _ hm]
      rfl
    | some m =>
      have raised := handPeriodRecord_raises h (s.closingBody h cut actual) hm
      have pending := raised.1 c
      simp only [List.mem_singleton, hc, decide_false, Bool.false_or] at pending
      simpa [State.isPending, closeChannel_notices] using pending
  · cases hm : lowestFree s.records.list with
    | none => rw [closeChannel_notices, handPeriodRecord_of_full _ _ _ hm]
    | some m => exact (handPeriodRecord_raises h (s.closingBody h cut actual) hm).2

/-! ## A head that leaves ACTIVE at a mark -/

/-- The state past a disabled head's leaving ACTIVE, when it was ACTIVE (R34). -/
def State.leftAtMark (s : State) (h : Fin 12) : State := if (s.head h).state = .active then s.leaveAtMark h else s

/-- Head h's calibration ends early at the mark when it leaves ACTIVE there with its measurement not complete (R73; log entry 7). -/
def State.abortsAtMark (s : State) (h : Fin 12) : Bool := decide (LeavesAtMark s h) && !s.calibrationDue h

theorem abortsAtMark_iff {s : State} {h : Fin 12} :
    s.abortsAtMark h = true ↔ LeavesAtMark s h ∧ s.calibrationDue h = false := by
  unfold State.abortsAtMark
  rw [Bool.and_eq_true, decide_eq_true_eq, Bool.not_eq_true']

/-- The slots that the mark answers for head h, and the classes it raises (R73). -/
def State.markSlots (s : State) (h : Fin 12) : List (Fin 8) := if s.abortsAtMark h then s.calibrationSlot h else []

def State.markClasses (s : State) (h : Fin 12) : List NoticeClass := if s.abortsAtMark h then s.calibrationClass h else []

theorem leaveAtMark_of_due {s : State} {h : Fin 12} (hdue : s.calibrationDue h = true) : s.leaveAtMark h = s.forgetActive h :=
  if_pos hdue

theorem leaveAtMark_of_waiting {s : State} {h : Fin 12} (hdue : s.calibrationDue h = false) :
    s.leaveAtMark h = (s.abortCalibration h .headLost).forgetActive h := by
  simp [State.leaveAtMark, hdue, State.leaveActive]

theorem calibration_congr {s t : State} (hst : t.calibrations = s.calibrations) (g : Fin 12) :
    t.calibration g = s.calibration g := by
  unfold State.calibration State.calRecord
  rw [hst]

theorem forgetActive_calibration (s : State) (h g : Fin 12) : (s.forgetActive h).calibration g = s.calibration g :=
  calibration_congr (by simp) g

section Left

variable {s : State} {h : Fin 12} (hdisabled : DisabledAtMark s h)

theorem leftAtMark_of_active (hstate : (s.head h).state = .active) : s.leftAtMark h = s.leaveAtMark h := if_pos hstate

theorem leftAtMark_of_other (hstate : (s.head h).state ≠ .active) : s.leftAtMark h = s := if_neg hstate

theorem forgetActive_effects (s : State) (h : Fin 12) : Effects s (s.forgetActive h) [] [] :=
  .none (by simp) (by simp) (by simp)

include hdisabled

theorem abortsAtMark_of_active (hstate : (s.head h).state = .active) : s.abortsAtMark h = !s.calibrationDue h := by
  have leaves : LeavesAtMark s h := ⟨hdisabled, hstate⟩
  simp [State.abortsAtMark, leaves]

omit hdisabled in
theorem abortsAtMark_of_other (hstate : (s.head h).state ≠ .active) : s.abortsAtMark h = false := by
  simp [State.abortsAtMark, hstate]

theorem leftAtMark_effects : Effects s (s.leftAtMark h) (s.markSlots h) (s.markClasses h) := by
  by_cases hstate : (s.head h).state = .active
  · rw [leftAtMark_of_active hstate, State.markSlots, State.markClasses, abortsAtMark_of_active hdisabled hstate]
    cases hdue : s.calibrationDue h with
    | true =>
      rw [leaveAtMark_of_due hdue]
      exact forgetActive_effects s h
    | false =>
      rw [leaveAtMark_of_waiting hdue]
      exact (abortCalibration_effects s h .headLost).andThen (forgetActive_effects _ h)
  · rw [leftAtMark_of_other hstate, State.markSlots, State.markClasses, abortsAtMark_of_other hstate]
    exact .none rfl rfl rfl

theorem leftAtMark_calibration :
    (s.leftAtMark h).calibration h = if s.abortsAtMark h then none else s.calibration h := by
  by_cases hstate : (s.head h).state = .active
  · rw [leftAtMark_of_active hstate, abortsAtMark_of_active hdisabled hstate]
    cases hdue : s.calibrationDue h with
    | true =>
      rw [leaveAtMark_of_due hdue, forgetActive_calibration]
      rfl
    | false =>
      rw [leaveAtMark_of_waiting hdue, forgetActive_calibration, calibration_abortCalibration]
      simp
  · rw [leftAtMark_of_other hstate, abortsAtMark_of_other hstate]
    rfl

omit hdisabled

theorem leftAtMark_frame (s : State) (h : Fin 12) : (s.leftAtMark h).heads = s.heads ∧ (s.leftAtMark h).period = s.period ∧
    (s.leftAtMark h).clock = s.clock ∧ (s.leftAtMark h).live = s.live ∧ (s.leftAtMark h).records = s.records := by
  unfold State.leftAtMark
  split <;> simp

theorem leftAtMark_channel (s : State) (h : Fin 12) : (s.leftAtMark h).channel h =
    if (s.head h).state = .active then (s.channel h).forgotten else s.channel h := by
  by_cases hstate : (s.head h).state = .active
  · rw [leftAtMark_of_active hstate, if_pos hstate]
    cases hdue : s.calibrationDue h with
    | true => rw [leaveAtMark_of_due hdue, forgetActive_channel]
    | false =>
      rw [leaveAtMark_of_waiting hdue, forgetActive_channel]
      simp [State.channel]
  · rw [leftAtMark_of_other hstate, if_neg hstate]

theorem leftAtMark_trace (s : State) (h : Fin 12) : (s.leftAtMark h).trace =
    { s.trace with mode := s.trace.mode.departing fun g => decide ((s.head h).state = .active) && decide (g = h.val) } := by
  by_cases hstate : (s.head h).state = .active
  · rw [leftAtMark_of_active hstate]
    cases hdue : s.calibrationDue h with
    | true => simp [leaveAtMark_of_due hdue, forgetActive_trace, hstate]
    | false => simp [leaveAtMark_of_waiting hdue, forgetActive_trace, hstate]
  · rw [leftAtMark_of_other hstate]
    simp [hstate, mode_departing_of_none]

theorem leftAtMark_keeps_other (s : State) {g h : Fin 12} (hne : g ≠ h) : OwnKept s (s.leftAtMark g) h := by
  unfold State.leftAtMark
  split
  · cases hdue : s.calibrationDue g with
    | true =>
      rw [leaveAtMark_of_due hdue]
      exact forgetActive_keeps_other s hne
    | false =>
      rw [leaveAtMark_of_waiting hdue]
      exact (abortCalibration_keeps_other s hne .headLost).trans (forgetActive_keeps_other _ hne)
  · exact .refl s h

/-- A calibration that the mark ends early is answered ABORTED with reason HEAD_LOST (R73). -/
theorem leftAtMark_holds {c : Calibration} (hc : s.calibration h = some c) (haborts : s.abortsAtMark h = true) :
    HoldsAnswer (s.leftAtMark h) c.slot (s.slot c.slot).postMark .aborted 2
      [0xFFFF, intWord (s.head h).trim, intWord (s.head h).trim, word c.count] := by
  obtain ⟨⟨-, hstate⟩, hdue⟩ := abortsAtMark_iff.mp haborts
  rw [leftAtMark_of_active hstate, leaveAtMark_of_waiting hdue]
  exact (abortCalibration_holds hc .headLost).kept (forgetActive_keeps_slot ..)

end Left

/-! ## The head at the mark -/

/-- The state past a disabled head's going OFF, before its channel is cut (R29). -/
def State.turnedOff (s : State) (h : Fin 12) : State := (s.leftAtMark h).setHead h ((s.head h).restarted .off)

theorem turnedOff_channel (s : State) (h : Fin 12) : (s.turnedOff h).channel h =
    if (s.head h).state = .active then (s.channel h).forgotten else s.channel h := leftAtMark_channel s h

theorem turnedOff_isOpen (s : State) (h : Fin 12) : ((s.turnedOff h).channel h).isOpen = (s.channel h).isOpen := by
  rw [turnedOff_channel]
  split <;> rfl

/-- A channel cut at a mark, with the cut noted (R62, R67). -/
def Channel.cutAtMark (ch : Channel) : Channel := { ch.closed with cutNote := true, sequence := ch.sequence + 1 }

theorem disableAtMark_eq (s : State) (h : Fin 12) : s.disableAtMark h = if (s.channel h).isOpen then
    ((s.turnedOff h).closeChannel h true (actualLength s.period s.clock)).setChannel h ((s.turnedOff h).channel h).cutAtMark
    else s.turnedOff h := by
  have head : (s.leftAtMark h).head h = s.head h := by simp only [State.head, (leftAtMark_frame s h).1]
  have turned : (s.leftAtMark h).setHead h (((s.leftAtMark h).head h).restarted .off) = s.turnedOff h := by rw [head]; rfl
  have period : (s.turnedOff h).period = s.period := (leftAtMark_frame s h).2.1
  have clock : (s.turnedOff h).clock = s.clock := (leftAtMark_frame s h).2.2.1
  have disabled : s.disableAtMark h = if ((s.turnedOff h).channel h).isOpen then
      ((s.turnedOff h).closeChannel h true (actualLength (s.turnedOff h).period (s.turnedOff h).clock)).setChannel h
        { ((s.turnedOff h).closeChannel h true (actualLength (s.turnedOff h).period (s.turnedOff h).clock)).channel h with
          cutNote := true }
      else s.turnedOff h := by
    rw [← turned]
    rfl
  rw [disabled, turnedOff_isOpen, period, clock, closeChannel_channel]
  rfl

theorem enabled_iff (s : State) (h : Fin 12) : s.enabled h = true ↔ s.peekWord (0x0100 + 16 * h.val) ≠ 0 := decide_eq_true_iff

/-- What a mark makes of head h: nothing, or it is enabled or disabled there. -/
inductive MarkStep (s : State) (h : Fin 12) : State → Prop where
  | kept (hdisabled : ¬DisabledAtMark s h) (henabled : ¬EnabledAtMark s h) : MarkStep s h s
  | enabled (hdisabled : ¬DisabledAtMark s h) (henabled : EnabledAtMark s h) : MarkStep s h (s.enableAtMark h)
  | disabled (hdisabled : DisabledAtMark s h) : MarkStep s h (s.disableAtMark h)

theorem markHead_cases (s : State) (h : Fin 12) : MarkStep s h (s.markHead h) := by
  unfold State.markHead
  by_cases hoff : (s.head h).state = .off
  · rw [if_pos hoff]
    have notDisabled : ¬DisabledAtMark s h := fun hd => hd.1 hoff
    split
    · next hon => exact .enabled notDisabled ⟨hoff, (enabled_iff s h).mp hon⟩
    · next hno => exact .kept notDisabled fun he => hno ((enabled_iff s h).mpr he.2)
  · rw [if_neg hoff]
    split
    · next hon => exact .kept (fun hd => (enabled_iff s h).mp hon hd.2) fun he => hoff he.1
    · next hno => exact .disabled ⟨hoff, not_not.mp fun hne => hno ((enabled_iff s h).mpr hne)⟩

section Marked

variable (s : State) (h : Fin 12)

theorem disableAtMark_head : (s.disableAtMark h).head h = (s.head h).restarted .off := by
  rw [disableAtMark_eq]
  have turned : (s.turnedOff h).head h = (s.head h).restarted .off := head_setHead_same ..
  split
  · rw [← turned]
    simp [State.head]
  · exact turned

theorem disableAtMark_calibration : (s.disableAtMark h).calibration h = (s.leftAtMark h).calibration h := by
  rw [disableAtMark_eq]
  split
  · exact calibration_congr (by simp [State.turnedOff]) h
  · rfl

/-- The head table entry, the channel and the calibration past the mark. -/
theorem markHead_own : (s.markHead h).head h = markedHead s h ∧ (s.markHead h).channel h = markedChannel s h ∧
    (s.markHead h).calibration h = if s.abortsAtMark h then none else s.calibration h := by
  have step := markHead_cases s h
  generalize s.markHead h = t at step
  cases step with
  | kept hdisabled henabled =>
    have notAborts : s.abortsAtMark h = false := by simp [State.abortsAtMark, show ¬LeavesAtMark s h from fun hl => hdisabled hl.1]
    simp only [markedHead, markedChannel, if_neg hdisabled, if_neg henabled, notAborts]
    exact ⟨trivial, trivial, rfl⟩
  | enabled hdisabled henabled =>
    have notAborts : s.abortsAtMark h = false := by simp [State.abortsAtMark, show ¬LeavesAtMark s h from fun hl => hdisabled hl.1]
    simp only [markedHead, markedChannel, if_neg hdisabled, if_pos henabled, notAborts]
    refine ⟨?_, ?_, ?_⟩
    · simp [State.enableAtMark, Head.restarted]
    · simp [State.enableAtMark, Channel.opened, State.atPeriodStart, Bool.and_assoc]
    · rfl
  | disabled hdisabled =>
    simp only [markedHead, markedChannel, if_pos hdisabled]
    refine ⟨disableAtMark_head s h, ?_, ?_⟩
    · rw [disableAtMark_eq]
      split
      · simp only [channel_setChannel_same, turnedOff_channel]
        split <;> rfl
      · simp only [turnedOff_channel]
        rfl
    · rw [disableAtMark_calibration, leftAtMark_calibration hdisabled]

end Marked

/-! ## What the mark leaves in the shared blocks -/

/-- What the mark reads of head h is as it was: its own entries, the live set, and the head settings. -/
structure MarkKept (s t : State) (h : Fin 12) : Prop where
  own : OwnKept s t h
  live : t.live = s.live
  settings : ∀ a < 0x0800, t.store.read a = s.store.read a

theorem MarkKept.refl (s : State) (h : Fin 12) : MarkKept s s h := ⟨.refl s h, rfl, fun _ _ => rfl⟩

theorem MarkKept.trans {s t u : State} {h : Fin 12} (hst : MarkKept s t h) (htu : MarkKept t u h) : MarkKept s u h :=
  ⟨hst.own.trans htu.own, htu.live.trans hst.live, fun a ha => (htu.settings a ha).trans (hst.settings a ha)⟩

section Kept

variable {s t : State} {h : Fin 12} (hst : MarkKept s t h)
include hst

theorem MarkKept.setting : t.peekWord (0x0100 + 16 * h.val) = s.peekWord (0x0100 + 16 * h.val) :=
  peekWord_of_settings hst.settings (by omega)

theorem MarkKept.disabled : DisabledAtMark t h ↔ DisabledAtMark s h := by
  simp only [DisabledAtMark, hst.own.head, hst.setting]

theorem MarkKept.leaves : LeavesAtMark t h ↔ LeavesAtMark s h := by
  simp only [LeavesAtMark, hst.disabled, hst.own.head]

theorem MarkKept.due : t.calibrationDue h = s.calibrationDue h := by
  unfold State.calibrationDue
  rw [hst.own.calibration]

theorem MarkKept.aborts : t.abortsAtMark h = s.abortsAtMark h := by
  rw [Bool.eq_iff_iff, abortsAtMark_iff, abortsAtMark_iff, hst.leaves, hst.due]

theorem MarkKept.slots : t.markSlots h = s.markSlots h := by
  simp only [State.markSlots, hst.aborts, hst.own.calibrationSlot]

theorem MarkKept.classes : t.markClasses h = s.markClasses h := by
  simp only [State.markClasses, hst.aborts, hst.own.calibrationClass]

theorem MarkKept.head : markedHead t h = markedHead s h := by
  unfold markedHead
  simp only [DisabledAtMark, EnabledAtMark, hst.own.head, hst.setting]

theorem MarkKept.channel : markedChannel t h = markedChannel s h := by
  unfold markedChannel
  simp only [DisabledAtMark, EnabledAtMark, hst.own.head, hst.setting, hst.own.channel, hst.own.clock, hst.own.period]

end Kept

theorem markSlots_of_enabled {s : State} {h : Fin 12} (hdisabled : ¬DisabledAtMark s h) :
    s.abortsAtMark h = false ∧ s.markSlots h = [] ∧ s.markClasses h = [] := by
  have notAborts : s.abortsAtMark h = false := by simp [State.abortsAtMark, show ¬LeavesAtMark s h from fun hl => hdisabled hl.1]
  exact ⟨notAborts, by simp [State.markSlots, notAborts], by simp [State.markClasses, notAborts]⟩

section Shared

variable (s : State) (h : Fin 12)

theorem turnedOff_effects (hdisabled : DisabledAtMark s h) :
    Effects s (s.turnedOff h) (s.markSlots h) (s.markClasses h) :=
  (leftAtMark_effects hdisabled).andThen (setHead_effects _ h _)

theorem markHead_besides : Besides s (s.markHead h) (s.markSlots h) (s.markClasses h) := by
  have step := markHead_cases s h
  generalize s.markHead h = t at step
  cases step with
  | kept hdisabled henabled =>
    rw [(markSlots_of_enabled hdisabled).2.1, (markSlots_of_enabled hdisabled).2.2]
    exact .refl s
  | enabled hdisabled henabled =>
    rw [(markSlots_of_enabled hdisabled).2.1, (markSlots_of_enabled hdisabled).2.2]
    exact (Effects.none (by simp) (by simp) (by simp)).besides
  | disabled hdisabled =>
    rw [disableAtMark_eq]
    split
    · exact ((turnedOff_effects s h hdisabled).besides.andThen (closeChannel_besides ..)).andThen
        (setChannel_effects _ h _).besides
    · exact (turnedOff_effects s h hdisabled).besides

theorem markHead_trace : (s.markHead h).trace =
    { s.trace with mode := s.trace.mode.departing fun g => decide (LeavesAtMark s h) && decide (g = h.val) } := by
  have step := markHead_cases s h
  generalize s.markHead h = t at step
  have stays : ¬DisabledAtMark s h → (fun g : Nat => decide (LeavesAtMark s h) && decide (g = h.val)) = fun _ => false :=
    fun hd => funext fun g => by rw [decide_eq_false fun hl : LeavesAtMark s h => hd hl.1, Bool.false_and]
  cases step with
  | kept hdisabled henabled => rw [stays hdisabled, mode_departing_of_none]
  | enabled hdisabled henabled =>
    rw [stays hdisabled, mode_departing_of_none]
    simp
  | disabled hdisabled =>
    have leaves : decide (LeavesAtMark s h) = decide ((s.head h).state = .active) := by
      rw [decide_eq_decide]
      exact ⟨fun hl => hl.2, fun hstate => ⟨hdisabled, hstate⟩⟩
    have same : (s.disableAtMark h).trace = (s.leftAtMark h).trace := by
      rw [disableAtMark_eq]
      split <;> simp [State.turnedOff]
    rw [same, leftAtMark_trace, leaves]

theorem turnedOff_keeps_other {g h : Fin 12} (hne : g ≠ h) : OwnKept s (s.turnedOff g) h :=
  (leftAtMark_keeps_other s hne).trans (setHead_keeps_other _ hne _)

theorem markHead_keeps_other {g h : Fin 12} (hne : g ≠ h) : MarkKept s (s.markHead g) h where
  own := by
    have step := markHead_cases s g
    generalize s.markHead g = t at step
    cases step with
    | kept => exact .refl s h
    | enabled => exact (setHead_keeps_other s hne _).trans (setChannel_keeps_other _ hne _)
    | disabled =>
      rw [disableAtMark_eq]
      split
      · exact ((turnedOff_keeps_other s hne).trans (closeChannel_keeps_other _ _ _ hne)).trans (setChannel_keeps_other _ hne _)
      · exact turnedOff_keeps_other s hne
  live := by simp
  settings a ha := (markHead_writes s g).keeps_below a ha

theorem markHead_from (g : Fin 12) : CalibrationFrom s (s.markHead g) h := by
  by_cases hne : g = h
  · subst hne
    obtain ⟨-, -, calibration⟩ := markHead_own s g
    cases haborts : s.abortsAtMark g with
    | true => exact .of_none (by rw [calibration, haborts]; rfl)
    | false => exact .of_eq (by rw [calibration, haborts]; rfl)
  · exact .of_eq (markHead_keeps_other s hne).own.calibration

/-- The slots that a mark answers for a head are its calibration's. -/
theorem not_mem_markSlots {n : Fin 8} {s : State} {h : Fin 12} (hfree : SlotFree s n h) : n ∉ s.markSlots h := by
  intro hin
  unfold State.markSlots State.calibrationSlot at hin
  split at hin
  · cases hc : s.calibration h with
    | none => simp [hc] at hin
    | some c => exact hfree c hc (by simpa [hc, eq_comm] using hin)
  · simp at hin

theorem disableAtMark_keeps_slot (n : Fin 8) : SlotKept (s.turnedOff h) (s.disableAtMark h) n := by
  rw [disableAtMark_eq]
  split
  · exact (closeChannel_keeps_slot ..).trans (setChannel_keeps_slot ..)
  · exact .refl _ n

theorem markHead_keeps_slot {n : Fin 8} (hn : n ∉ s.markSlots h) : SlotKept s (s.markHead h) n := by
  have step := markHead_cases s h
  generalize s.markHead h = t at step
  cases step with
  | kept => exact .refl s n
  | enabled => exact (setHead_keeps_slot ..).trans (setChannel_keeps_slot ..)
  | disabled hdisabled =>
    exact ((turnedOff_effects s h hdisabled).answered.kept hn).trans (disableAtMark_keeps_slot s h n)

/-- A calibration that the mark ends early is answered ABORTED with reason HEAD_LOST (R73). -/
theorem markHead_holds {c : Calibration} (hc : s.calibration h = some c) (haborts : s.abortsAtMark h = true) :
    HoldsAnswer (s.markHead h) c.slot (s.slot c.slot).postMark .aborted 2
      [0xFFFF, intWord (s.head h).trim, intWord (s.head h).trim, word c.count] := by
  have step := markHead_cases s h
  have hdisabled := (abortsAtMark_iff.mp haborts).1.1
  generalize s.markHead h = t at step
  cases step with
  | kept hnot => exact absurd hdisabled hnot
  | enabled hnot => exact absurd hdisabled hnot
  | disabled =>
    exact (leftAtMark_holds hc haborts).kept ((setHead_keeps_slot ..).trans (disableAtMark_keeps_slot s h c.slot))

end Shared

/-! ## The record that the mark hands over -/

/-- Head h's channel is cut at the mark (R62). -/
def State.cutsAtMark (s : State) (h : Fin 12) : Bool := decide (DisabledAtMark s h) && (s.channel h).isOpen

theorem Effects.handing {u t v : State} {heads : List (Fin 12)} {cut : Bool} {actual : Nat} {aside : List (Nat × Nat)}
    {l : List (Fin 8)} {m : List NoticeClass} (htv : Effects t v l m) (hrecords : v.records = t.records) (hm : .record ∉ m)
    (hut : Handing u t heads cut actual aside) : Handing u v heads cut actual (aside ++ l.map answerBytes) := by
  refine hut.beside hrecords ?_ htv.answered.bytes fun r hr => ?_
  · rw [htv.raised.1, decide_eq_false hm, Bool.false_or]
  · obtain ⟨n, -, rfl⟩ := List.mem_map.mp hr
    have := answerBytes_bounds n
    omega

theorem record_not_mem_markClasses (s : State) (h : Fin 12) : .record ∉ s.markClasses h := by
  unfold State.markClasses State.calibrationClass
  split
  · split <;> simp
  · simp

theorem turnedOff_recordKept (s : State) (h : Fin 12) (hdisabled : DisabledAtMark s h) : RecordKept s (s.turnedOff h) h := by
  obtain ⟨-, period, -, live, -⟩ := leftAtMark_frame s h
  have head : (s.turnedOff h).head h = (s.head h).restarted .off := head_setHead_same ..
  have channel := turnedOff_channel s h
  refine ⟨?_, ?_, ?_, ?_, period, live, fun a ha => ?_⟩
  · rw [channel]; split <;> rfl
  · rw [channel]; split <;> rfl
  · rw [channel]; split <;> rfl
  · rw [head]; rfl
  · refine (turnedOff_effects s h hdisabled).answered.bytes a fun r hr hin => ?_
    obtain ⟨n, -, rfl⟩ := List.mem_map.mp hr
    have := answerBytes_bounds n
    omega

theorem MarkKept.record {v t : State} {h : Fin 12} (hk : MarkKept v t h) : RecordKept v t h :=
  ⟨by rw [hk.own.channel], by rw [hk.own.channel], by rw [hk.own.channel], by rw [hk.own.head], hk.own.period, hk.live, hk.settings⟩

/-- The mark hands over the record of a head that it disables with an open channel (R62), and writes the answer of a calibration
that it ends early. -/
theorem markHead_handing {v t : State} {h : Fin 12} {heads : List (Fin 12)} {aside : List (Nat × Nat)} (hk : MarkKept v t h)
    (hnot : h ∉ heads) (hvt : Handing v t heads true (actualLength v.period v.clock) aside) :
    Handing v (t.markHead h) (heads ++ if v.cutsAtMark h then [h] else []) true (actualLength v.period v.clock)
      (aside ++ (v.markSlots h).map answerBytes) := by
  have step := markHead_cases t h
  generalize t.markHead h = w at step
  have enabled : ¬DisabledAtMark t h → v.cutsAtMark h = false ∧ v.markSlots h = [] := fun hd => by
    refine ⟨?_, by rw [← hk.slots, (markSlots_of_enabled hd).2.1]⟩
    simp [State.cutsAtMark, show ¬DisabledAtMark v h from fun hv => hd (hk.disabled.mpr hv)]
  cases step with
  | kept hdisabled henabled =>
    rw [(enabled hdisabled).1, (enabled hdisabled).2]
    simpa using hvt
  | enabled hdisabled henabled =>
    rw [(enabled hdisabled).1, (enabled hdisabled).2]
    have kept : Effects t (t.enableAtMark h) [] [] := .none (by simp) (by simp) (by simp)
    simpa using kept.handing (by simp) (by simp) hvt
  | disabled hdisabled =>
    have cuts : v.cutsAtMark h = (t.channel h).isOpen := by
      simp [State.cutsAtMark, hk.disabled.mp hdisabled, hk.own.channel]
    have turned := (turnedOff_effects t h hdisabled).handing (leftAtMark_frame t h).2.2.2.2 (record_not_mem_markClasses t h) hvt
    rw [hk.slots] at turned
    rw [disableAtMark_eq, cuts, hk.own.period, hk.own.clock]
    split
    · next hopen =>
      have closed := turned.close hnot (hk.record.trans (turnedOff_recordKept t h hdisabled))
      simpa [hopen] using (setChannel_effects _ h _).handing rfl (by simp) closed
    · next hclosed => simpa [hclosed] using turned

end Sys2Proof.Machine
end

section
/-! PROOFS. What is left of a tick event past its clock step: the mark and the calibrations that complete behind it, as one (R19, R29,
R68, R72, R183). -/

namespace Sys2Proof.Machine

open Sys2Proof

/-! ## One head in a fold over all heads -/

/-- No head but h has a calibration that answers in slot n. -/
def SlotsElsewhere (s : State) (n : Fin 8) (h : Fin 12) : Prop := ∀ g, g ≠ h → SlotFree s n g

/-- What concerns head h is as it was, and so is each slot that no other head's calibration answers. -/
structure HeadKept (s t : State) (h : Fin 12) : Prop where
  mark : MarkKept s t h
  slot : ∀ n, SlotsElsewhere s n h → SlotKept s t n ∧ SlotsElsewhere t n h

theorem HeadKept.refl (s : State) (h : Fin 12) : HeadKept s s h := ⟨.refl s h, fun n hn => ⟨.refl s n, hn⟩⟩

theorem HeadKept.trans {s t u : State} {h : Fin 12} (hst : HeadKept s t h) (htu : HeadKept t u h) : HeadKept s u h where
  mark := hst.mark.trans htu.mark
  slot n hn := by
    obtain ⟨first, free⟩ := hst.slot n hn
    obtain ⟨second, last⟩ := htu.slot n free
    exact ⟨first.trans second, last⟩

/-- In a fold over all heads whose steps keep what concerns the other heads, one head's entries change in its own step only. -/
theorem foldl_allHeads_own {f : State → Fin 12 → State} (other : ∀ s g h, g ≠ h → HeadKept s (f s g) h) (h : Fin 12) (s : State) :
    ∃ u, HeadKept s u h ∧ HeadKept (f u h) (allHeads.foldl f s) h := by
  have fold : ∀ l : List (Fin 12), h ∉ l → ∀ s, HeadKept s (l.foldl f s) h := fun l hl s =>
    List.foldlRecOn (motive := fun t => HeadKept s t h) l _ (.refl s h) fun t ht g hg =>
      ht.trans (other t g h (ne_of_mem_of_not_mem hg hl))
  obtain ⟨before, after, heads⟩ := List.append_of_mem (mem_allHeads h)
  have nodup : (before ++ h :: after).Nodup := heads ▸ (by decide : allHeads.Nodup)
  obtain ⟨-, hafter, hdisjoint⟩ := List.nodup_append.mp nodup
  rw [heads, List.foldl_append, List.foldl_cons]
  exact ⟨_, fold before (fun hb => hdisjoint h hb h List.mem_cons_self rfl) s, fold after (List.nodup_cons.mp hafter).1 _⟩

theorem SlotsElsewhere.from {s t : State} {n : Fin 8} {h : Fin 12} (hs : SlotsElsewhere s n h)
    (hst : ∀ g, CalibrationFrom s t g) : SlotsElsewhere t n h := fun g hg => (hs g hg).from (hst g)

theorem markHead_headKept (s : State) (g h : Fin 12) (hne : g ≠ h) : HeadKept s (s.markHead g) h where
  mark := markHead_keeps_other s hne
  slot _ hn := ⟨markHead_keeps_slot s g (not_mem_markSlots (hn g hne)), hn.from fun k => markHead_from s k g⟩

theorem completeCalibration_headKept (s : State) (g h : Fin 12) (hne : g ≠ h) : HeadKept s (s.completeCalibration g) h where
  mark := ⟨completeCalibration_keeps_other s h hne, by simp, fun a ha => (completeCalibration_writes s g).keeps_below a ha⟩
  slot _ hn := ⟨completeCalibration_keeps_slot s g (hn g hne), hn.from fun k => completeCalibration_from s k g⟩

/-! ## The states of a mark -/

/-- The state past what the mark makes of every head (R29). -/
@[irreducible] def State.headsMarked (v : State) : State := allHeads.foldl State.markHead v

/-- The state past the completion of every calibration that is due (R72). -/
@[irreducible] def State.trimsSet (v : State) : State := allHeads.foldl State.completeCalibration v

theorem headsMarked_split (v : State) (h : Fin 12) : ∃ u, HeadKept v u h ∧ HeadKept (u.markHead h) v.headsMarked h := by
  unfold State.headsMarked
  exact foldl_allHeads_own markHead_headKept h v

theorem trimsSet_split (v : State) (h : Fin 12) : ∃ u, HeadKept v u h ∧ HeadKept (u.completeCalibration h) v.trimsSet h := by
  unfold State.trimsSet
  exact foldl_allHeads_own completeCalibration_headKept h v

/-- The link past the mark (R19). -/
def Link.marked (x : Link) : Link :=
  { x with receiver := .quiet, buffers := Vector.replicate 12 none, tickOpen := some x.nextMark, nextMark := x.nextMark + 1 }

/-- The state with the mark sent, whose heads have followed it (R19). -/
def State.sendMark (s : State) (x : Link) : State := { s with stage := .marked, link := x.marked }

/-- The state past the mark. -/
def State.marked (v : State) : State := v.headsMarked.sendMark v.link

/-- The state past what is left of a tick event after its clock step. -/
def State.markMade (v : State) : State := v.marked.trimsSet.atStage .idle

section SendMark

variable (s : State) (x : Link)

theorem head_sendMark (h : Fin 12) : (s.sendMark x).head h = s.head h := rfl
theorem channel_sendMark (h : Fin 12) : (s.sendMark x).channel h = s.channel h := rfl
theorem calibration_sendMark (h : Fin 12) : (s.sendMark x).calibration h = s.calibration h := rfl
theorem atStage_keeps_slot (y : TickStage) (n : Fin 8) : SlotKept s (s.atStage y) n := .of_eq rfl rfl
theorem sendMark_keeps_slot (n : Fin 8) : SlotKept s (s.sendMark x) n := .of_eq rfl rfl
theorem sendMark_effects : Effects s (s.sendMark x) [] [] := .none rfl rfl rfl
theorem sendMark_elsewhere {n : Fin 8} {h : Fin 12} (hs : SlotsElsewhere s n h) : SlotsElsewhere (s.sendMark x) n h := hs

end SendMark

theorem headsMarked_link (v : State) : v.headsMarked.link = v.link := by
  unfold State.headsMarked
  exact foldl_keep State.link _ (fun t h => by simp) _ _

theorem headsMarked_period (v : State) : v.headsMarked.period = v.period := by
  unfold State.headsMarked
  exact foldl_keep State.period _ (fun t h => by simp) _ _

theorem markStage_of_stepped {v : State} (hv : v.stage = .stepped) : v.markStage = v.marked := by
  have link := headsMarked_link v
  unfold State.markStage State.marked State.sendMark
  rw [hv, ← link]
  unfold State.headsMarked
  rfl

theorem calibrationStage_of_marked {v : State} (hv : v.stage = .marked) : v.calibrationStage = v.trimsSet.atStage .idle := by
  unfold State.calibrationStage State.trimsSet
  rw [hv]
  rfl

theorem exec_tickEvent_of_stepped {v : State} (hv : v.stage = .stepped) : exec .tickEvent v = .next v.markMade := by
  have begun : v.beginTick = v := by rw [State.beginTick, hv]
  have closed : v.finishClose = v := finishClose_of_closeDone (by simp [closeDone, hv])
  have stepped : v.periodStage = v := by rw [State.periodStage, hv]
  have finished : v.beginTick.finishTick = v.markMade := by
    rw [begun, State.finishTick, closed, stepped, markStage_of_stepped hv, calibrationStage_of_marked rfl]
    rfl
  exact congrArg Host.Outcome.next finished

/-! ## One head's entries past the mark -/

theorem calibratedTrim_congr {s t : State} {h : Fin 12} (hst : t.calibration h = s.calibration h) :
    calibratedTrim t h = calibratedTrim s h := by
  unfold calibratedTrim
  rw [hst]

theorem markedHead_trim (v : State) (h : Fin 12) : (markedHead v h).trim = (v.head h).trim := by
  unfold markedHead
  split
  · rfl
  · split <;> rfl

section Views

variable (v : State) (h : Fin 12)

theorem headsMarked_own : v.headsMarked.head h = markedHead v h ∧ v.headsMarked.channel h = markedChannel v h ∧
    v.headsMarked.calibration h = if v.abortsAtMark h then none else v.calibration h := by
  obtain ⟨u, hu, ht⟩ := headsMarked_split v h
  obtain ⟨head, channel, calibration⟩ := markHead_own u h
  rw [hu.mark.head] at head
  rw [hu.mark.channel] at channel
  rw [hu.mark.aborts, hu.mark.own.calibration] at calibration
  exact ⟨ht.mark.own.head.trans head, ht.mark.own.channel.trans channel, ht.mark.own.calibration.trans calibration⟩

theorem marked_calibration : v.marked.calibration h = if v.abortsAtMark h then none else v.calibration h :=
  (calibration_sendMark ..).trans (headsMarked_own v h).2.2

/-- A calibration that is due does not end early at the mark (log entry 7). -/
theorem marked_due : v.marked.calibrationDue h = v.calibrationDue h := by
  unfold State.calibrationDue
  rw [marked_calibration]
  cases haborts : v.abortsAtMark h with
  | false => rfl
  | true =>
    have waiting := (abortsAtMark_iff.mp haborts).2
    unfold State.calibrationDue at waiting
    rw [waiting]
    rfl

theorem marked_trim : calibratedTrim v.marked h = calibratedTrim v h := by
  cases haborts : v.abortsAtMark h with
  | false =>
    refine calibratedTrim_congr ?_
    rw [marked_calibration, haborts]
    rfl
  | true =>
    have waiting := (abortsAtMark_iff.mp haborts).2
    rw [calibratedTrim_of_waiting waiting, calibratedTrim_of_waiting ((marked_due v h).trans waiting)]

theorem marked_period : v.marked.period = v.period := headsMarked_period v

/-- The head table entry, the channel and the calibration at the end of the tick event. -/
theorem markMade_own : v.markMade.head h = { markedHead v h with trim := (calibratedTrim v h).getD (v.head h).trim } ∧
    v.markMade.channel h =
      (markedChannel v h).trimmed ((calibratedTrim v h).isSome && (markedChannel v h).isOpen && v.period.isOpen) ∧
    v.markMade.calibration h = if LeavesAtMark v h ∨ v.calibrationDue h = true then none else v.calibration h := by
  obtain ⟨u, hu, ht⟩ := trimsSet_split v.marked h
  obtain ⟨head, channel, calibration⟩ := completeCalibration_own u h
  obtain ⟨markedHead_eq, markedChannel_eq, -⟩ := headsMarked_own v h
  have trim : calibratedTrim u h = calibratedTrim v h := (calibratedTrim_congr hu.mark.own.calibration).trans (marked_trim v h)
  have uHead : u.head h = markedHead v h := hu.mark.own.head.trans ((head_sendMark ..).trans markedHead_eq)
  have uChannel : u.channel h = markedChannel v h := hu.mark.own.channel.trans ((channel_sendMark ..).trans markedChannel_eq)
  rw [uHead, trim, markedHead_trim] at head
  rw [uChannel, trim, hu.mark.own.period, marked_period] at channel
  rw [hu.mark.due, marked_due, hu.mark.own.calibration, marked_calibration] at calibration
  refine ⟨ht.mark.own.head.trans head, ht.mark.own.channel.trans channel, (ht.mark.own.calibration.trans calibration).trans ?_⟩
  cases hdue : v.calibrationDue h with
  | true => simp
  | false =>
    have aborts : v.abortsAtMark h = true ↔ LeavesAtMark v h := by rw [abortsAtMark_iff, hdue]; simp only [and_true]
    by_cases hleaves : LeavesAtMark v h
    · rw [if_pos (Or.inl hleaves), aborts.mpr hleaves]
      rfl
    · have notAborts : v.abortsAtMark h = false := Bool.eq_false_iff.mpr fun ha => hleaves (aborts.mp ha)
      rw [notAborts]
      exact (if_neg (by rintro (hl | hf); exacts [hleaves hl, Bool.false_ne_true hf])).symm

end Views

/-! ## The answers -/

theorem slotsElsewhere_of_held {s : State} {h : Fin 12} {c : Calibration} (hheld : (heldSlots s).Nodup)
    (hc : s.calibration h = some c) : SlotsElsewhere s c.slot h := fun _ hne => slotFree_of_nodup hheld hne hc

section Answers

variable {v : State} (hheld : (heldSlots v).Nodup) {h : Fin 12} {c : Calibration} (hc : v.calibration h = some c)
include hheld hc

/-- The answer of a calibration that the mark ends early stands to the end of the tick event (R73). -/
theorem markMade_holds_aborted (hcount : c.count < 128) (hleaves : LeavesAtMark v h) :
    HoldsAnswer v.markMade c.slot (v.slot c.slot).postMark .aborted 2
      [0xFFFF, intWord (v.head h).trim, intWord (v.head h).trim, word c.count] := by
  have waiting : v.calibrationDue h = false := by rw [calibrationDue_of_some hc]; simpa using hcount
  have aborts : v.abortsAtMark h = true := abortsAtMark_iff.mpr ⟨hleaves, waiting⟩
  obtain ⟨u, hu, hm⟩ := headsMarked_split v h
  obtain ⟨slot, free⟩ := hu.slot c.slot (slotsElsewhere_of_held hheld hc)
  have answered := markHead_holds u h (hu.mark.own.calibration.trans hc) (by rw [hu.mark.aborts, aborts])
  rw [slot.slot, hu.mark.own.head] at answered
  obtain ⟨toMarked, freeMarked⟩ := hm.slot c.slot (free.from fun k => markHead_from u k h)
  have none : v.marked.calibration h = none := by rw [marked_calibration, aborts]; rfl
  obtain ⟨w, hw, ht⟩ := trimsSet_split v.marked h
  have own : SlotFree w c.slot h := fun d hd => by rw [hw.mark.own.calibration, none] at hd; cases hd
  obtain ⟨toOwn, freeOwn⟩ := hw.slot c.slot (sendMark_elsewhere _ v.link freeMarked)
  obtain ⟨toEnd, -⟩ := ht.slot c.slot (freeOwn.from fun k => completeCalibration_from w k h)
  exact ((answered.kept toMarked).kept (sendMark_keeps_slot ..)).kept
    (((toOwn.trans (completeCalibration_keeps_slot w h own)).trans toEnd).trans (atStage_keeps_slot ..))

/-- The answer of a calibration that completes behind the mark (R72). -/
theorem markMade_holds_completed (hcount : 128 ≤ c.count) : HoldsAnswer v.markMade c.slot (v.slot c.slot).postMark
    (if (calibratedTrim v h).isSome then .done else .outOfRange) 0
    [word (rawLevel (c.sum.toNat / 128)), intWord (v.head h).trim, intWord ((calibratedTrim v h).getD (v.head h).trim),
      word c.count] := by
  have due : v.calibrationDue h = true := calibrationDue_iff.mpr ⟨c, hc, hcount⟩
  have notAborts : v.abortsAtMark h = false := Bool.eq_false_iff.mpr fun ha => by simp [(abortsAtMark_iff.mp ha).2] at due
  obtain ⟨u, hu, hm⟩ := headsMarked_split v h
  obtain ⟨slot, free⟩ := hu.slot c.slot (slotsElsewhere_of_held hheld hc)
  have stays : c.slot ∉ u.markSlots h := by rw [hu.mark.slots, State.markSlots, notAborts]; simp
  obtain ⟨toMarked, freeMarked⟩ := hm.slot c.slot (free.from fun k => markHead_from u k h)
  have before := ((slot.trans (markHead_keeps_slot u h stays)).trans toMarked).trans (sendMark_keeps_slot _ v.link c.slot)
  obtain ⟨w, hw, ht⟩ := trimsSet_split v.marked h
  obtain ⟨toOwn, freeOwn⟩ := hw.slot c.slot (sendMark_elsewhere _ v.link freeMarked)
  have calibration : w.calibration h = some c := by rw [hw.mark.own.calibration, marked_calibration, notAborts]; exact hc
  have answered := completeCalibration_holds w h calibration hcount
  have head : (w.head h).trim = (v.head h).trim := by
    rw [hw.mark.own.head, ← markedHead_trim v h]
    exact congrArg Head.trim ((head_sendMark ..).trans (headsMarked_own v h).1)
  have postMark : w.slot c.slot = v.slot c.slot := toOwn.slot.trans before.slot
  rw [(calibratedTrim_congr hw.mark.own.calibration).trans (marked_trim v h), head, postMark] at answered
  obtain ⟨toEnd, -⟩ := ht.slot c.slot (freeOwn.from fun k => completeCalibration_from w k h)
  exact answered.kept (toEnd.trans (atStage_keeps_slot ..))

end Answers

/-! ## The shared blocks past the mark -/

theorem nodup_allHeads : allHeads.Nodup := by decide

section Shared

variable (v : State)

theorem headsMarked_besides : Besides v v.headsMarked (allHeads.flatMap v.markSlots) (allHeads.flatMap v.markClasses) := by
  have slots := foldl_effects (K := MarkKept) (R := fun s t l => ∀ n, n ∉ l → SlotKept s t n)
    (f := State.markHead) (effect := State.markSlots) (fun s _ _ hne => markHead_keeps_other s hne) (fun s n _ => .refl s n)
    (fun s t u l m hst htu n hn => (hst n fun h => hn (List.mem_append_left m h)).trans
      (htu n fun h => hn (List.mem_append_right l h))) (fun s h => (markHead_besides s h).kept)
    (fun _ _ _ hk => hk.slots) nodup_allHeads v
  have classes := foldl_effects (K := MarkKept) (R := fun s t l => Besides s t (List.finRange 8) l)
    (f := State.markHead) (effect := State.markClasses) (fun s _ _ hne => markHead_keeps_other s hne)
    (fun s => ⟨fun n _ => .refl s n, rfl, rfl, fun _ _ => by simp, rfl⟩)
    (fun s t u l m hst htu => by
      have both := hst.trans htu
      exact ⟨fun n hn => absurd (List.mem_finRange n) hn, both.queue, both.inService, both.raised, both.mask⟩)
    (fun s h => by
      have step := markHead_besides s h
      exact ⟨fun n hn => absurd (List.mem_finRange n) hn, step.queue, step.inService, step.raised, step.mask⟩)
    (fun _ _ _ hk => hk.classes) nodup_allHeads v
  unfold State.headsMarked
  exact ⟨slots, classes.queue, classes.inService, classes.raised, classes.mask⟩

theorem trimsSet_effects : Effects v v.trimsSet (allHeads.flatMap v.dueSlots) (allHeads.flatMap v.dueClasses) := by
  have answered := foldl_effects (K := OwnKept) (R := SlotsAnswered)
    (f := State.completeCalibration) (effect := State.dueSlots) (fun s _ h hne => completeCalibration_keeps_other s h hne)
    (fun _ => .of_eq rfl rfl) (fun _ _ _ _ _ => .trans) (fun s h => (completeCalibration_effects s h).answered)
    (fun s t h hk => by unfold State.dueSlots State.calibrationDue; rw [hk.calibrationSlot, hk.calibration]) nodup_allHeads v
  have raised := foldl_effects (K := OwnKept) (R := OnlyRaised)
    (f := State.completeCalibration) (effect := State.dueClasses) (fun s _ h hne => completeCalibration_keeps_other s h hne)
    (fun _ => .of_notices rfl) (fun _ _ _ _ _ => .trans) (fun s h => (completeCalibration_effects s h).raised)
    (fun s t h hk => by unfold State.dueClasses State.calibrationDue; rw [hk.calibrationClass, hk.calibration]) nodup_allHeads v
  unfold State.trimsSet
  exact ⟨answered, raised⟩

theorem marked_calibration_of_due {h : Fin 12} (hdue : v.calibrationDue h = true) : v.marked.calibration h = v.calibration h := by
  have notAborts : v.abortsAtMark h = false := Bool.eq_false_iff.mpr fun ha => by simp [(abortsAtMark_iff.mp ha).2] at hdue
  rw [marked_calibration, notAborts]
  rfl

theorem marked_dueSlots (h : Fin 12) : v.marked.dueSlots h = v.dueSlots h := by
  unfold State.dueSlots State.calibrationSlot
  rw [marked_due]
  split
  · next hdue => rw [marked_calibration_of_due v hdue]
  · rfl

theorem marked_dueClasses (h : Fin 12) : v.marked.dueClasses h = v.dueClasses h := by
  unfold State.dueClasses State.calibrationClass
  rw [marked_due]
  split
  · next hdue => rw [marked_calibration_of_due v hdue]
  · rfl

theorem markMade_besides : Besides v v.markMade (allHeads.flatMap v.markSlots ++ allHeads.flatMap v.dueSlots)
    (allHeads.flatMap v.markClasses ++ allHeads.flatMap v.dueClasses) := by
  have set := (trimsSet_effects v.marked).besides
  rw [List.flatMap_congr fun h _ => marked_dueSlots v h, List.flatMap_congr fun h _ => marked_dueClasses v h] at set
  exact (((headsMarked_besides v).andThen (sendMark_effects _ v.link).besides).trans set).andThen
    (Effects.none (by rfl) (by rfl) (by rfl)).besides

theorem headsMarked_trace : DepartsFrom v.trace v.headsMarked.trace (allHeads.filter fun h => decide (LeavesAtMark v h)) := by
  have departs := foldl_effects (K := MarkKept) (R := fun s t l => DepartsFrom s.trace t.trace l)
    (f := State.markHead) (effect := fun s h => if decide (LeavesAtMark s h) then [h] else [])
    (fun s _ _ hne => markHead_keeps_other s hne) (fun _ => .refl _) (fun _ _ _ _ _ => .trans) (fun s h => by
      have trace := markHead_trace s h
      cases hl : decide (LeavesAtMark s h) with
      | true =>
        rw [hl] at trace
        simpa [DepartsFrom] using trace
      | false =>
        rw [hl] at trace
        simpa [DepartsFrom] using trace) (fun s t h hk => by rw [decide_eq_decide.mpr hk.leaves]) nodup_allHeads v
  unfold State.headsMarked
  rwa [flatMap_eq_filter] at departs

theorem markMade_trace : v.markMade.trace = v.headsMarked.trace := by
  have set : v.marked.trimsSet.trace = v.marked.trace := by
    unfold State.trimsSet
    exact foldl_keep State.trace _ (fun t h => by simp) _ _
  exact set

theorem record_not_mem_dueClasses (h : Fin 12) : .record ∉ v.dueClasses h := by
  unfold State.dueClasses State.calibrationClass
  split
  · split <;> simp
  · simp

/-- The records of the channels cut at the mark are handed over, and the answers of the calibrations that end there written. -/
theorem markMade_handing : Handing v v.markMade (cutAtMark v) true (actualLength v.period v.clock)
    ((allHeads.flatMap v.markSlots ++ allHeads.flatMap v.dueSlots).map answerBytes) := by
  have marked := foldl_handing (u := v) (cut := true) (actual := actualLength v.period v.clock) (f := State.markHead)
    (K := fun t h => MarkKept v t h) (cuts := v.cutsAtMark) (extra := fun h => (v.markSlots h).map answerBytes)
    (fun t g h hne hk => hk.trans (markHead_keeps_other t hne)) (fun t h heads aside hk hnot hvt => markHead_handing hk hnot hvt)
    nodup_allHeads (t := v) (fun h _ => .refl v h) (by simp) (.refl v true _)
  have cuts : allHeads.filter v.cutsAtMark = cutAtMark v := rfl
  rw [List.nil_append, List.nil_append, cuts] at marked
  have sent := (sendMark_effects v.headsMarked v.link).handing (by rfl) (by simp) (by unfold State.headsMarked; exact marked)
  have records : v.marked.trimsSet.records = v.marked.records := by
    unfold State.trimsSet
    exact foldl_keep State.records _ (fun t h => by simp) _ _
  have set := (trimsSet_effects v.marked).handing records 
    (by simpa [marked_dueClasses] using fun h _ => record_not_mem_dueClasses v h) sent
  rw [List.flatMap_congr fun h _ => marked_dueSlots v h] at set
  have ended := (Effects.none (s := v.marked.trimsSet) (t := v.markMade) (by rfl) (by rfl) (by rfl)).handing (by rfl) (by simp) set
  simpa [List.map_append, List.map_flatMap] using ended

end Shared

/-! ## The mark as a whole -/

theorem markMade_frame {v : State} (hv : v.stage = .stepped) : v.markMade =
    { v with stage := .idle, link := v.link.marked, heads := v.markMade.heads, channels := v.markMade.channels,
             calibrations := v.markMade.calibrations, trace := v.markMade.trace, records := v.markMade.records,
             requests := v.markMade.requests, store := v.markMade.store, notices := v.markMade.notices } := by
  have stages : v.markMade = v.markStage.calibrationStage := by
    rw [markStage_of_stepped hv, calibrationStage_of_marked rfl]
    rfl
  have stage : v.markMade.stage = .idle := rfl
  have link : v.markMade.link = v.link.marked := by
    have set : v.marked.trimsSet.link = v.marked.link := by
      unfold State.trimsSet
      exact foldl_keep State.link _ (fun t h => by simp) _ _
    exact set
  apply State.eq_of_fields (h5 := stage) (h9 := link) <;> simp [stages]

theorem mem_endedAtMark {v : State} {n : Fin 8} :
    n ∈ endedAtMark v ↔ n ∈ allHeads.flatMap v.markSlots ++ allHeads.flatMap v.dueSlots := by
  have own : ∀ h, (∃ c, v.calibration h = some c ∧ c.slot = n) ∧ (LeavesAtMark v h ∨ v.calibrationDue h = true) ↔
      n ∈ v.markSlots h ∨ n ∈ v.dueSlots h := by
    intro h
    have slot : n ∈ v.calibrationSlot h ↔ ∃ c, v.calibration h = some c ∧ c.slot = n := by simp [State.calibrationSlot]
    have mark : n ∈ v.markSlots h ↔ v.abortsAtMark h = true ∧ n ∈ v.calibrationSlot h := by
      unfold State.markSlots
      split <;> simp_all
    have due : n ∈ v.dueSlots h ↔ v.calibrationDue h = true ∧ n ∈ v.calibrationSlot h := by
      unfold State.dueSlots
      split <;> simp_all
    rw [mark, due, slot, abortsAtMark_iff]
    generalize LeavesAtMark v h = leaves
    cases v.calibrationDue h with
    | true => simp
    | false => simp [and_comm]
  simp only [endedAtMark, List.mem_filterMap, Option.ite_none_right_eq_some, Option.map_eq_some_iff, List.mem_append,
    List.mem_flatMap, mem_allHeads, true_and, ← exists_or, ← own]
  exact exists_congr fun h => and_comm

theorem answer_mem_markClasses {v : State} :
    .answer ∈ allHeads.flatMap v.markClasses ++ allHeads.flatMap v.dueClasses ↔ endedAtMark v ≠ [] := by
  have own : ∀ h, .answer ∈ v.markClasses h ∨ .answer ∈ v.dueClasses h ↔ ∃ n, n ∈ v.markSlots h ∨ n ∈ v.dueSlots h := by
    intro h
    unfold State.markClasses State.dueClasses State.markSlots State.dueSlots State.calibrationClass State.calibrationSlot
    cases hc : v.calibration h with
    | none => simp
    | some c =>
      cases v.abortsAtMark h <;> cases v.calibrationDue h <;> simp
  rw [ne_eq, List.eq_nil_iff_forall_not_mem, not_forall]
  simp only [not_not, mem_endedAtMark, List.mem_append, List.mem_flatMap, mem_allHeads, true_and, ← exists_or, own]
  exact exists_comm

theorem mem_markClasses {v : State} {c : NoticeClass}
    (hc : c ∈ allHeads.flatMap v.markClasses ++ allHeads.flatMap v.dueClasses) : c = .answer := by
  simp only [List.mem_append, List.mem_flatMap, State.markClasses, State.dueClasses, State.calibrationClass,
    List.mem_ite_nil_right, List.mem_singleton] at hc
  tauto

theorem buffer_marked (x : Link) (h : Fin 12) : x.marked.buffers[h] = none := by
  simp [Link.marked]

theorem any_filter_leaves (v : State) (g : Nat) :
    ((allHeads.filter fun h => decide (LeavesAtMark v h)).any fun h => decide (g = h.val)) =
      allHeads.any fun h => decide (h.val = g ∧ LeavesAtMark v h) := by
  rw [List.any_filter]
  congr 1
  funext h
  rw [← Bool.decide_and, decide_eq_decide, and_comm, eq_comm]

theorem trimmed_of_seen (ch : Channel) {b : Bool} (hb : b = true) :
    ch.trimmed b = { ch with acc := { ch.acc with calSeen := true } } := if_pos hb

theorem trimmed_of_unseen (ch : Channel) {b : Bool} (hb : b = false) : ch.trimmed b = ch := by
  simp [Channel.trimmed, hb]

/-- What is left of a tick event after its clock step. -/
theorem markMade_made {v : State} (hv : v.stage = .stepped) : MarkMade v v.markMade := by
  have frame := markMade_frame hv
  have link : v.markMade.link = v.link.marked := by rw [frame]
  have besides := markMade_besides v
  have handing := markMade_handing v
  have departs := headsMarked_trace v
  rw [← markMade_trace] at departs
  obtain ⟨traceKept, traceDeparts⟩ := trace_of_departing departs
  refine ⟨?_, by rw [link]; rfl, by rw [link]; rfl, by rw [link]; rfl, by rw [link]; rfl,
    fun h => by rw [State.buffer, link]; exact buffer_marked _ h, ?_, fun h => (markMade_own v h).1, fun h htrim hopen hperiod => ?_,
    fun h hnot => ?_, handing.records, fun h => (markMade_own v h).2.2,
    fun hheld h c hc => ⟨markMade_holds_aborted hheld hc, markMade_holds_completed hheld hc⟩,
    fun n hn => (besides.kept n fun hin => hn (mem_endedAtMark.mpr hin)).slot, besides.queue, besides.inService, traceKept,
    fun c hc => ⟨_, traceDeparts c hc, ?_⟩, besides.mask, fun c hrecord hanswer => ?_, ?_, ?_⟩
  · have items : v.markMade.trace = { v.trace with mode := v.markMade.trace.mode } := by rw [departs]
    rw [← items, link]
    exact frame
  · rw [State.markSent, link]
    rfl
  · rw [(markMade_own v h).2.1, trimmed_of_seen _ (by simp [htrim, hopen, hperiod])]
  · rw [(markMade_own v h).2.1, trimmed_of_unseen]
    rcases hnot with hn | hn | hn <;> simp [hn]
  · rw [Capture.departing]
    simp only [any_filter_leaves]
  · rw [besides.raised c hrecord, decide_eq_false fun hin => hanswer (mem_markClasses hin), Bool.false_or]
  · rw [besides.raised .answer (by simp), decide_eq_decide.mpr answer_mem_markClasses]
  · refine handing.bytes.mono fun r hr => ?_
    rw [List.mem_append, List.mem_map] at hr ⊢
    exact hr.imp_right fun ⟨n, hn, e⟩ => ⟨n, mem_endedAtMark.mpr hn, e⟩

end Sys2Proof.Machine
end

section
/-! PROOFS. The tick event: what a TICK_EVENT does of which parts (R27, R40, R44), and the first one of a run. -/

namespace Sys2Proof.Machine

open Sys2Proof

/-- Settles O18: the tick close of all heads, the clock step within a second, and the mark, each by its own theorem. -/
theorem tickEventSettlesEveryHead : Obligations.TickEventSettlesEveryHead := by
  refine ⟨fun s hs hjoin hmiss => ?_, fun s v => exec_tickEvent_of_periodEnd, fun v hstage _ =>
    ⟨v.markMade, exec_tickEvent_of_stepped hstage, markMade_made hstage⟩⟩
  obtain ⟨requests, slots⟩ := tickClosed_requests hjoin hmiss
  exact ⟨s.tickClosed, exec_captureComplete_of_closing hs, tickClosed_frame s, head_tickClosed hjoin hmiss,
    fun h => buffer_tickClosed, tickClosed_bytes hjoin hmiss, requests, slots, (tickClosed_completed hjoin hmiss).idle,
    (tickClosed_raised hjoin hmiss).2, fun c => tickClosed_other_pending hjoin hmiss, tickClosed_answer_pending hjoin hmiss,
    tickClosed_trace_pending hjoin hmiss, tickClosed_head_pending hjoin hmiss, exec_periodEnd_within hs⟩

/-! ## The first tick event of a run -/

/-- The channels take a new period (R53). -/
theorem openForPeriod_channel (s : State) (h : Fin 12) : s.openForPeriod.channel h =
    if (s.head h).state = .off then { s.channel h with cutNote := false }
    else { (s.channel h).opened false false with cutNote := false } := by
  obtain ⟨u, hu, he⟩ := foldl_allHeads_at (fun t => (t.head h, t.channel h)) (fun t h =>
      if (t.head h).state = .off then t.setChannel h { t.channel h with cutNote := false }
      else t.setChannel h { (t.channel h).opened false false with cutNote := false }) h (fun t g hg => by
    dsimp only
    split <;> simp [channel_setChannel_ne _ _ _ _ hg]) s
  obtain ⟨hhead, hchannel⟩ := Prod.ext_iff.mp hu
  have channel := congrArg Prod.snd he
  dsimp only at hhead hchannel channel
  rw [State.openForPeriod, channel, ← hhead, ← hchannel]
  split <;> simp

theorem beginPeriod_period (s : State) (fresh : Bool) : (s.beginPeriod fresh).period = Period.begin s.clock s.periodP fresh := by
  simp [State.beginPeriod]

theorem beginPeriod_channel (s : State) (fresh : Bool) (h : Fin 12) : (s.beginPeriod fresh).channel h =
    if (s.head h).state = .off then { s.channel h with cutNote := false }
    else { (s.channel h).opened false false with cutNote := false } := openForPeriod_channel { s with period := _ } h

/-- The state in which a run's first tick event begins its period: the clock has stepped and no tick was closed (R41, R44). -/
def State.firstSecond (s : State) : State := { s with stage := .secondClosed false, clock := s.clock.step }

/-- The state past the clock step of a run's first tick event. -/
def State.firstStepped (s : State) : State := (s.firstSecond.beginPeriod true).atStage .stepped

theorem firstStepped_frame (s : State) : s.firstStepped =
    { s with stage := .stepped, clock := s.clock.step, period := s.firstStepped.period, channels := s.firstStepped.channels } := by
  apply State.eq_of_fields <;> simp [State.firstStepped, State.firstSecond, State.atStage]

theorem firstStepped_period (s : State) : s.firstStepped.period = Period.begin s.clock.step (periodLength s.live) true := by
  rw [State.firstStepped, atStage_period, beginPeriod_period]
  rfl

theorem firstStepped_channel (s : State) (h : Fin 12) : s.firstStepped.channel h =
    if (s.head h).state = .off then { s.channel h with cutNote := false }
    else { (s.channel h).opened false false with cutNote := false } := by
  rw [State.firstStepped, channel_atStage, beginPeriod_channel]
  rfl

theorem first_periodStage {s : State} (hs : Measuring s) (hfirst : s.link.tickOpen = none) :
    s.beginTick.finishClose.periodStage = s.firstStepped := by
  obtain ⟨⟨hidle, hreset⟩, hrun⟩ := hs
  have begun : s.beginTick = s.atStage (.secondClosed false) := by
    simp [State.beginTick, hidle, State.timerRuns, hreset, hrun, hfirst, State.atStage]
  have closed : (s.atStage (.secondClosed false)).finishClose = s.atStage (.secondClosed false) := finishClose_of_closeDone rfl
  rw [begun, closed]
  simp [State.periodStage, hfirst, State.firstStepped, State.firstSecond, State.atStage]

/-- Settles O17: with no tick open the tick event begins at the clock step, and goes on to its mark from there. -/
theorem firstTickBeginsShortPeriod : Obligations.FirstTickBeginsShortPeriod := by
  intro s hs hfirst
  have stepped := first_periodStage hs hfirst
  have frame := firstStepped_frame s
  have clock : s.firstStepped.clock = s.clock.step := by rw [frame]
  have stage : s.firstStepped.stage = .stepped := rfl
  have periodEnd : exec .periodEnd s = .next s.firstStepped := by rw [exec_periodEnd hs.2, stepped]
  have finished : s.beginTick.finishTick = s.firstStepped.markMade := by
    rw [State.finishTick, stepped, markStage_of_stepped stage, calibrationStage_of_marked rfl, State.markMade]
  refine ⟨s.firstStepped, periodEnd, frame, ?_, fun h hoff => ?_, fun h hon => ?_, s.firstStepped.markMade,
    congrArg Host.Outcome.next finished, exec_tickEvent_of_stepped stage, markMade_made stage⟩
  · rw [firstStepped_period, clock]
    rfl
  · rw [firstStepped_channel, if_pos hoff]
  · rw [firstStepped_channel, if_neg hon]
    rfl

end Sys2Proof.Machine
end

section
/-! PROOFS. Live pages written (R60, R114, R115): what stands in the store once the pages of all heads and receptors are written. -/

namespace Sys2Proof.Machine

open Sys2Proof

/-! ## Runs of words of one length, side by side -/

section Runs

variable {ι : Type} {addr : ι → Nat} {n : Nat}

/-- The runs at different places do not overlap. -/
def RunsApart (addr : ι → Nat) (n : Nat) : Prop := ∀ i j, i ≠ j → addr i + 2 * n ≤ addr j ∨ addr j + 2 * n ≤ addr i

/-- A memory with the run of each place written. -/
def Mem.writeRuns (m : Mem) (addr : ι → Nat) (ws : ι → List Word) (l : List ι) : Mem :=
  l.foldl (fun m i => m.writeWords (addr i) (ws i)) m

variable {ws : ι → List Word} (hlen : ∀ i, (ws i).length = n)
include hlen

theorem read_writeRuns_outside (m : Mem) (l : List ι) {a : Nat} (ha : ∀ i ∈ l, a < addr i ∨ addr i + 2 * n ≤ a) :
    (Mem.writeRuns m addr ws l).read a = m.read a :=
  List.foldlRecOn (motive := fun m' : Mem => m'.read a = m.read a) l _ rfl fun m' hm' i hi => by
    rw [read_writeWords_outside _ _ _ _ (by rw [hlen]; exact ha i hi), hm']

theorem readWord_writeRuns (hapart : RunsApart addr n) (m : Mem) {l : List ι}
    (hbound : ∀ i ∈ l, addr i + 2 * n ≤ Config.storeBytes) (hl : l.Nodup) {i : ι} (hi : i ∈ l) {k : Nat} (hk : k < (ws i).length) :
    (Mem.writeRuns m addr ws l).readWord (addr i + 2 * k) = (ws i)[k] := by
  obtain ⟨before, after, rfl⟩ := List.append_of_mem hi
  obtain ⟨-, hafter, -⟩ := List.nodup_append.mp hl
  have hlength := hlen i
  have later : ∀ a, addr i ≤ a → a < addr i + 2 * n → ∀ m' : Mem, (Mem.writeRuns m' addr ws after).read a = m'.read a :=
    fun a hlow hhigh m' => read_writeRuns_outside hlen m' after fun j hj => by
      have := hapart i j (ne_of_mem_of_not_mem hj (List.nodup_cons.mp hafter).1).symm
      omega
  have split : Mem.writeRuns m addr ws (before ++ i :: after) =
      Mem.writeRuns ((Mem.writeRuns m addr ws before).writeWords (addr i) (ws i)) addr ws after := by
    simp [Mem.writeRuns, List.foldl_append]
  rw [split, ← readWord_writeWords (Mem.writeRuns m addr ws before) (addr i) k (ws i) hk (by have := hbound i hi; omega)]
  simp only [Mem.readWord]
  rw [later _ (by omega) (by omega), later _ (by omega) (by omega)]

end Runs

/-! ## The pages -/

/-- The state with these pages written. -/
def State.pokePages (s : State) (head : Fin 12 → List Word) (receptor : Nat → List Word) : State :=
  { s with store := Mem.writeRuns (Mem.writeRuns s.store headPageAddr head allHeads) receptorPageAddr receptor (List.range 6) }

theorem foldl_pokeWords {ι : Type} (addr : ι → Nat) (words : State → ι → List Word)
    (hwords : ∀ (s : State) (m : Mem) i, words { s with store := m } i = words s i) (l : List ι) (s : State) :
    l.foldl (fun t i => t.pokeWords (addr i) (words t i)) s =
      { s with store := Mem.writeRuns s.store addr (words s) l } := by
  induction l generalizing s with
  | nil => rfl
  | cons i l ih =>
    have same : words (s.pokeWords (addr i) (words s i)) = words s := funext fun j => hwords s _ j
    rw [List.foldl_cons, ih, same]
    rfl

theorem writePages_eq (s : State) (st : Stamp) :
    s.writePages st = s.pokePages (fun h => s.headPage h st) (fun r => s.receptorPage r st) := by
  unfold State.writePages
  dsimp only
  rw [foldl_pokeWords headPageAddr (fun t h => t.headPage h st) (fun _ _ _ => rfl),
    foldl_pokeWords receptorPageAddr (fun t r => t.receptorPage r st) (fun _ _ _ => rfl)]
  rfl

theorem writeClosedPages_eq (s : State) (st : Stamp) :
    s.writeClosedPages st = s.pokePages (fun _ => closedHeadPage st) (fun _ => closedReceptorPage st) := by
  unfold State.writeClosedPages
  dsimp only
  rw [foldl_pokeWords headPageAddr (fun _ _ => closedHeadPage st) (fun _ _ _ => rfl),
    foldl_pokeWords receptorPageAddr (fun _ _ => closedReceptorPage st) (fun _ _ _ => rfl)]
  rfl

section Pages

variable (s : State) {head : Fin 12 → List Word} {receptor : Nat → List Word} (hhead : ∀ h, (head h).length = 16)
  (hreceptor : ∀ r, (receptor r).length = 8)
include hhead hreceptor

theorem pokePages_bytes : BytesKept s (s.pokePages head receptor) [pageBytes] := by
  intro a ha
  have outside := ha _ List.mem_cons_self
  simp only [pageBytes] at outside
  refine (read_writeRuns_outside hreceptor _ _ fun r hr => ?_).trans (read_writeRuns_outside hhead _ _ fun h _ => ?_)
  · have := List.mem_range.mp hr
    simp only [receptorPageAddr, Config.receptorPageBase]
    omega
  · have := h.isLt
    simp only [headPageAddr, Config.headPageBase]
    omega

omit hhead in
theorem pokePages_receptor {r : Nat} (hr : r < 6) : HoldsWords (s.pokePages head receptor) (receptorPageAddr r) (receptor r) := by
  intro k hk
  exact readWord_writeRuns (addr := receptorPageAddr) hreceptor (fun i j hij => by
      simp only [receptorPageAddr]
      omega) _ (fun i hi => by
      have := List.mem_range.mp hi
      simp only [receptorPageAddr, Config.receptorPageBase, Config.storeBytes]
      omega) List.nodup_range (List.mem_range.mpr hr) hk

theorem pokePages_head (h : Fin 12) : HoldsWords (s.pokePages head receptor) (headPageAddr h) (head h) := by
  intro k hk
  have length := hhead h
  have hval := h.isLt
  have stored := readWord_writeRuns (addr := headPageAddr) hhead (fun i j hij => by
      have := Fin.val_ne_of_ne hij
      simp only [headPageAddr]
      omega) s.store (fun i _ => by
      have := i.isLt
      simp only [headPageAddr, Config.headPageBase, Config.storeBytes]
      omega) nodup_allHeads (mem_allHeads h) hk
  have kept : ∀ a < 0x0980, (s.pokePages head receptor).store.read a =
      (Mem.writeRuns s.store headPageAddr head allHeads).read a := fun a ha =>
    read_writeRuns_outside hreceptor _ _ fun r _ => .inl (by simp only [receptorPageAddr, Config.receptorPageBase]; omega)
  rw [← stored]
  simp only [headPageAddr, Config.headPageBase, State.peekWord, Mem.readWord]
  rw [kept _ (by omega), kept _ (by omega)]

end Pages

theorem length_closedHeadPage (st : Stamp) : (closedHeadPage st).length = 16 := rfl

theorem length_closedReceptorPage (st : Stamp) : (closedReceptorPage st).length = 8 := rfl

theorem writeClosedPages_closed (s : State) (st : Stamp) : PagesClosed (s.writeClosedPages st) st := by
  rw [writeClosedPages_eq]
  exact ⟨fun h => pokePages_head s (fun _ => length_closedHeadPage st) (fun _ => length_closedReceptorPage st) h,
    fun r hr => pokePages_receptor s (fun _ => length_closedReceptorPage st) hr⟩

theorem writeClosedPages_bytes (s : State) (st : Stamp) : BytesKept s (s.writeClosedPages st) [pageBytes] := by
  rw [writeClosedPages_eq]
  exact pokePages_bytes s (fun _ => length_closedHeadPage st) fun _ => length_closedReceptorPage st

/-! ## Words kept -/

theorem HoldsWords.kept {s t : State} {a : Nat} {ws : List Word} (hs : HoldsWords s a ws)
    (hst : ∀ b, a ≤ b → b < a + 2 * ws.length → t.store.read b = s.store.read b) : HoldsWords t a ws := by
  intro i hi
  rw [← hs i hi, State.peekWord, State.peekWord, Mem.readWord, Mem.readWord, hst _ (by omega) (by omega),
    hst _ (by omega) (by omega)]

/-- Pages stand as long as no byte of theirs is written. -/
theorem headPage_kept {s t : State} {h : Fin 12} {ws : List Word} (hlen : ws.length = 16) (hs : HoldsWords s (headPageAddr h) ws)
    (hst : ∀ a, 0x0800 ≤ a → a < 0x09E0 → t.store.read a = s.store.read a) : HoldsWords t (headPageAddr h) ws := by
  have := h.isLt
  refine hs.kept fun b hlow hhigh => ?_
  simp only [headPageAddr, Config.headPageBase] at hlow hhigh
  exact hst b (by omega) (by omega)

theorem receptorPage_kept {s t : State} {r : Nat} (hr : r < 6) {ws : List Word} (hlen : ws.length = 8)
    (hs : HoldsWords s (receptorPageAddr r) ws) (hst : ∀ a, 0x0800 ≤ a → a < 0x09E0 → t.store.read a = s.store.read a) :
    HoldsWords t (receptorPageAddr r) ws := by
  refine hs.kept fun b hlow hhigh => ?_
  simp only [receptorPageAddr, Config.receptorPageBase] at hlow hhigh
  exact hst b (by omega) (by omega)

theorem PagesClosed.kept {s t : State} {st : Stamp} (hs : PagesClosed s st)
    (hst : ∀ a, 0x0800 ≤ a → a < 0x09E0 → t.store.read a = s.store.read a) : PagesClosed t st :=
  ⟨fun h => headPage_kept (length_closedHeadPage st) (hs.1 h) hst,
    fun r hr => receptorPage_kept hr (length_closedReceptorPage st) (hs.2 r hr) hst⟩

end Sys2Proof.Machine
end

section
/-! PROOFS. The CUT end of a period (R46, R47, R53, R62, R105, R106, R127, R139): the channels closed, the latches cleared, a pending
adoption carried out, a pending clock setting applied. -/

namespace Sys2Proof.Machine

open Sys2Proof

/-! ## Folds that are nothing beside their own blocks -/

theorem foldl_besides {ι : Type} {f : State → ι → State} (hf : ∀ s i, Besides s (f s i) [] []) (l : List ι) (s : State) :
    Besides s (l.foldl f s) [] [] :=
  List.foldlRecOn (motive := fun t => Besides s t [] []) l _ (.refl s) fun t ht i _ => ht.andThen (hf t i)

theorem Besides.of_eq {s t : State} (hrequests : t.requests = s.requests) (hstore : t.store = s.store)
    (hnotices : t.notices = s.notices) : Besides s t [] [] := (Effects.none hrequests hstore hnotices).besides

/-! ## The channels closed -/

/-- A channel after a period end at which it was closed or had no period (R53, R62, R67). -/
def Channel.ended (ch : Channel) : Channel := if ch.isOpen then { ch.closed with sequence := ch.sequence + 1 } else ch

section Ended

variable (s : State) (cut : Bool) (actual : Nat)

theorem closeChannels_channel (h : Fin 12) : (s.closeChannels cut actual).channel h = (s.channel h).ended := by
  obtain ⟨u, hu, he⟩ := foldl_allHeads_at (fun t => t.channel h)
    (fun t h => if (t.channel h).isOpen then t.closeChannel h cut actual else t) h (fun t g hg => by
      split
      · exact (closeChannel_keeps_other cut actual t hg).channel
      · rfl) s
  have channel : (s.closeChannels cut actual).channel h =
      (if (u.channel h).isOpen then u.closeChannel h cut actual else u).channel h := he
  rw [channel, ← hu, Channel.ended]
  split
  · rw [closeChannel_channel]
  · rfl

theorem closeChannels_besides : Besides s (s.closeChannels cut actual) [] [] :=
  foldl_besides (fun t h => by
    split
    · exact closeChannel_besides t h cut actual
    · exact .refl t) allHeads s

end Ended

/-! ## The latches cleared -/

/-- A rule's items with its latches cleared (R127). -/
def RuleState.unlatched (x : RuleState) : RuleState := { x with instLatch := false, certLatch := false }

theorem clearLatches_rule (s : State) (n : Fin 24) : s.clearLatches.rule n = (s.rule n).unlatched := by
  obtain ⟨u, hu, he⟩ := (foldl_at (fun t : State => t.rule n)
    (fun t k => t.setRule k { t.rule k with instLatch := false, certLatch := false }) n (fun t k hk => by
      dsimp only
      rw [rule_setRule, if_neg hk]) allRules (List.nodup_finRange 24) s).2 (List.mem_finRange n)
  dsimp only at hu he
  rw [State.clearLatches, he, rule_setRule, if_pos rfl, hu]
  rfl

/-! ## A CUT end before its adoption -/

/-- The state past a CUT end, before a pending adoption is carried out. -/
def State.periodCut (s : State) (actual : Nat) : State :=
  { (s.closeChannels true actual).clearLatches with period := { s.period with isOpen := false } }

theorem endPeriod_cut (s : State) (actual : Nat) (closed : Clock) :
    s.endPeriod .cut actual closed = (s.periodCut actual).completeAdoption .cut := by
  simp [State.endPeriod, State.periodCut]

section PeriodCut

variable (s : State) (actual : Nat)

theorem periodCut_channel (h : Fin 12) : (s.periodCut actual).channel h = (s.channel h).ended := by
  have channels : (s.periodCut actual).channels = (s.closeChannels true actual).channels := by simp [State.periodCut]
  rw [← closeChannels_channel s true actual h, State.channel, State.channel, channels]

theorem periodCut_rule (n : Fin 24) : (s.periodCut actual).rule n = (s.rule n).unlatched := by
  have before : (s.closeChannels true actual).rule n = s.rule n := by simp [State.rule]
  have after : (s.periodCut actual).rules = (s.closeChannels true actual).clearLatches.rules := by simp only [State.periodCut]
  rw [← before, ← clearLatches_rule, State.rule, State.rule, after]

theorem periodCut_besides : Besides s (s.periodCut actual) [] [] :=
  (closeChannels_besides s true actual).andThen (.of_eq (by simp [State.periodCut]) (by simp [State.periodCut])
    (by simp [State.periodCut]))

theorem periodCut_writes : PartWrites s.store (s.periodCut actual).store := by
  simpa [State.periodCut] using closeChannels_writes s true actual

theorem periodCut_handing {u : State} (hkept : ∀ h, RecordKept u s h ∧ (s.channel h).isOpen = (u.channel h).isOpen)
    {aside : List (Nat × Nat)} (hus : Handing u s [] true actual aside) :
    Handing u (s.periodCut actual) (openHeads u) true actual aside := by
  have closed := closeChannels_handing hkept true actual hus
  have rest : Effects (s.closeChannels true actual) (s.periodCut actual) [] [] :=
    .none (by simp [State.periodCut]) (by simp [State.periodCut]) (by simp [State.periodCut])
  simpa using rest.handing (by simp [State.periodCut]) (by simp) closed

end PeriodCut

/-! ## A pending adoption carried out -/

/-- The classes that an operation raises when it answers a request that waits, if there is one. -/
def answerClass {α : Type} (x : Option α) : List NoticeClass := if x.isSome then [.answer] else []

theorem record_not_mem_answerClass {α : Type} (x : Option α) : .record ∉ answerClass x := by
  unfold answerClass
  split <;> simp

theorem staged_congr {s t : State} (hst : ∀ a < 0x0800, t.store.read a = s.store.read a) : t.staged = s.staged := by
  unfold State.staged
  refine List.map_congr_left fun i hi => peekWord_of_settings hst ?_
  have := List.mem_range.mp hi
  simp only [Config.stagedBase]
  omega

section Adoption

variable (s : State) (kind : EndKind)

theorem completeAdoption_of_none (hnone : s.adoption = none) : s.completeAdoption kind = s := by
  simp [State.completeAdoption, hnone]

variable {s} {n : Fin 8}

/-- The reply to a request for adoption (R105). -/
theorem completeAdoption_of_some (hsome : s.adoption = some n) : s.completeAdoption kind =
    State.answer { s.adopt with adoption := none } n .done 0
      ([setWord s.staged 0, setWord s.staged 1, word kind.code, s.clock.day] ++ words32 s.clock.second) := by
  have lengthWord : word (lengthCode s.staged) = setWord s.staged 1 := by simp [lengthCode, word]
  rw [← lengthWord]
  simp only [State.completeAdoption, hsome]
  rfl

theorem completeAdoption_holds (hsome : s.adoption = some n) : HoldsAnswer (s.completeAdoption kind) n (s.slot n).postMark .done 0
    ([setWord s.staged 0, setWord s.staged 1, word kind.code, s.clock.day] ++ words32 s.clock.second) := by
  rw [completeAdoption_of_some kind hsome]
  exact answer_holds { s.adopt with adoption := none } n .done 0 _

variable (s)

theorem completeAdoption_effects : Effects s (s.completeAdoption kind) s.adoption.toList (answerClass s.adoption) := by
  cases ha : s.adoption with
  | none =>
    rw [completeAdoption_of_none s kind ha]
    exact .none rfl rfl rfl
  | some n =>
    rw [completeAdoption_of_some kind ha]
    exact Effects.after ⟨answer_answers .., answer_raises ..⟩ (.none rfl rfl rfl)

theorem completeAdoption_live : (s.completeAdoption kind).live = if s.adoption.isSome then s.staged else s.live := by
  cases ha : s.adoption with
  | none => rw [completeAdoption_of_none s kind ha]; rfl
  | some n => rw [completeAdoption_of_some kind ha]; rfl

theorem completeAdoption_adoption : (s.completeAdoption kind).adoption = none := by
  cases ha : s.adoption with
  | none => rw [completeAdoption_of_none s kind ha, ha]
  | some n => rw [completeAdoption_of_some kind ha]; rfl

theorem completeAdoption_rule (r : Fin 24) :
    (s.completeAdoption kind).rule r = if s.adoption.isSome then RuleState.clear else s.rule r := by
  cases ha : s.adoption with
  | none => rw [completeAdoption_of_none s kind ha]; rfl
  | some n =>
    rw [completeAdoption_of_some kind ha, rule_answer_keep]
    exact rule_adopt s r

end Adoption

/-! ## A pending clock setting applied -/

section Setting

variable (s : State)

theorem applySetting_of_none (hnone : s.clockSetting = none) : s.applySetting = s := by
  simp [State.applySetting, hnone]

variable {s} {x : ClockSetting}

theorem applySetting_of_some (hsome : s.clockSetting = some x) : s.applySetting =
    State.answer { s with clock := Clock.setTo x.day x.second x.weekday, clockSetting := none } x.slot .done 0
      (clockReply s.clock) := by
  simp [State.applySetting, hsome]

theorem applySetting_holds (hsome : s.clockSetting = some x) : s.applySetting.clock = Clock.setTo x.day x.second x.weekday ∧
    HoldsAnswer s.applySetting x.slot (s.slot x.slot).postMark .done 0 (clockReply s.clock) := by
  rw [applySetting_of_some hsome]
  exact ⟨rfl, answer_holds { s with clock := Clock.setTo x.day x.second x.weekday, clockSetting := none } x.slot .done 0 _⟩

variable (s)

theorem applySetting_setting : s.applySetting.clockSetting = none := by
  cases hx : s.clockSetting with
  | none => rw [applySetting_of_none s hx, hx]
  | some x => rw [applySetting_of_some hx]; rfl

theorem applySetting_effects :
    Effects s s.applySetting (s.clockSetting.map ClockSetting.slot).toList (answerClass s.clockSetting) := by
  cases hx : s.clockSetting with
  | none =>
    rw [applySetting_of_none s hx]
    exact .none rfl rfl rfl
  | some x =>
    rw [applySetting_of_some hx]
    exact Effects.after ⟨answer_answers .., answer_raises ..⟩ (.none rfl rfl rfl)

end Setting

end Sys2Proof.Machine
end

section
/-! PROOFS. The heads at STOP and PARK (R33, R34, R72, R73, R176): every head goes OFF, an ACTIVE one with its calibration ended. -/

namespace Sys2Proof.Machine

open Sys2Proof

/-! ## A head that leaves ACTIVE at STOP or PARK -/

/-- The state past a head's leaving ACTIVE at STOP or PARK, when it was ACTIVE (R34). -/
def State.leftAtStop (s : State) (h : Fin 12) : State := if (s.head h).state = .active then s.leaveAtStop h else s

/-- The slots that STOP and PARK answer for head h, and the classes they raise (R72, R73). -/
def State.stopSlots (s : State) (h : Fin 12) : List (Fin 8) := if (s.head h).state = .active then s.calibrationSlot h else []

def State.stopClasses (s : State) (h : Fin 12) : List NoticeClass :=
  if (s.head h).state = .active then s.calibrationClass h else []

theorem leaveAtStop_of_due {s : State} {h : Fin 12} (hdue : s.calibrationDue h = true) :
    s.leaveAtStop h = (s.completeCalibration h).forgetActive h := if_pos hdue

theorem leaveAtStop_of_waiting {s : State} {h : Fin 12} (hdue : s.calibrationDue h = false) :
    s.leaveAtStop h = (s.abortCalibration h .stopped).forgetActive h := by
  simp [State.leaveAtStop, hdue, State.leaveActive]

theorem closed_forgotten_trimmed (ch : Channel) (b : Bool) : (ch.trimmed b).forgotten.closed = ch.forgotten.closed := by
  cases b <;> rfl

section Left

variable (s : State) (h : Fin 12)

theorem leftAtStop_of_active {s : State} {h : Fin 12} (hstate : (s.head h).state = .active) :
    s.leftAtStop h = s.leaveAtStop h := if_pos hstate

theorem leftAtStop_of_other {s : State} {h : Fin 12} (hstate : (s.head h).state ≠ .active) : s.leftAtStop h = s := if_neg hstate

theorem leaveAtStop_effects : Effects s (s.leaveAtStop h) (s.calibrationSlot h) (s.calibrationClass h) := by
  cases hdue : s.calibrationDue h with
  | true =>
    have completed := completeCalibration_effects s h
    simp only [State.dueSlots, State.dueClasses, hdue, if_true] at completed
    rw [leaveAtStop_of_due hdue]
    exact completed.andThen (forgetActive_effects _ h)
  | false =>
    rw [leaveAtStop_of_waiting hdue]
    exact (abortCalibration_effects s h .stopped).andThen (forgetActive_effects _ h)

theorem leftAtStop_effects : Effects s (s.leftAtStop h) (s.stopSlots h) (s.stopClasses h) := by
  unfold State.leftAtStop State.stopSlots State.stopClasses
  split
  · exact leaveAtStop_effects s h
  · exact .none rfl rfl rfl

/-- The entries of a head past its leaving ACTIVE: a completed measurement sets the trim (R72), an early end does not (R73). -/
theorem leaveAtStop_own :
    (s.leaveAtStop h).head h = { s.head h with trim := (calibratedTrim s h).getD (s.head h).trim } ∧
    ((s.leaveAtStop h).channel h).closed = (s.channel h).forgotten.closed ∧ (s.leaveAtStop h).calibration h = none := by
  obtain ⟨head, channel, calibration⟩ := completeCalibration_own s h
  cases hdue : s.calibrationDue h with
  | true =>
    rw [leaveAtStop_of_due hdue, forgetActive_channel, forgetActive_calibration, channel, calibration, hdue,
      closed_forgotten_trimmed, ← head]
    exact ⟨by simp [State.head], rfl, rfl⟩
  | false =>
    rw [leaveAtStop_of_waiting hdue, forgetActive_channel, forgetActive_calibration, calibration_abortCalibration,
      calibratedTrim_of_waiting hdue]
    exact ⟨by simp [State.head], by simp [State.channel], by simp⟩

theorem leaveAtStop_trace : (s.leaveAtStop h).trace =
    { s.trace with mode := s.trace.mode.departing fun g => decide (g = h.val) } := by
  cases hdue : s.calibrationDue h with
  | true => simp [leaveAtStop_of_due hdue, forgetActive_trace]
  | false => simp [leaveAtStop_of_waiting hdue, forgetActive_trace]

theorem leftAtStop_keeps_other {g : Fin 12} (hne : g ≠ h) : OwnKept s (s.leftAtStop g) h := by
  unfold State.leftAtStop
  split
  · cases hdue : s.calibrationDue g with
    | true =>
      rw [leaveAtStop_of_due hdue]
      exact (completeCalibration_keeps_other s h hne).trans (forgetActive_keeps_other _ hne)
    | false =>
      rw [leaveAtStop_of_waiting hdue]
      exact (abortCalibration_keeps_other s hne .stopped).trans (forgetActive_keeps_other _ hne)
  · exact .refl s h

variable {s h} {c : Calibration} (hc : s.calibration h = some c)
include hc

/-- A calibration that STOP or PARK ends early is answered ABORTED with reason STOPPED (R73). -/
theorem leaveAtStop_holds_aborted (hcount : c.count < 128) : HoldsAnswer (s.leaveAtStop h) c.slot (s.slot c.slot).postMark
    .aborted 3 [0xFFFF, intWord (s.head h).trim, intWord (s.head h).trim, word c.count] := by
  have waiting : s.calibrationDue h = false := by rw [calibrationDue_of_some hc]; simpa using hcount
  rw [leaveAtStop_of_waiting waiting]
  exact (abortCalibration_holds hc .stopped).kept (forgetActive_keeps_slot ..)

theorem leaveAtStop_holds_completed (hcount : 128 ≤ c.count) : HoldsAnswer (s.leaveAtStop h) c.slot (s.slot c.slot).postMark
    (if (calibratedTrim s h).isSome then .done else .outOfRange) 0
    [word (rawLevel (c.sum.toNat / 128)), intWord (s.head h).trim, intWord ((calibratedTrim s h).getD (s.head h).trim),
      word c.count] := by
  rw [leaveAtStop_of_due (calibrationDue_iff.mpr ⟨c, hc, hcount⟩)]
  exact (completeCalibration_holds s h hc hcount).kept (forgetActive_keeps_slot ..)

end Left

/-! ## The head at STOP or PARK -/

/-- The state past one head's going OFF at STOP or PARK, when it was not OFF (R33, R176). -/
def State.offAtStop (s : State) (h : Fin 12) : State :=
  ((s.leftAtStop h).setHead h (((s.leftAtStop h).head h).restarted .off)).setChannel h ((s.leftAtStop h).channel h).closed

section Stop

variable (s : State) (h : Fin 12)

theorem stopHead_of_off {s : State} {h : Fin 12} (hoff : (s.head h).state = .off) : s.stopHead h = s := if_pos hoff

theorem stopHead_of_on {s : State} {h : Fin 12} (hon : (s.head h).state ≠ .off) : s.stopHead h = s.offAtStop h := if_neg hon

theorem offAtStop_effects : Effects s (s.offAtStop h) (s.stopSlots h) (s.stopClasses h) :=
  (leftAtStop_effects s h).andThen ((setHead_effects _ h _).andThen (setChannel_effects _ h _))

theorem stopHead_effects : Effects s (s.stopHead h) (s.stopSlots h) (s.stopClasses h) := by
  by_cases hoff : (s.head h).state = .off
  · rw [stopHead_of_off hoff]
    simpa [State.stopSlots, State.stopClasses, hoff] using Effects.none (s := s) rfl rfl rfl
  · rw [stopHead_of_on hoff]
    exact offAtStop_effects s h

/-- The trim that a head has past STOP or PARK (R72). -/
def State.stoppedTrim : Int :=
  if (s.head h).state = .active then (calibratedTrim s h).getD (s.head h).trim else (s.head h).trim

theorem offAtStop_own :
    (s.offAtStop h).head h =
      { s.head h with state := .off, join := 0, miss := 0, returning := false, trim := s.stoppedTrim h } ∧
    (s.offAtStop h).channel h =
      (if (s.head h).state = .active then (s.channel h).forgotten else s.channel h).closed ∧
    (s.offAtStop h).calibration h = if (s.head h).state = .active then none else s.calibration h := by
  have calibration : (s.offAtStop h).calibration h = (s.leftAtStop h).calibration h := rfl
  rw [calibration]
  unfold State.offAtStop State.stoppedTrim
  rw [head_setChannel_keep, head_setHead_same, channel_setChannel_same]
  by_cases hstate : (s.head h).state = .active
  · obtain ⟨head, channel, ended⟩ := leaveAtStop_own s h
    simp only [leftAtStop_of_active hstate, if_pos hstate, head, channel, ended]
    exact ⟨rfl, trivial, trivial⟩
  · simp only [leftAtStop_of_other hstate, if_neg hstate]
    exact ⟨rfl, trivial, trivial⟩

theorem stopHead_trace : (s.stopHead h).trace =
    { s.trace with mode := s.trace.mode.departing fun g => decide ((s.head h).state = .active) && decide (g = h.val) } := by
  have off : (s.offAtStop h).trace = (s.leftAtStop h).trace := rfl
  by_cases hstate : (s.head h).state = .active
  · rw [stopHead_of_on (by simp [hstate]), off, leftAtStop_of_active hstate, leaveAtStop_trace]
    simp [hstate]
  · have trace : (s.stopHead h).trace = s.trace := by
      by_cases hoff : (s.head h).state = .off
      · rw [stopHead_of_off hoff]
      · rw [stopHead_of_on hoff, off, leftAtStop_of_other hstate]
    rw [trace]
    simp [hstate, mode_departing_of_none]

/-- The slots that STOP and PARK answer for a head are its calibration's. -/
theorem not_mem_stopSlots {n : Fin 8} {s : State} {h : Fin 12} (hfree : SlotFree s n h) : n ∉ s.stopSlots h := by
  intro hin
  unfold State.stopSlots State.calibrationSlot at hin
  split at hin
  · cases hc : s.calibration h with
    | none => simp [hc] at hin
    | some c => exact hfree c hc (by simpa [hc, eq_comm] using hin)
  · simp at hin

theorem stopHead_keeps_other {g h : Fin 12} (hne : g ≠ h) : OwnKept s (s.stopHead g) h := by
  by_cases hoff : (s.head g).state = .off
  · rw [stopHead_of_off hoff]
    exact .refl s h
  · rw [stopHead_of_on hoff]
    exact ((leftAtStop_keeps_other s h hne).trans (setHead_keeps_other _ hne _)).trans (setChannel_keeps_other _ hne _)

theorem stopHead_from (g : Fin 12) : CalibrationFrom s (s.stopHead g) h := by
  by_cases hne : g = h
  · subst hne
    by_cases hoff : (s.head g).state = .off
    · exact .of_eq (by rw [stopHead_of_off hoff])
    · obtain ⟨-, -, calibration⟩ := offAtStop_own s g
      rw [← stopHead_of_on hoff] at calibration
      by_cases hstate : (s.head g).state = .active
      · exact .of_none (by rw [calibration, if_pos hstate])
      · exact .of_eq (by rw [calibration, if_neg hstate])
  · exact .of_eq (stopHead_keeps_other s hne).calibration

theorem stopHead_headKept (g : Fin 12) (hne : g ≠ h) : HeadKept s (s.stopHead g) h where
  mark := ⟨stopHead_keeps_other s hne, by simp, fun a ha => (stopHead_writes s g).keeps_below a ha⟩
  slot _ hn := ⟨(stopHead_effects s g).answered.kept (not_mem_stopSlots (hn g hne)), fun k hk => (hn k hk).from (stopHead_from s k g)⟩

end Stop

/-! ## All heads at STOP or PARK -/

theorem stopHeads_split (s : State) (h : Fin 12) : ∃ u, HeadKept s u h ∧ HeadKept (u.stopHead h) s.stopHeads h :=
  foldl_allHeads_own (fun s g h hne => stopHead_headKept s h g hne) h s

section StopHeads

variable (s : State)

theorem stopHeads_effects : Effects s s.stopHeads (allHeads.flatMap s.stopSlots) (allHeads.flatMap s.stopClasses) where
  answered := foldl_effects (K := OwnKept) (R := SlotsAnswered) (effect := State.stopSlots)
    (fun s _ _ hne => stopHead_keeps_other s hne) (fun _ => .of_eq rfl rfl) (fun _ _ _ _ _ => .trans)
    (fun s h => (stopHead_effects s h).answered)
    (fun s t h hk => by unfold State.stopSlots; rw [hk.head, hk.calibrationSlot]) nodup_allHeads s
  raised := foldl_effects (K := OwnKept) (R := OnlyRaised) (effect := State.stopClasses)
    (fun s _ _ hne => stopHead_keeps_other s hne) (fun _ => .of_notices rfl) (fun _ _ _ _ _ => .trans)
    (fun s h => (stopHead_effects s h).raised)
    (fun s t h hk => by unfold State.stopClasses; rw [hk.head, hk.calibrationClass]) nodup_allHeads s

/-- Where no capture is in progress the trace unit stays as it is. -/
theorem stopHeads_trace (hidle : ∀ c, s.trace.mode ≠ .capturing c) : s.stopHeads.trace = s.trace :=
  List.foldlRecOn (motive := fun t : State => t.trace = s.trace) allHeads _ rfl fun t ht h _ =>
    ((trace_of_departing (stopHead_trace t h)).1 (by rwa [ht])).trans ht

theorem stopHeads_of_off {h : Fin 12} (hoff : (s.head h).state = .off) :
    s.stopHeads.head h = s.head h ∧ s.stopHeads.channel h = s.channel h := by
  obtain ⟨u, hu, ht⟩ := stopHeads_split s h
  have own := hu.mark.own
  rw [stopHead_of_off (by rw [own.head, hoff])] at ht
  exact ⟨ht.mark.own.head.trans own.head, ht.mark.own.channel.trans own.channel⟩

theorem stopHeads_of_on {h : Fin 12} (hon : (s.head h).state ≠ .off) :
    s.stopHeads.head h =
      { s.head h with state := .off, join := 0, miss := 0, returning := false, trim := s.stoppedTrim h } ∧
    s.stopHeads.channel h = (if (s.head h).state = .active then (s.channel h).forgotten else s.channel h).closed ∧
    s.stopHeads.calibration h = if (s.head h).state = .active then none else s.calibration h := by
  obtain ⟨u, hu, ht⟩ := stopHeads_split s h
  have own := hu.mark.own
  rw [stopHead_of_on (by rw [own.head]; exact hon)] at ht
  obtain ⟨head, channel, calibration⟩ := offAtStop_own u h
  have trim : u.stoppedTrim h = s.stoppedTrim h := by
    unfold State.stoppedTrim
    rw [own.head, calibratedTrim_congr own.calibration]
  rw [own.head, trim] at head
  rw [own.head, own.channel] at channel
  rw [own.head, own.calibration] at calibration
  exact ⟨ht.mark.own.head.trans head, ht.mark.own.channel.trans channel, ht.mark.own.calibration.trans calibration⟩

variable {s} {h : Fin 12} (hstate : (s.head h).state = .active) {c : Calibration} (hc : s.calibration h = some c)
  (helsewhere : SlotsElsewhere s c.slot h)
include hstate hc helsewhere

omit hc in
/-- What a head's leaving answers stands past the going OFF of all heads. -/
theorem stopHeads_holds {code : AnswerCode} {detail : Nat} {reply : List Word}
    (hown : ∀ u, HeadKept s u h → HoldsAnswer (u.leaveAtStop h) c.slot (s.slot c.slot).postMark code detail reply) :
    HoldsAnswer s.stopHeads c.slot (s.slot c.slot).postMark code detail reply := by
  obtain ⟨u, hu, ht⟩ := stopHeads_split s h
  have active : (u.head h).state = .active := by rw [hu.mark.own.head, hstate]
  have off : SlotKept (u.leaveAtStop h) (u.stopHead h) c.slot := by
    rw [stopHead_of_on (by rw [active]; simp), State.offAtStop, leftAtStop_of_active active]
    exact (setHead_keeps_slot ..).trans (setChannel_keeps_slot ..)
  obtain ⟨-, free⟩ := hu.slot c.slot helsewhere
  obtain ⟨toEnd, -⟩ := ht.slot c.slot fun k hk => (free k hk).from (stopHead_from u k h)
  exact ((hown u hu).kept off).kept toEnd

theorem stopHeads_holds_aborted (hcount : c.count < 128) : HoldsAnswer s.stopHeads c.slot (s.slot c.slot).postMark .aborted 3
    [0xFFFF, intWord (s.head h).trim, intWord (s.head h).trim, word c.count] :=
  stopHeads_holds hstate helsewhere fun u hu => by
    have own := leaveAtStop_holds_aborted (hu.mark.own.calibration.trans hc) hcount
    rwa [(hu.slot c.slot helsewhere).1.slot, hu.mark.own.head] at own

theorem stopHeads_holds_completed (hcount : 128 ≤ c.count) : HoldsAnswer s.stopHeads c.slot (s.slot c.slot).postMark
    (if (calibratedTrim s h).isSome then .done else .outOfRange) 0
    [word (rawLevel (c.sum.toNat / 128)), intWord (s.head h).trim, intWord ((calibratedTrim s h).getD (s.head h).trim),
      word c.count] :=
  stopHeads_holds hstate helsewhere fun u hu => by
    have own := leaveAtStop_holds_completed (hu.mark.own.calibration.trans hc) hcount
    rwa [(hu.slot c.slot helsewhere).1.slot, hu.mark.own.head, calibratedTrim_congr hu.mark.own.calibration] at own

end StopHeads

end Sys2Proof.Machine
end

section
/-! PROOFS. What STOP and PARK do to a run once its tick is abandoned and its trace is stopped (R46, R50, R106, R116, R139, R172, R173,
R176): the CUT end, the requests that wait, the heads, the pages. -/

namespace Sys2Proof.Machine

open Sys2Proof

/-! ## The CUT end -/

/-- The heads whose records a CUT end hands over: those of the open channels, when a period is open (R46). -/
def cutHeads (s : State) : List (Fin 12) := if s.period.isOpen then openHeads s else []

/-- The state past the CUT end of a period that is open (R46). -/
def State.cutOpen (s : State) : State := if s.period.isOpen then s.periodCut (actualLength s.period s.clock) else s

/-- A channel past that end. -/
def State.cutChannel (s : State) (h : Fin 12) : Channel := if s.period.isOpen then (s.channel h).ended else s.channel h

/-- A rule's items past that end (R116, R127). -/
def State.cutRule (s : State) (r : Fin 24) : RuleState := if s.period.isOpen then (s.rule r).unlatched else s.rule r

theorem cutForStop_eq (s : State) : s.cutForStop = s.cutOpen.completeAdoption .cut := by
  unfold State.cutForStop State.cutOpen
  split
  · exact endPeriod_cut ..
  · rfl

section CutOpen

variable (s : State)

@[simp] theorem cutOpen_keeps : s.cutOpen.pending = s.pending ∧ s.cutOpen.resetLow = s.resetLow ∧ s.cutOpen.run = s.run ∧
    s.cutOpen.lastClosed = s.lastClosed ∧ s.cutOpen.stage = s.stage ∧ s.cutOpen.clock = s.clock ∧
    s.cutOpen.clockSetting = s.clockSetting ∧ s.cutOpen.link = s.link ∧ s.cutOpen.heads = s.heads ∧
    s.cutOpen.calibrations = s.calibrations ∧ s.cutOpen.live = s.live ∧ s.cutOpen.adoption = s.adoption ∧
    s.cutOpen.events = s.events ∧ s.cutOpen.trace = s.trace ∧ s.cutOpen.requests = s.requests ∧ s.cutOpen.port = s.port := by
  unfold State.cutOpen
  split <;> simp [State.periodCut]

theorem cutOpen_period : s.cutOpen.period = { s.period with isOpen := false } := by
  unfold State.cutOpen
  split
  · rfl
  · next hclosed =>
    have shut : s.period.isOpen = false := by simpa using hclosed
    rw [← shut]

theorem cutOpen_channel (h : Fin 12) : s.cutOpen.channel h = s.cutChannel h := by
  unfold State.cutOpen State.cutChannel
  split
  · exact periodCut_channel ..
  · rfl

theorem cutOpen_rule (r : Fin 24) : s.cutOpen.rule r = s.cutRule r := by
  unfold State.cutOpen State.cutRule
  split
  · exact periodCut_rule ..
  · rfl

theorem cutOpen_besides : Besides s s.cutOpen [] [] := by
  unfold State.cutOpen
  split
  · exact periodCut_besides ..
  · exact .refl s

theorem cutOpen_writes : PartWrites s.store s.cutOpen.store := by
  unfold State.cutOpen
  split
  · exact periodCut_writes ..
  · exact .refl _

theorem cutOpen_handing : Handing s s.cutOpen (cutHeads s) true (actualLength s.period s.clock) [] := by
  unfold State.cutOpen cutHeads
  split
  · exact periodCut_handing _ _ (fun h => ⟨.refl s h, rfl⟩) (.refl ..)
  · exact .refl ..

end CutOpen

/-! ## The requests that wait, the heads, the pages -/

/-- The state past the requests that wait. -/
def State.waitingAnswered (s : State) : State := (s.cutOpen.completeAdoption .cut).applySetting

/-- The state past all of it: the heads OFF and the pages closed. -/
def State.stopped (s : State) : State := s.waitingAnswered.stopHeads.writeClosedPages s.lastClosed

/-- The slots that waiting requests answer (R106, R50). -/
def State.waitingSlots (s : State) : List (Fin 8) := s.adoption.toList ++ (s.clockSetting.map ClockSetting.slot).toList

def State.waitingClasses (s : State) : List NoticeClass := answerClass s.adoption ++ answerClass s.clockSetting

/-- The slots that STOP and PARK answer beside their own (R106, R50, R72, R73). -/
def State.stoppedSlots (s : State) : List (Fin 8) := s.waitingSlots ++ allHeads.flatMap s.stopSlots

def State.stoppedClasses (s : State) : List NoticeClass := s.waitingClasses ++ allHeads.flatMap s.stopClasses

section Stopped

variable (s : State)

theorem waitingAnswered_besides : Besides s s.waitingAnswered s.waitingSlots s.waitingClasses := by
  have adopted := (completeAdoption_effects s.cutOpen .cut).besides
  have applied := (applySetting_effects (s.cutOpen.completeAdoption .cut)).besides
  simp only [cutOpen_keeps] at adopted
  simp only [completeAdoption_frame, cutOpen_keeps] at applied
  exact ((cutOpen_besides s).trans adopted).trans applied

theorem waitingAnswered_handing : Handing s s.waitingAnswered (cutHeads s) true (actualLength s.period s.clock)
    (s.waitingSlots.map answerBytes) := by
  have adopted := (completeAdoption_effects s.cutOpen .cut).handing (by simp) (record_not_mem_answerClass _) (cutOpen_handing s)
  have applied := (applySetting_effects (s.cutOpen.completeAdoption .cut)).handing (by simp) (record_not_mem_answerClass _) adopted
  simp only [completeAdoption_frame, cutOpen_keeps] at applied
  simpa [State.waitingSlots, State.waitingAnswered] using applied

/-- What the heads' going OFF needs is untouched by the CUT end and the requests that wait. -/
theorem waitingAnswered_heads : s.waitingAnswered.heads = s.heads ∧ s.waitingAnswered.calibrations = s.calibrations ∧
    s.waitingAnswered.link = s.link ∧ s.waitingAnswered.lastClosed = s.lastClosed ∧ s.waitingAnswered.trace = s.trace ∧
    s.waitingAnswered.events = s.events ∧ s.waitingAnswered.run = s.run ∧ s.waitingAnswered.stage = s.stage ∧
    s.waitingAnswered.port = s.port ∧ s.waitingAnswered.pending = s.pending ∧ s.waitingAnswered.resetLow = s.resetLow := by
  simp [State.waitingAnswered]

theorem waitingAnswered_items : s.waitingAnswered.period = { s.period with isOpen := false } ∧
    s.waitingAnswered.live = (if s.adoption.isSome then s.staged else s.live) ∧ s.waitingAnswered.adoption = none ∧
    s.waitingAnswered.clockSetting = none ∧
    (∀ r, s.waitingAnswered.rule r = if s.adoption.isSome then RuleState.clear else s.cutRule r) ∧
    ∀ h, s.waitingAnswered.channel h = s.cutChannel h := by
  have staged : s.cutOpen.staged = s.staged := staged_congr fun a ha => (cutOpen_writes s).keeps_below a ha
  have live := completeAdoption_live s.cutOpen .cut
  have adoption := completeAdoption_adoption s.cutOpen .cut
  have rule := completeAdoption_rule s.cutOpen .cut
  have setting := applySetting_setting (s.cutOpen.completeAdoption .cut)
  simp only [cutOpen_keeps, staged] at live rule
  refine ⟨?_, ?_, ?_, setting, fun r => ?_, fun h => ?_⟩
  · simp [State.waitingAnswered, cutOpen_period]
  · simpa [State.waitingAnswered] using live
  · simpa [State.waitingAnswered] using adoption
  · rw [← cutOpen_rule, ← rule r]
    simp [State.waitingAnswered, State.rule]
  · rw [← cutOpen_channel]
    simp [State.waitingAnswered, State.channel]

theorem waitingAnswered_clock : (s.clockSetting = none → s.waitingAnswered.clock = s.clock) ∧
    ∀ x, s.clockSetting = some x → s.waitingAnswered.clock = Clock.setTo x.day x.second x.weekday := by
  have setting : (s.cutOpen.completeAdoption .cut).clockSetting = s.clockSetting := by simp
  refine ⟨fun hnone => ?_, fun x hsome => ?_⟩
  · rw [State.waitingAnswered, applySetting_of_none _ (setting.trans hnone)]
    simp
  · exact (applySetting_holds (setting.trans hsome)).1

/-- The answers of the requests that waited (R50, R106), where they hold different slots. -/
theorem waitingAnswered_holds (hheld : (heldSlots s).Nodup) :
    (∀ m, s.adoption = some m → HoldsAnswer s.waitingAnswered m (s.slot m).postMark .done 0
      ([setWord s.staged 0, setWord s.staged 1, 2, s.clock.day] ++ words32 s.clock.second)) ∧
    ∀ x, s.clockSetting = some x → HoldsAnswer s.waitingAnswered x.slot (s.slot x.slot).postMark .done 0
      ([s.clock.day] ++ words32 s.clock.second ++ [word s.clock.weekday, word s.clock.tick]) := by
  have setting : (s.cutOpen.completeAdoption .cut).clockSetting = s.clockSetting := by simp
  have adoption : s.cutOpen.adoption = s.adoption := by simp
  have differ : ∀ m x, s.adoption = some m → s.clockSetting = some x → m ≠ x.slot := fun m x hm hx e => by
    simp [heldSlots, hm, hx, e] at hheld
  refine ⟨fun m hm => ?_, fun x hx => ?_⟩
  · have staged : s.cutOpen.staged = s.staged := staged_congr fun a ha => (cutOpen_writes s).keeps_below a ha
    have slot := ((cutOpen_besides s).kept m (by simp)).slot
    have holds := completeAdoption_holds .cut (adoption.trans hm)
    have clock : s.cutOpen.clock = s.clock := by simp
    rw [staged, slot, clock] at holds
    refine holds.kept ((applySetting_effects _).besides.kept m ?_)
    rw [setting]
    cases hx : s.clockSetting with
    | none => simp
    | some x => simpa using differ m x hm hx
  · have adopted := (completeAdoption_effects s.cutOpen .cut).besides.kept x.slot (by
      rw [adoption]
      cases hm : s.adoption with
      | none => simp
      | some m => simpa using (differ m x hm hx).symm)
    have slot := ((cutOpen_besides s).kept x.slot (by simp)).trans adopted
    have holds := (applySetting_holds (setting.trans hx)).2
    have clock : (s.cutOpen.completeAdoption .cut).clock = s.clock := by simp
    rwa [slot.slot, clock] at holds

/-- A run of bytes outside the request slots keeps every slot. -/
theorem SlotKept.of_bytes {s t : State} {l : List (Nat × Nat)} (hrequests : t.requests = s.requests) (hbytes : BytesKept s t l)
    (hl : ∀ r ∈ l, r.2 ≤ 0x0A00 ∨ 0x0C00 ≤ r.1) (n : Fin 8) : SlotKept s t n where
  slot := by simp only [State.slot, hrequests]
  words w hw := by
    have bounds := requestAddr_bounds n hw
    have hval := n.isLt
    simp only [Config.requestBase] at bounds
    have kept : ∀ a, 0x0A00 ≤ a → a < 0x0C00 → t.store.read a = s.store.read a := fun a hlow hhigh =>
      hbytes a fun r hr hin => by have := hl r hr; omega
    simp only [State.requestWord, State.peekWord, Mem.readWord]
    rw [kept _ (by omega) (by omega), kept _ (by omega) (by omega)]

theorem writeClosedPages_besides (st : Stamp) : Besides s (s.writeClosedPages st) [] [] := by
  have kept := SlotKept.of_bytes (t := s.writeClosedPages st) (by simp) (writeClosedPages_bytes s st) (by simp [pageBytes])
  have notices : (s.writeClosedPages st).notices = s.notices := by simp
  exact ⟨fun n _ => kept n, by simp, by simp, fun c _ => by simp [State.isPending], by simp⟩

theorem stopSlots_congr {s t : State} (hheads : t.heads = s.heads) (hcalibrations : t.calibrations = s.calibrations) (h : Fin 12) :
    t.stopSlots h = s.stopSlots h ∧ t.stopClasses h = s.stopClasses h := by
  have head : t.head h = s.head h := by simp only [State.head, hheads]
  unfold State.stopSlots State.stopClasses State.calibrationSlot State.calibrationClass
  rw [head, calibration_congr hcalibrations]
  exact ⟨rfl, rfl⟩

theorem stopHeads_answers : Effects s.waitingAnswered s.waitingAnswered.stopHeads (allHeads.flatMap s.stopSlots)
    (allHeads.flatMap s.stopClasses) := by
  obtain ⟨heads, calibrations, -⟩ := waitingAnswered_heads s
  have stopped := stopHeads_effects s.waitingAnswered
  rwa [List.flatMap_congr fun h _ => (stopSlots_congr heads calibrations h).1,
    List.flatMap_congr fun h _ => (stopSlots_congr heads calibrations h).2] at stopped

theorem stopped_besides : Besides s s.stopped s.stoppedSlots s.stoppedClasses :=
  ((waitingAnswered_besides s).trans (stopHeads_answers s).besides).andThen (writeClosedPages_besides _ _)

theorem record_not_mem_stopClasses (h : Fin 12) : .record ∉ s.stopClasses h := by
  unfold State.stopClasses State.calibrationClass
  split
  · split <;> simp
  · simp

theorem stopped_handing : Handing s s.stopped (cutHeads s) true (actualLength s.period s.clock)
    (s.stoppedSlots.map answerBytes ++ [pageBytes]) := by
  have left := (stopHeads_answers s).handing (by simp) (by simpa using fun h _ => record_not_mem_stopClasses s h)
    (waitingAnswered_handing s)
  have pages := left.beside (v := s.stopped) (by simp [State.stopped]) (by simp [State.stopped, State.isPending])
    (writeClosedPages_bytes _ s.lastClosed) (by simp [pageBytes])
  simpa [State.stoppedSlots] using pages

/-- What the heads' going OFF and the closed pages leave of the state. -/
theorem stopHeads_pages_items {y z : State} {st : Stamp} (hz : z = y.stopHeads.writeClosedPages st) :
    z.link = y.link ∧ z.lastClosed = y.lastClosed ∧ z.events = y.events ∧
    z.stage = y.stage ∧ z.port = y.port ∧ z.period = y.period ∧ z.live = y.live ∧ z.adoption = y.adoption ∧
    z.clockSetting = y.clockSetting ∧ z.clock = y.clock ∧ z.rules = y.rules ∧ z.trace = y.stopHeads.trace ∧
    z.pending = y.pending ∧ z.resetLow = y.resetLow ∧ z.run = y.run := by
  subst hz
  simp

theorem stopHeads_pages_own {y z : State} {st : Stamp} (hz : z = y.stopHeads.writeClosedPages st) (h : Fin 12) :
    z.head h = y.stopHeads.head h ∧ z.channel h = y.stopHeads.channel h ∧ z.calibration h = y.stopHeads.calibration h := by
  obtain ⟨heads, channels, calibrations⟩ : z.heads = y.stopHeads.heads ∧ z.channels = y.stopHeads.channels ∧
      z.calibrations = y.stopHeads.calibrations := by
    generalize y.stopHeads = x at hz
    subst hz
    simp
  exact ⟨by simp only [State.head, heads], by simp only [State.channel, channels], calibration_congr calibrations h⟩

theorem stopped_eq : s.stopped = s.waitingAnswered.stopHeads.writeClosedPages s.lastClosed := rfl

theorem stopped_trace (hidle : ∀ c, s.trace.mode ≠ .capturing c) : s.stopped.trace = s.trace := by
  obtain ⟨-, -, -, -, trace, -⟩ := waitingAnswered_heads s
  obtain ⟨-, -, -, -, -, -, -, -, -, -, -, left, -⟩ := stopHeads_pages_items (stopped_eq s)
  exact left.trans ((stopHeads_trace s.waitingAnswered (by rwa [trace])).trans trace)

theorem stopped_items : s.stopped.link = s.link ∧ s.stopped.lastClosed = s.lastClosed ∧ s.stopped.events = s.events ∧
    s.stopped.stage = s.stage ∧ s.stopped.port = s.port ∧ s.stopped.period = { s.period with isOpen := false } ∧
    s.stopped.live = (if s.adoption.isSome then s.staged else s.live) ∧ s.stopped.adoption = none ∧
    s.stopped.clockSetting = none ∧ s.stopped.clock = s.waitingAnswered.clock ∧
    s.stopped.pending = s.pending ∧ s.stopped.resetLow = s.resetLow ∧ s.stopped.run = s.run := by
  obtain ⟨-, -, link, lastClosed, -, events, run, stage, port, pending, resetLow⟩ := waitingAnswered_heads s
  obtain ⟨period, live, adoption, setting, -, -⟩ := waitingAnswered_items s
  obtain ⟨toLink, toClosed, toEvents, toStage, toPort, toPeriod, toLive, toAdoption, toSetting, toClock, -, -, toPending, toReset,
    toRun⟩ := stopHeads_pages_items (stopped_eq s)
  exact ⟨toLink.trans link, toClosed.trans lastClosed, toEvents.trans events, toStage.trans stage, toPort.trans port,
    toPeriod.trans period, toLive.trans live, toAdoption.trans adoption, toSetting.trans setting, toClock,
    toPending.trans pending, toReset.trans resetLow, toRun.trans run⟩

theorem stopped_rule (r : Fin 24) : s.stopped.rule r = if s.adoption.isSome then RuleState.clear else s.cutRule r := by
  obtain ⟨-, -, -, -, -, -, -, -, -, -, rules, -⟩ := stopHeads_pages_items (stopped_eq s)
  obtain ⟨-, -, -, -, rule, -⟩ := waitingAnswered_items s
  have same : s.stopped.rule r = s.waitingAnswered.rule r := by simp only [State.rule, rules]
  exact same.trans (rule r)

theorem stopped_views (h : Fin 12) : s.stopped.head h = s.waitingAnswered.stopHeads.head h ∧
    s.stopped.channel h = s.waitingAnswered.stopHeads.channel h ∧
    s.stopped.calibration h = s.waitingAnswered.stopHeads.calibration h := stopHeads_pages_own (stopped_eq s) h

theorem waitingAnswered_own (h : Fin 12) : s.waitingAnswered.head h = s.head h ∧ s.waitingAnswered.channel h = s.cutChannel h ∧
    s.waitingAnswered.calibration h = s.calibration h := by
  obtain ⟨heads, calibrations, -⟩ := waitingAnswered_heads s
  exact ⟨by simp only [State.head, heads], (waitingAnswered_items s).2.2.2.2.2 h, calibration_congr calibrations h⟩

/-- A head that was OFF stays as it was, its channel closed. -/
theorem stopped_of_off {h : Fin 12} (hoff : (s.head h).state = .off) :
    s.stopped.head h = s.head h ∧ s.stopped.channel h = s.cutChannel h := by
  obtain ⟨head, channel, -⟩ := waitingAnswered_own s h
  obtain ⟨viewHead, viewChannel, -⟩ := stopped_views s h
  obtain ⟨offHead, offChannel⟩ := stopHeads_of_off s.waitingAnswered (h := h) (by rw [head, hoff])
  exact ⟨viewHead.trans (offHead.trans head), viewChannel.trans (offChannel.trans channel)⟩

/-- A head that was not OFF goes OFF. -/
theorem stopped_of_on {h : Fin 12} (hon : (s.head h).state ≠ .off) :
    s.stopped.head h = { s.head h with state := .off, join := 0, miss := 0, returning := false, trim := s.stoppedTrim h } ∧
    s.stopped.channel h = (if (s.head h).state = .active then (s.cutChannel h).forgotten else s.cutChannel h).closed ∧
    s.stopped.calibration h = if (s.head h).state = .active then none else s.calibration h := by
  obtain ⟨head, channel, calibration⟩ := waitingAnswered_own s h
  obtain ⟨viewHead, viewChannel, viewCalibration⟩ := stopped_views s h
  obtain ⟨onHead, onChannel, onCalibration⟩ := stopHeads_of_on s.waitingAnswered (h := h) (by rwa [head])
  have trim : s.waitingAnswered.stoppedTrim h = s.stoppedTrim h := by
    unfold State.stoppedTrim
    rw [head, calibratedTrim_congr calibration]
  rw [head, trim] at onHead
  rw [head, channel] at onChannel
  rw [head, calibration] at onCalibration
  exact ⟨viewHead.trans onHead, viewChannel.trans onChannel, viewCalibration.trans onCalibration⟩

theorem writeClosedPages_keeps_slot (st : Stamp) (n : Fin 8) : SlotKept s (s.writeClosedPages st) n :=
  (writeClosedPages_besides s st).kept n (by simp)

theorem mem_heldSlots {s : State} {n : Fin 8} : n ∈ heldSlots s ↔
    n ∈ s.waitingSlots ∨ ∃ h c, s.calibration h = some c ∧ c.slot = n := by
  simp [heldSlots, State.waitingSlots, mem_allHeads, or_assoc]

theorem not_mem_waitingSlots {h : Fin 12} {c : Calibration} (hheld : (heldSlots s).Nodup) (hc : s.calibration h = some c) :
    c.slot ∉ s.waitingSlots := by
  obtain ⟨-, -, disjoint⟩ := List.nodup_append.mp hheld
  exact fun hin => disjoint c.slot hin c.slot
    (List.mem_filterMap.mpr ⟨h, mem_allHeads h, by rw [hc]; rfl⟩) rfl

/-- The answers of the requests that waited stand to the end. -/
theorem stopped_holds_waiting (hheld : (heldSlots s).Nodup) {m : Fin 8} (hm : m ∈ s.waitingSlots) {mark : Word} {code : AnswerCode}
    {detail : Nat} {reply : List Word} (hholds : HoldsAnswer s.waitingAnswered m mark code detail reply) :
    HoldsAnswer s.stopped m mark code detail reply := by
  refine (hholds.kept ((stopHeads_answers s).besides.kept m ?_)).kept (writeClosedPages_keeps_slot _ _ m)
  intro hin
  obtain ⟨h, -, hslot⟩ := List.mem_flatMap.mp hin
  unfold State.stopSlots State.calibrationSlot at hslot
  split at hslot
  · cases hc : s.calibration h with
    | none => simp [hc] at hslot
    | some c =>
      obtain rfl : m = c.slot := by simpa [hc] using hslot
      exact not_mem_waitingSlots s hheld hc hm
  · simp at hslot

section Calibration

variable {s} (hheld : (heldSlots s).Nodup) {h : Fin 12} (hstate : (s.head h).state = .active) {c : Calibration}
  (hc : s.calibration h = some c)
include hheld hstate hc

/-- The answer of an ACTIVE head's calibration stands at the end (R72, R73). -/
theorem stopped_holds_calibration : (c.count < 128 → HoldsAnswer s.stopped c.slot (s.slot c.slot).postMark .aborted 3
      [0xFFFF, intWord (s.head h).trim, intWord (s.head h).trim, word c.count]) ∧
    (128 ≤ c.count → HoldsAnswer s.stopped c.slot (s.slot c.slot).postMark
      (if (calibratedTrim s h).isSome then .done else .outOfRange) 0
      [word (rawLevel (c.sum.toNat / 128)), intWord (s.head h).trim, intWord ((calibratedTrim s h).getD (s.head h).trim),
        word c.count]) := by
  obtain ⟨head, -, calibration⟩ := waitingAnswered_own s h
  have waited := (waitingAnswered_besides s).kept c.slot (not_mem_waitingSlots s hheld hc)
  have elsewhere : SlotsElsewhere s.waitingAnswered c.slot h := fun g hg d hd => by
    rw [(waitingAnswered_own s g).2.2] at hd
    exact slotFree_of_nodup hheld hg hc d hd
  have aborted := stopHeads_holds_aborted (s := s.waitingAnswered) (by rw [head, hstate]) (calibration.trans hc) elsewhere
  have completed := stopHeads_holds_completed (s := s.waitingAnswered) (by rw [head, hstate]) (calibration.trans hc) elsewhere
  rw [waited.slot, head] at aborted completed
  rw [calibratedTrim_congr calibration] at completed
  exact ⟨fun hcount => (aborted hcount).kept (writeClosedPages_keeps_slot _ _ _),
    fun hcount => (completed hcount).kept (writeClosedPages_keeps_slot _ _ _)⟩

end Calibration

end Stopped

end Sys2Proof.Machine
end

section
/-! PROOFS. The beginning of STOP and PARK: the tick abandoned (R28, R36), the capture truncated and the trace unit stopped (R160,
R172, R173), and STOP in PARKED (R174). -/

namespace Sys2Proof.Machine

open Sys2Proof

/-! ## The trace unit -/

theorem traceAddr_bounds (n : Fin 2) : 0x1000 ≤ traceAddr n 0 ∧ traceAddr n 0 + 4096 ≤ 0x3000 := by
  have := n.isLt
  simp only [traceAddr, Config.traceBase]
  omega

theorem length_flatMap_le {α β : Type} {f : α → List β} {k : Nat} {l : List α} (hf : ∀ x ∈ l, (f x).length ≤ k) :
    (l.flatMap f).length ≤ l.length * k := by
  rw [List.length_flatMap, ← List.length_map (f := fun x => (f x).length) (as := l)]
  exact List.sum_le_card_nsmul _ _ (by simpa using hf)

/-- A capture that fits is written within its slot (R149, R159). -/
theorem length_traceWords {s : State} {c : Capture} (hfits : CaptureFits s c) (truncated : Bool) (missed : Nat) (number : DWord) :
    2 * (traceWords c truncated missed number).length ≤ 4096 := by
  obtain ⟨-, captured, -, pre, scope, samples⟩ := hfits
  have written := length_flatMap_le (f := fun x : ScopeHead => x.pre.map levelWord ++ x.post.map levelWord) (k := 504)
    (l := c.scope) fun x hx => by
      obtain ⟨before, after⟩ := samples x hx
      rw [List.length_append, List.length_map, List.length_map]
      omega
  unfold traceWords
  dsimp only
  rw [List.length_append, List.length_append, List.length_append, List.length_append, List.length_append, length_words32,
    length_wordsD]
  simp only [List.length_cons, List.length_nil]
  omega

/-- The bytes and the classes of a capture's truncation (R160). -/
def State.truncatedBytes (s : State) : List (Nat × Nat) :=
  match s.trace.mode with
  | .capturing c => [(traceAddr c.slot 0, traceAddr c.slot (traceWords c true s.trace.missed (s.trace.number + 1)).length)]
  | _ => []

def State.truncatedClasses (s : State) : List NoticeClass :=
  match s.trace.mode with
  | .capturing _ => if s.trace.settings.repeating then [] else [.trace]
  | _ => []

/-- What a trace unit is past the truncation of capture c (R159, R160). -/
structure Truncated (x y : State) (c : Capture) : Prop where
  list : y.trace.list = x.trace.list ++ [c.slot]
  number : y.trace.number = x.trace.number + 1
  missed : y.trace.missed = 0
  store : y.store = x.store.writeWords (traceAddr c.slot 0) (traceWords c true x.trace.missed (x.trace.number + 1))

/-- Between x and y the trace unit has been stopped, a capture in progress truncated, and nothing else has happened. -/
structure TraceStopped (x y : State) : Prop where
  frame : y = { x with trace := y.trace, store := y.store, notices := y.notices }
  settings : y.trace.settings = x.trace.settings
  idle : ∀ c, y.trace.mode ≠ .capturing c
  kept : (∀ c, x.trace.mode ≠ .capturing c) → y.trace = { x.trace with mode := y.trace.mode }
  truncated : ∀ c, x.trace.mode = .capturing c → Truncated x y c
  bytes : BytesKept x y x.truncatedBytes
  raised : OnlyRaised x y x.truncatedClasses
  writes : PartWrites x.store y.store

theorem completeCapture_eq (s : State) (c : Capture) (b : Bool) (m : TraceMode) : s.completeCapture c b m =
    { s with trace := (s.completeCapture c b m).trace, store := (s.completeCapture c b m).store,
             notices := (s.completeCapture c b m).notices } := by
  apply State.eq_of_fields <;> simp

theorem truncateCapture_of_capturing {s : State} {c : Capture} (hc : s.trace.mode = .capturing c) (m : TraceMode) :
    s.truncateCapture m = s.completeCapture c true m := by
  simp [State.truncateCapture, hc]

theorem truncateCapture_of_idle {s : State} (hidle : ∀ c, s.trace.mode ≠ .capturing c) (m : TraceMode) :
    s.truncateCapture m = s := by
  unfold State.truncateCapture
  split
  · next c hc => exact absurd hc (hidle c)
  · rfl

section Stopping

variable (x : State)

theorem truncatedBytes_of_idle {x : State} (hidle : ∀ c, x.trace.mode ≠ .capturing c) :
    x.truncatedBytes = [] ∧ x.truncatedClasses = [] := by
  unfold State.truncatedBytes State.truncatedClasses
  cases hm : x.trace.mode with
  | capturing c => exact absurd hm (hidle c)
  | armed => exact ⟨rfl, rfl⟩
  | disarmed => exact ⟨rfl, rfl⟩

theorem truncateCapture_stops {m : TraceMode} (hm : ∀ c, m ≠ .capturing c) : TraceStopped x (x.truncateCapture m) := by
  by_cases hcapturing : ∃ c, x.trace.mode = .capturing c
  · obtain ⟨c, hc⟩ := hcapturing
    have trace := completeCapture_trace x c true m
    have store := completeCapture_store x c true m
    have bytes := completeCapture_bytes x c true m
    have raised := completeCapture_raises x c true m
    have frame := completeCapture_eq x c true m
    rw [traceImage_eq] at store
    have writes := truncateCapture_writes x m
    rw [truncateCapture_of_capturing hc] at writes ⊢
    refine ⟨frame, by rw [trace], by rw [trace]; exact hm, fun hnot => absurd hc (hnot c), fun d hd => ?_, ?_, ?_, writes⟩
    · obtain rfl : c = d := by simpa [hc] using hd
      exact ⟨by rw [trace], by rw [trace], by rw [trace], store⟩
    · simpa [State.truncatedBytes, hc] using bytes
    · simpa [State.truncatedClasses, hc] using raised
  · have idle : ∀ c, x.trace.mode ≠ .capturing c := fun c hc => hcapturing ⟨c, hc⟩
    obtain ⟨bytes, classes⟩ := truncatedBytes_of_idle idle
    rw [truncateCapture_of_idle idle]
    exact ⟨rfl, rfl, idle, fun _ => rfl, fun c hc => absurd hc (idle c), .refl x _, by rw [classes]; exact .of_notices rfl, .refl _⟩

theorem TraceStopped.setMode {x y : State} (h : TraceStopped x y) {m : TraceMode} (hm : ∀ c, m ≠ .capturing c) :
    TraceStopped x (y.setTraceMode m) where
  frame := by
    rw [h.frame]
    rfl
  settings := h.settings
  idle := hm
  kept hidle := by
    have trace := h.kept hidle
    show { y.trace with mode := m } = _
    rw [trace]
    rfl
  truncated c hc := ⟨(h.truncated c hc).list, (h.truncated c hc).number, (h.truncated c hc).missed, (h.truncated c hc).store⟩
  bytes := h.bytes
  raised := h.raised
  writes := h.writes

theorem disarm_stops : TraceStopped x x.disarm := (truncateCapture_stops x (by simp)).setMode (by simp)

theorem parkTrace_stops : TraceStopped x x.parkTrace := truncateCapture_stops x (by simp)

end Stopping

/-! ## The tick abandoned -/

/-- The pair's blocks once the open tick is abandoned (R28). -/
def Link.abandoned (l : Link) : Link :=
  { l with receiver := .quiet, buffers := Vector.replicate 12 none, tickOpen := none, badNote := false }

theorem abandonTick_link (x : State) : x.abandonTick.link = x.link.abandoned := by
  unfold State.abandonTick
  dsimp only
  split <;> rfl

theorem abandonTick_raises (x : State) : OnlyRaised x x.abandonTick (if x.link.badNote then [.link] else []) := by
  unfold State.abandonTick
  dsimp only
  split
  · exact ⟨(raise_raises x .link).1, rfl⟩
  · exact .of_notices rfl

theorem buffer_of_abandoned {x : State} {l : Link} (hx : x.link = l.abandoned) (h : Fin 12) : x.buffer h = none := by
  simp [State.buffer, hx, Link.abandoned]

/-- The request in slot n has been taken, the tick abandoned and the trace unit stopped between s and y. -/
structure Halted (s y : State) (n : Fin 8) : Prop where
  frame : y = { s with stage := .idle, link := s.link.abandoned, trace := y.trace, requests := (s.take n).requests,
                       store := y.store, notices := y.notices }
  settings : y.trace.settings = s.trace.settings
  idle : ∀ c, y.trace.mode ≠ .capturing c
  kept : (∀ c, s.trace.mode ≠ .capturing c) → y.trace = { s.trace with mode := y.trace.mode }
  truncated : ∀ c, s.trace.mode = .capturing c → Truncated s y c
  bytes : BytesKept s y s.truncatedBytes
  raised : OnlyRaised s y ((if s.link.badNote then [.link] else []) ++ s.truncatedClasses)
  below : ∀ a < 0x0800, y.store.read a = s.store.read a

/-- The state of a request taken whose open tick is then abandoned. -/
theorem abandonTick_take_eq (s : State) (n : Fin 8) : (s.take n).abandonTick =
    { s with stage := .idle, link := s.link.abandoned, requests := (s.take n).requests,
             notices := (s.take n).abandonTick.notices } := by
  apply State.eq_of_fields (h9 := abandonTick_link (s.take n)) <;> simp

theorem halted_of_stopped {s y : State} {n : Fin 8} (hy : TraceStopped (s.take n).abandonTick y) : Halted s y n := by
  have taken := abandonTick_take_eq s n
  have abandoned : OnlyRaised s (s.take n).abandonTick (if s.link.badNote then [.link] else []) := abandonTick_raises (s.take n)
  generalize (s.take n).abandonTick = x at hy taken abandoned
  have trace : x.trace = s.trace := by rw [taken]
  have store : x.store = s.store := by rw [taken]
  have bytes : x.truncatedBytes = s.truncatedBytes := by simp only [State.truncatedBytes, trace]
  have classes : x.truncatedClasses = s.truncatedClasses := by simp only [State.truncatedClasses, trace]
  refine ⟨?_, by rw [hy.settings, trace], hy.idle, fun hidle => ?_, fun c hc => ?_, ?_, ?_, fun a ha => ?_⟩
  · rw [hy.frame, taken]
  · rw [← trace]
    exact hy.kept (by rwa [trace])
  · obtain ⟨list, number, missed, written⟩ := hy.truncated c (by rw [trace, hc])
    rw [trace] at list number written
    exact ⟨list, number, missed, by rw [written, store]⟩
  · rw [← bytes]
    exact (BytesKept.of_store store _).trans hy.bytes
  · rw [← classes]
    exact abandoned.trans hy.raised
  · rw [hy.writes.keeps_below a ha, store]

section Halt

variable {s y : State} {n : Fin 8} (hy : Halted s y n)
include hy

theorem Halted.items : y.period = s.period ∧ y.clock = s.clock ∧ y.heads = s.heads ∧ y.channels = s.channels ∧
    y.calibrations = s.calibrations ∧ y.live = s.live ∧ y.adoption = s.adoption ∧ y.clockSetting = s.clockSetting ∧
    y.rules = s.rules ∧ y.records = s.records ∧ y.events = s.events ∧ y.port = s.port ∧ y.lastClosed = s.lastClosed ∧
    y.stage = .idle ∧ y.link = s.link.abandoned ∧ y.requests = (s.take n).requests := by
  rw [hy.frame]
  exact ⟨rfl, rfl, rfl, rfl, rfl, rfl, rfl, rfl, rfl, rfl, rfl, rfl, rfl, rfl, rfl, rfl⟩

theorem Halted.own (h : Fin 12) : y.head h = s.head h ∧ y.channel h = s.channel h ∧ y.calibration h = s.calibration h := by
  obtain ⟨-, -, heads, channels, calibrations, -⟩ := hy.items
  exact ⟨by simp only [State.head, heads], by simp only [State.channel, channels], calibration_congr calibrations h⟩

theorem Halted.held : heldSlots y = heldSlots s := by
  obtain ⟨-, -, -, -, -, -, adoption, setting, -⟩ := hy.items
  unfold heldSlots
  rw [adoption, setting]
  congr 2
  funext h
  rw [(hy.own h).2.2]

theorem Halted.slot (m : Fin 8) : y.slot m = if n = m then { s.slot n with state := .active } else s.slot m := by
  obtain ⟨-, -, -, -, -, -, -, -, -, -, -, -, -, -, -, requests⟩ := hy.items
  rw [← slot_take]
  simp only [State.slot, requests]

theorem Halted.staged : y.staged = s.staged := staged_congr hy.below

theorem Halted.recordKept (h : Fin 12) : RecordKept s y h := by
  obtain ⟨period, -, -, -, -, live, -⟩ := hy.items
  obtain ⟨head, channel, -⟩ := hy.own h
  exact ⟨by rw [channel], by rw [channel], by rw [channel], by rw [head], period, live, hy.below⟩

end Halt

end Sys2Proof.Machine
end

section
/-! PROOFS. STOP and PARK end a run (R172, R173, R174, R176): what the abandoned tick, the stopped trace unit, the CUT end, the
requests that wait, the heads, the pages and the answer come to together. -/

namespace Sys2Proof.Machine

open Sys2Proof

/-! ## Records handed over, seen from a state before -/

theorem periodRecordWords_congr {s y : State} {h : Fin 12} (hk : RecordKept s y h) (hrecords : y.records = s.records) (cut : Bool)
    (actual : Nat) : periodRecordWords y h cut actual = periodRecordWords s h cut actual := by
  rw [← periodBody_eq hk, ← periodBody_eq (.refl y h), hrecords]

section Seen

variable {s y t : State} (hrecords : y.records = s.records) (hkept : ∀ h, RecordKept s y h) {heads : List (Fin 12)} {cut : Bool}
  {actual : Nat}
include hrecords hkept

/-- Records handed over from y on are those handed over from a state s with the same shelf, channels, trims and settings. -/
theorem handed_seen (hpending : y.isPending .record = s.isPending .record) (hyt : PeriodRecordsHanded y t heads cut actual) :
    PeriodRecordsHanded s t heads cut actual := by
  have free : freeRecordSlots y = freeRecordSlots s := by unfold freeRecordSlots; rw [hrecords]
  unfold PeriodRecordsHanded at hyt
  simp only [free, hrecords, hpending, fun h => periodRecordWords_congr (hkept h) hrecords cut actual] at hyt
  exact hyt

theorem handedBytes_seen : handedBytes y heads cut actual = handedBytes s heads cut actual := by
  have free : freeRecordSlots y = freeRecordSlots s := by unfold freeRecordSlots; rw [hrecords]
  unfold handedBytes
  simp only [free, fun h => periodRecordWords_congr (hkept h) hrecords cut actual]

end Seen

/-- Where no record is handed over the shelf stays as it was. -/
theorem PeriodRecordsHanded.none {s t : State} {cut : Bool} {actual : Nat} (hst : PeriodRecordsHanded s t [] cut actual) :
    t.records = s.records ∧ t.isPending .record = s.isPending .record := by
  obtain ⟨-, lost, list, number, pending⟩ := hst
  have lost : t.records.lost = s.records.lost := Vector.ext fun i hi => lost ⟨i, hi⟩ (by simp)
  refine ⟨?_, by simpa using pending⟩
  rw [show t.records = ⟨t.records.list, t.records.number, t.records.lost⟩ from rfl, lost, list, number]
  simp

theorem handedBytes_nil (s : State) (cut : Bool) (actual : Nat) : handedBytes s [] cut actual = [] := by
  simp [handedBytes]

/-! ## The answer that ends the run -/

/-- The state z of a run whose measuring has ended, past the run state and the answer of the request in slot n (R172, R173). -/
def State.ending (z : State) (n : Fin 8) (r : RunState) (reply : List Word) : State :=
  (State.answer { z with run := r } n .done 0 reply).endService

section Ending

variable (z : State) (n : Fin 8) (r : RunState) (reply : List Word)

@[simp] theorem ending_frame : (z.ending n r reply).run = r ∧ (z.ending n r reply).stage = z.stage ∧
    (z.ending n r reply).clock = z.clock ∧ (z.ending n r reply).period = z.period ∧
    (z.ending n r reply).clockSetting = z.clockSetting ∧ (z.ending n r reply).link = z.link ∧
    (z.ending n r reply).lastClosed = z.lastClosed ∧ (z.ending n r reply).live = z.live ∧
    (z.ending n r reply).adoption = z.adoption ∧ (z.ending n r reply).events = z.events ∧
    (z.ending n r reply).records = z.records ∧ (z.ending n r reply).trace = z.trace ∧
    (z.ending n r reply).port = z.port ∧ (z.ending n r reply).requests.queue = z.requests.queue ∧
    (z.ending n r reply).requests.inService = none := by
  simp [State.ending]

theorem ending_own (h : Fin 12) : (z.ending n r reply).head h = z.head h ∧ (z.ending n r reply).channel h = z.channel h ∧
    (z.ending n r reply).calibration h = z.calibration h := ⟨rfl, rfl, rfl⟩

theorem ending_rule (k : Fin 24) : (z.ending n r reply).rule k = z.rule k := rfl

theorem ending_bytes : BytesKept z (z.ending n r reply) [answerBytes n] :=
  answer_bytesKept { z with run := r } n .done 0 reply

theorem ending_raised : OnlyRaised z (z.ending n r reply) [.answer] :=
  ⟨(answer_raises { z with run := r } n .done 0 reply).1, (answer_raises { z with run := r } n .done 0 reply).2⟩

theorem ending_holds : HoldsAnswer (z.ending n r reply) n (z.slot n).postMark .done 0 reply :=
  (answer_holds { z with run := r } n .done 0 reply).kept (endService_keeps_slot _ n)

theorem ending_keeps_slot {m : Fin 8} (hm : m ≠ n) : SlotKept z (z.ending n r reply) m :=
  have kept := (answer_answers { z with run := r } n .done 0 reply).kept (n := m) (by simpa using hm)
  ⟨kept.slot, kept.words⟩

end Ending

/-! ## What STOP and PARK answer beside their own request -/

theorem mem_heldSlots_of_stopped {s : State} {m : Fin 8} (hm : m ∈ s.stoppedSlots) : m ∈ heldSlots s := by
  rw [mem_heldSlots]
  refine (List.mem_append.mp hm).imp_right fun hin => ?_
  obtain ⟨h, -, hslot⟩ := List.mem_flatMap.mp hin
  unfold State.stopSlots State.calibrationSlot at hslot
  split at hslot
  · obtain ⟨c, hc, e⟩ := Option.map_eq_some_iff.mp (Option.mem_toList.mp hslot)
    exact ⟨h, c, hc, e⟩
  · simp at hslot

theorem mem_stoppedClasses {s : State} {c : NoticeClass} (hc : c ∈ s.stoppedClasses) : c = .answer := by
  have ofRequest : ∀ {α : Type} (o : Option α), c ∈ answerClass o → c = .answer := fun o hin => by
    cases o <;> simp [answerClass] at hin
    exact hin
  rcases List.mem_append.mp hc with hin | hin
  · rcases List.mem_append.mp hin with hin | hin
    · exact ofRequest _ hin
    · exact ofRequest _ hin
  · obtain ⟨h, -, hclass⟩ := List.mem_flatMap.mp hin
    unfold State.stopClasses State.calibrationClass at hclass
    split at hclass
    · split at hclass <;> simp at hclass
      exact hclass
    · simp at hclass

/-! ## The run ended -/

/-- The state past STOP or PARK in slot n, from the state y past the abandoned tick and the trace unit stopped. -/
def State.ended (y : State) (n : Fin 8) (r : RunState) (c : Clock) : State := y.stopped.ending n r (runReply .measuring c)

section Ended

variable {s y : State} {n : Fin 8} {r : RunState} (hy : Halted s y n)

section Bytes

variable (y n r)

theorem ended_handing (c : Clock) : Handing y (y.ended n r c) (cutHeads y) true (actualLength y.period y.clock)
    (y.stoppedSlots.map answerBytes ++ [pageBytes] ++ [answerBytes n]) :=
  have above := answerBytes_bounds n
  (stopped_handing y).beside (by simp [State.ended])
    ((ending_raised y.stopped n r _).1 .record) (ending_bytes y.stopped n r _) (by simp; omega)

theorem handedBytes_bounds {u : State} {heads : List (Fin 12)} {cut : Bool} {actual : Nat} {b : Nat × Nat}
    (hb : b ∈ handedBytes u heads cut actual) : 0x3000 ≤ b.1 := by
  obtain ⟨i, m, h, -, -, rfl⟩ := mem_handedBytes.mp hb
  exact (recordAddr_bounds m).1

/-- Neither the settings nor the event and trace slots are written once the trace unit has been stopped. -/
theorem ended_keeps (c : Clock) {a : Nat} (ha : a < 0x0800 ∨ (0x0C00 ≤ a ∧ a < 0x3000)) :
    (y.ended n r c).store.read a = y.store.read a := by
  refine (ended_handing y n r c).bytes a fun b hin => ?_
  simp only [List.mem_append, List.mem_map, List.mem_singleton] at hin
  rcases hin with hin | (⟨m, -, rfl⟩ | rfl) | rfl
  · have := handedBytes_bounds hin
    omega
  · have := answerBytes_bounds m
    omega
  · simp only [pageBytes]
    omega
  · have := answerBytes_bounds n
    omega

theorem ended_pagesClosed (c : Clock) : PagesClosed (y.ended n r c) y.lastClosed := by
  have closed : PagesClosed y.stopped y.lastClosed := by
    rw [stopped_eq]
    exact writeClosedPages_closed _ _
  refine closed.kept fun a _ ha => ending_bytes y.stopped n r _ a fun b hin => ?_
  have := answerBytes_bounds n
  simp only [List.mem_singleton] at hin
  subst hin
  omega

end Bytes

include hy

theorem Halted.cutHeads : cutHeads y = cutHeads s := by
  obtain ⟨period, -, -, channels, -⟩ := hy.items
  simp only [Machine.cutHeads, openHeads, State.channel, period, channels]

/-- The records of the CUT end, seen from the state before STOP or PARK (R46, R139). -/
theorem Halted.handed (c : Clock) : PeriodRecordsHanded s (y.ended n r c) (Machine.cutHeads s) true
    (actualLength s.period s.clock) := by
  obtain ⟨period, clock, -, -, -, -, -, -, -, records, -⟩ := hy.items
  have handed := (ended_handing y n r c).records
  have pending : y.isPending .record = s.isPending .record := by
    rw [hy.raised.1]
    have never : .record ∉ (if s.link.badNote then [NoticeClass.link] else []) ++ s.truncatedClasses := by
      unfold State.truncatedClasses
      split <;> split <;> simp
    simp [never]
  rw [hy.cutHeads, period, clock] at handed
  exact handed_seen records hy.recordKept pending handed

theorem Halted.bytesEnded (c : Clock) : BytesKept s (y.ended n r c) (endedBytes s n) := by
  obtain ⟨period, clock, -, -, -, -, -, -, -, records, -⟩ := hy.items
  have handed := (ended_handing y n r c).bytes
  rw [hy.cutHeads, period, clock, handedBytes_seen records hy.recordKept] at handed
  have truncated : s.truncatedBytes = match s.trace.mode with
      | .capturing c =>
        [(traceAddr c.slot 0, traceAddr c.slot (traceWords c true s.trace.missed (s.trace.number + 1)).length)]
      | _ => [] := by
    unfold State.truncatedBytes
    cases s.trace.mode <;> rfl
  have records : handedBytes s (Machine.cutHeads s) true (actualLength s.period s.clock) =
      if s.period.isOpen then handedBytes s (openHeads s) true (actualLength s.period s.clock) else [] := by
    unfold Machine.cutHeads
    split
    · rfl
    · exact handedBytes_nil ..
  have bytes := hy.bytes
  rw [truncated] at bytes
  rw [records] at handed
  refine (bytes.mono fun b hb => List.mem_append_right _ hb).trans (handed.mono fun b hb => List.mem_append_left _ ?_)
  simp only [List.mem_append, List.mem_map, List.mem_cons, List.not_mem_nil, or_false] at hb ⊢
  rcases hb with hb | (⟨m, hm, rfl⟩ | rfl) | rfl
  · exact .inr hb
  · exact .inl (.inr ⟨m, .inr (hy.held ▸ mem_heldSlots_of_stopped hm), rfl⟩)
  · exact .inl (.inl rfl)
  · exact .inl (.inr ⟨n, .inl rfl, rfl⟩)

/-- The classes beside RECORD and ANSWER: LINK for the bad-frame note (R36), TRACE for a truncated capture in SINGLE mode (R159). -/
theorem Halted.pending (c : Clock) {k : NoticeClass} (hrecord : k ≠ .record) (hanswer : k ≠ .answer) :
    (y.ended n r c).isPending k =
      (decide (k ∈ (if s.link.badNote then [.link] else []) ++ s.truncatedClasses) || s.isPending k) := by
  have never : k ∉ y.stoppedClasses := fun hin => hanswer (mem_stoppedClasses hin)
  have last := (ending_raised y.stopped n r (runReply .measuring c)).1 k
  rw [(stopped_besides y).raised k hrecord, hy.raised.1 k] at last
  rw [State.ended]
  simpa [never, hanswer] using last

theorem Halted.mask (c : Clock) : (y.ended n r c).notices.mask = s.notices.mask :=
  (ending_raised y.stopped n r _).2.trans ((stopped_besides y).mask.trans hy.raised.2)

/-- The channels past the end. -/
theorem Halted.cutChannel (h : Fin 12) : y.cutChannel h = s.cutChannel h := by
  obtain ⟨period, -⟩ := hy.items
  simp only [State.cutChannel, period, (hy.own h).2.1]

theorem Halted.head_of_off {c : Clock} {h : Fin 12} (hoff : (s.head h).state = .off) :
    (y.ended n r c).head h = s.head h ∧ (y.ended n r c).channel h = s.cutChannel h := by
  obtain ⟨head, -, -⟩ := hy.own h
  obtain ⟨offHead, offChannel⟩ := stopped_of_off y (h := h) (by rw [head, hoff])
  obtain ⟨toHead, toChannel, -⟩ := ending_own y.stopped n r (runReply .measuring c) h
  exact ⟨toHead.trans (offHead.trans head), toChannel.trans (offChannel.trans (hy.cutChannel h))⟩

theorem Halted.head_of_on {c : Clock} {h : Fin 12} (hon : (s.head h).state ≠ .off) :
    (y.ended n r c).head h =
      { s.head h with state := .off, join := 0, miss := 0, returning := false, trim := s.stoppedTrim h } ∧
    (y.ended n r c).channel h =
      (if (s.head h).state = .active then (s.cutChannel h).forgotten else s.cutChannel h).closed ∧
    (y.ended n r c).calibration h = if (s.head h).state = .active then none else s.calibration h := by
  obtain ⟨head, -, calibration⟩ := hy.own h
  obtain ⟨onHead, onChannel, onCalibration⟩ := stopped_of_on y (h := h) (by rwa [head])
  obtain ⟨toHead, toChannel, toCalibration⟩ := ending_own y.stopped n r (runReply .measuring c) h
  have trim : y.stoppedTrim h = s.stoppedTrim h := by
    unfold State.stoppedTrim
    rw [head, calibratedTrim_congr calibration]
  rw [head, trim] at onHead
  rw [head, hy.cutChannel h] at onChannel
  rw [head, calibration] at onCalibration
  exact ⟨toHead.trans onHead, toChannel.trans onChannel, toCalibration.trans onCalibration⟩

theorem Halted.sequence (c : Clock) (h : Fin 12) :
    ((y.ended n r c).channel h).sequence = (s.cutChannel h).sequence := by
  by_cases hoff : (s.head h).state = .off
  · rw [(hy.head_of_off hoff).2]
  · rw [(hy.head_of_on hoff).2.1]
    split <;> rfl

theorem Halted.ruleEnded (c : Clock) (k : Fin 24) :
    (y.ended n r c).rule k = if s.adoption.isSome then RuleState.clear else s.cutRule k := by
  obtain ⟨period, -, -, -, -, -, adoption, -, rules, -⟩ := hy.items
  rw [State.ended, ending_rule, stopped_rule, adoption]
  simp only [State.cutRule, State.rule, period, rules]

end Ended

end Sys2Proof.Machine
end

section
/-! PROOFS. The answers that stand when STOP or PARK ends a run, and STOP and PARK themselves (R172, R173, R174). -/

namespace Sys2Proof.Machine

open Sys2Proof

section Answers

variable {s y : State} {n : Fin 8} {r : RunState} (hposted : (s.slot n).state = .posted) (horder : RequestsInOrder s)
  (hy : Halted s y n)

include hposted horder in
/-- The slot of a request that is taken is none that a handed-over request holds (R164, R166). -/
theorem not_mem_heldSlots_of_posted : n ∉ heldSlots s := by
  obtain ⟨-, -, -, -, active, -⟩ := horder
  exact fun hin => by simpa [hposted] using (active n).mp hin

include hy horder in
theorem Halted.nodup : (heldSlots y).Nodup := by
  obtain ⟨-, -, -, nodup, -, -⟩ := horder
  rwa [hy.held]

include hy in
theorem Halted.requests (c : Clock) : (y.ended n r c).requests.queue = s.requests.queue.tail ∧
    (y.ended n r c).requests.inService = none ∧
    ∀ m, m ≠ n → m ∉ heldSlots s → (y.ended n r c).slot m = s.slot m := by
  obtain ⟨-, -, -, -, -, -, -, -, -, -, -, -, -, -, -, requests⟩ := hy.items
  have queue : y.stopped.requests.queue = s.requests.queue.tail := by
    rw [(stopped_besides y).queue, requests]
    simp
  obtain ⟨-, -, -, -, -, -, -, -, -, -, -, -, -, last, inService⟩ := ending_frame y.stopped n r (runReply .measuring c)
  refine ⟨last.trans queue, inService, fun m hm hheld => ?_⟩
  · have stopped := (stopped_besides y).kept m fun hin => hheld (hy.held ▸ mem_heldSlots_of_stopped hin)
    have last := ending_keeps_slot y.stopped n r (runReply .measuring c) hm
    exact last.slot.trans (stopped.slot.trans (by rw [hy.slot, if_neg (Ne.symm hm)]))

include hy hposted horder in
/-- STOP's and PARK's own answer (R167). -/
theorem Halted.ownAnswer (c : Clock) : HoldsAnswer (y.ended n r c) n (s.slot n).postMark .done 0 (runReply .measuring c) := by
  have stopped := (stopped_besides y).kept n fun hin =>
    not_mem_heldSlots_of_posted hposted horder (hy.held ▸ mem_heldSlots_of_stopped hin)
  have holds := ending_holds y.stopped n r (runReply .measuring c)
  rw [stopped.slot, hy.slot, if_pos rfl] at holds
  exact holds

/-- An answer that stands past the pages stands past STOP's and PARK's own. -/
theorem Halted.answerKept (c : Clock) {m : Fin 8} (hm : m ≠ n) {mark : Word} {code : AnswerCode} {detail : Nat} {reply : List Word}
    (hholds : HoldsAnswer y.stopped m mark code detail reply) : HoldsAnswer (y.ended n r c) m mark code detail reply :=
  hholds.kept (ending_keeps_slot y.stopped n r (runReply .measuring c) hm)

include hy hposted horder

theorem Halted.heldOther {m : Fin 8} (hm : m ∈ heldSlots s) : m ≠ n ∧ y.slot m = s.slot m := by
  have ne : m ≠ n := fun e => not_mem_heldSlots_of_posted hposted horder (e ▸ hm)
  exact ⟨ne, by rw [hy.slot, if_neg (Ne.symm ne)]⟩

/-- A pending adoption's answer (R106) and a pending clock setting's (R50). -/
theorem Halted.waitingAnswers (c : Clock) :
    (∀ m, s.adoption = some m → HoldsAnswer (y.ended n r c) m (s.slot m).postMark .done 0
      ([setWord s.staged 0, setWord s.staged 1, 2, s.clock.day] ++ words32 s.clock.second)) ∧
    ∀ x, s.clockSetting = some x → HoldsAnswer (y.ended n r c) x.slot (s.slot x.slot).postMark .done 0
      ([s.clock.day] ++ words32 s.clock.second ++ [word s.clock.weekday, word s.clock.tick]) := by
  obtain ⟨-, clock, -, -, -, -, adoption, setting, -⟩ := hy.items
  have nodup := hy.nodup horder
  obtain ⟨adopted, applied⟩ := waitingAnswered_holds y nodup
  rw [clock, hy.staged, adoption] at adopted
  rw [clock, setting] at applied
  refine ⟨fun m hm => ?_, fun x hx => ?_⟩
  · have waits : m ∈ y.waitingSlots := by simp [State.waitingSlots, adoption, hm]
    obtain ⟨ne, slot⟩ := hy.heldOther hposted horder (m := m) (by simp [heldSlots, hm])
    have holds := stopped_holds_waiting y nodup waits (adopted m hm)
    rw [slot] at holds
    exact Halted.answerKept c ne holds
  · have waits : x.slot ∈ y.waitingSlots := by simp [State.waitingSlots, setting, hx]
    obtain ⟨ne, slot⟩ := hy.heldOther hposted horder (m := x.slot) (by simp [heldSlots, hx])
    have holds := stopped_holds_waiting y nodup waits (applied x hx)
    rw [slot] at holds
    exact Halted.answerKept c ne holds

/-- The answer of an ACTIVE head's calibration (R72, R73). -/
theorem Halted.calibrationAnswer (k : Clock) {h : Fin 12} (hstate : (s.head h).state = .active) {c : Calibration}
    (hc : s.calibration h = some c) :
    (c.count < 128 → HoldsAnswer (y.ended n r k) c.slot (s.slot c.slot).postMark .aborted 3
      [0xFFFF, intWord (s.head h).trim, intWord (s.head h).trim, word c.count]) ∧
    (128 ≤ c.count → HoldsAnswer (y.ended n r k) c.slot (s.slot c.slot).postMark
      (if (calibratedTrim s h).isSome then .done else .outOfRange) 0
      [word (rawLevel (c.sum.toNat / 128)), intWord (s.head h).trim, intWord ((calibratedTrim s h).getD (s.head h).trim),
        word c.count]) := by
  obtain ⟨head, -, calibration⟩ := hy.own h
  obtain ⟨ne, slot⟩ := hy.heldOther hposted horder (m := c.slot) (mem_heldSlots.mpr (.inr ⟨h, c, hc, rfl⟩))
  obtain ⟨aborted, completed⟩ := stopped_holds_calibration (hy.nodup horder) (h := h) (by rw [head, hstate])
    (calibration.trans hc)
  rw [head, slot] at aborted completed
  rw [calibratedTrim_congr calibration] at completed
  exact ⟨fun hcount => Halted.answerKept k ne (aborted hcount), fun hcount => Halted.answerKept k ne (completed hcount)⟩

end Answers

/-! ## What STOP and PARK have in common -/

/-- The CUT end keeps a channel's running energies (R67). -/
theorem fast_cutChannel (s : State) (h : Fin 12) : (s.cutChannel h).fast = (s.channel h).fast := by
  have ended : ∀ ch : Channel, ch.ended.fast = ch.fast := fun ch => by
    unfold Channel.ended
    split <;> rfl
  unfold State.cutChannel
  split
  · exact ended _
  · rfl

section Common

variable {s y : State} {n : Fin 8} {r : RunState} (hy : Halted s y n)
include hy

theorem Halted.endedItems (c : Clock) :
    (y.ended n r c).link = s.link.abandoned ∧ (y.ended n r c).period = { s.period with isOpen := false } ∧
    (y.ended n r c).live = (if s.adoption.isSome then s.staged else s.live) ∧ (y.ended n r c).adoption = none ∧
    (y.ended n r c).clockSetting = none ∧ (y.ended n r c).clock = y.waitingAnswered.clock ∧
    (y.ended n r c).events = s.events ∧ (y.ended n r c).port = s.port ∧ (y.ended n r c).lastClosed = s.lastClosed ∧
    (y.ended n r c).stage = .idle ∧ (y.ended n r c).run = r ∧ (y.ended n r c).trace = y.trace := by
  obtain ⟨period, -, -, -, -, live, adoption, -, -, -, events, port, lastClosed, stage, link, -⟩ := hy.items
  obtain ⟨toLink, toClosed, toEvents, toStage, toPort, toPeriod, toLive, toAdoption, toSetting, toClock, -⟩ := stopped_items y
  have trace := stopped_trace y hy.idle
  rw [adoption, hy.staged, live] at toLive
  rw [period] at toPeriod
  obtain ⟨run, lastStage, lastClock, lastPeriod, lastSetting, lastLink, lastLastClosed, lastLive, lastAdoption, lastEvents, -,
    lastTrace, lastPort, -⟩ := ending_frame y.stopped n r (runReply .measuring c)
  exact ⟨lastLink.trans (toLink.trans link), lastPeriod.trans toPeriod, lastLive.trans toLive, lastAdoption.trans toAdoption,
    lastSetting.trans toSetting, lastClock.trans toClock, lastEvents.trans (toEvents.trans events),
    lastPort.trans (toPort.trans port), lastLastClosed.trans (toClosed.trans lastClosed), lastStage.trans (toStage.trans stage),
    run, lastTrace.trans trace⟩

theorem Halted.endedClock (c : Clock) : (s.clockSetting = none → (y.ended n r c).clock = s.clock) ∧
    ∀ x, s.clockSetting = some x → (y.ended n r c).clock = Clock.setTo x.day x.second x.weekday := by
  obtain ⟨-, clock, -, -, -, -, -, setting, -⟩ := hy.items
  obtain ⟨-, -, -, -, -, toClock, -⟩ := hy.endedItems (r := r) c
  obtain ⟨kept, set⟩ := waitingAnswered_clock y
  exact ⟨fun hnone => toClock.trans ((kept (setting.trans hnone)).trans clock), fun x hx => toClock.trans (set x (setting.trans hx))⟩

/-- Where no period is open the channels and the shelf keep their numbers; else every open channel has its record (R46, R62). -/
theorem Halted.periodEnded (c : Clock) :
    (s.period.isOpen = true →
      (∀ h, (s.channel h).isOpen = true → ((y.ended n r c).channel h).sequence = (s.channel h).sequence + 1) ∧
      PeriodRecordsHanded s (y.ended n r c) (openHeads s) true (actualLength s.period s.clock)) ∧
    (s.period.isOpen = false → (y.ended n r c).records = s.records ∧
      (y.ended n r c).isPending .record = s.isPending .record ∧
      ∀ h, ((y.ended n r c).channel h).sequence = (s.channel h).sequence) := by
  have handed := hy.handed (r := r) c
  refine ⟨fun hopen => ⟨fun h hchannel => ?_, ?_⟩, fun hshut => ?_⟩
  · rw [hy.sequence, State.cutChannel, if_pos hopen, Channel.ended, if_pos hchannel]
  · rwa [Machine.cutHeads, if_pos hopen] at handed
  · rw [Machine.cutHeads, if_neg (by simp [hshut])] at handed
    obtain ⟨records, pending⟩ := handed.none
    exact ⟨records, pending, fun h => by rw [hy.sequence, State.cutChannel, if_neg (by simp [hshut])]⟩

theorem Halted.below_ended (c : Clock) : ∀ a < 0x0800, (y.ended n r c).store.read a = s.store.read a :=
  fun a ha => (ended_keeps y n r c (.inl ha)).trans (hy.below a ha)

/-- A truncated capture's words stand in its slot, where they fit it (R159, R160). -/
theorem Halted.traceHeld (k : Clock) {c : Capture} (hc : s.trace.mode = .capturing c) (hfits : CaptureFits s c) :
    HoldsWords (y.ended n r k) (traceAddr c.slot 0) (traceWords c true s.trace.missed (s.trace.number + 1)) := by
  have length := length_traceWords hfits true s.trace.missed (s.trace.number + 1)
  obtain ⟨above, below⟩ := traceAddr_bounds c.slot
  have written : HoldsWords y (traceAddr c.slot 0) (traceWords c true s.trace.missed (s.trace.number + 1)) := fun i hi => by
    rw [State.peekWord, (hy.truncated c hc).store]
    exact readWord_writeWords _ _ _ _ hi (by simp only [Config.storeBytes]; omega)
  exact written.kept fun b _ _ => ended_keeps y n r k (.inr (by omega))

theorem Halted.endedTrace (k : Clock) : (y.ended n r k).trace.settings = s.trace.settings ∧
    ∀ c, s.trace.mode = .capturing c → (y.ended n r k).trace.list = s.trace.list ++ [c.slot] ∧
      (y.ended n r k).trace.number = s.trace.number + 1 ∧
      (CaptureFits s c →
        HoldsWords (y.ended n r k) (traceAddr c.slot 0) (traceWords c true s.trace.missed (s.trace.number + 1))) := by
  obtain ⟨-, -, -, -, -, -, -, -, -, -, -, trace⟩ := hy.endedItems (r := r) k
  refine ⟨by rw [trace, hy.settings], fun c hc => ⟨?_, ?_, hy.traceHeld k hc⟩⟩
  · rw [trace, (hy.truncated c hc).list]
  · rw [trace, (hy.truncated c hc).number]

theorem Halted.tracePending (k : Clock) :
    (∀ c, s.trace.mode = .capturing c →
      (y.ended n r k).isPending .trace = (!s.trace.settings.repeating || s.isPending .trace)) ∧
    ((∀ c, s.trace.mode ≠ .capturing c) → (y.ended n r k).isPending .trace = s.isPending .trace) := by
  have pending := hy.pending (r := r) k (k := .trace) (by simp) (by simp)
  refine ⟨fun c hc => ?_, fun hidle => ?_⟩
  · rw [pending]
    unfold State.truncatedClasses
    cases s.trace.settings.repeating <;> simp [hc]
  · rw [pending, (truncatedBytes_of_idle hidle).2]
    simp

theorem Halted.linkPending (k : Clock) : (y.ended n r k).isPending .link = (s.link.badNote || s.isPending .link) := by
  have never : .link ∉ s.truncatedClasses := by
    unfold State.truncatedClasses
    split
    · split <;> simp
    · simp
  rw [hy.pending k (by simp) (by simp)]
  simp [never]

theorem Halted.otherPending (k : Clock) {c : NoticeClass} (hc : c ∈ [NoticeClass.head, .event, .port]) :
    (y.ended n r k).isPending c = s.isPending c := by
  have ne : c ≠ .record ∧ c ≠ .answer ∧ c ≠ .link ∧ c ≠ .trace := by
    simp only [List.mem_cons, List.not_mem_nil, or_false] at hc
    rcases hc with rfl | rfl | rfl <;> simp
  obtain ⟨record, answer, link, trace⟩ := ne
  have never : c ∉ s.truncatedClasses := by
    unfold State.truncatedClasses
    split
    · split <;> simp [trace]
    · simp
  rw [hy.pending k record answer]
  simp [never, link]

theorem measuringEnded (hposted : (s.slot n).state = .posted) (horder : RequestsInOrder s) :
    MeasuringEnded s (y.ended n r s.clock) n := by
  obtain ⟨link, period, live, adoption, setting, -, -, -, -, -, -, trace⟩ := hy.endedItems (r := r) s.clock
  obtain ⟨opened, shut⟩ := hy.periodEnded (r := r) s.clock
  obtain ⟨traceTruncated, traceKept⟩ := hy.tracePending (r := r) s.clock
  obtain ⟨clockKept, clockSet⟩ := hy.endedClock (r := r) s.clock
  obtain ⟨adopted, applied⟩ := hy.waitingAnswers (r := r) hposted horder s.clock
  obtain ⟨queue, inService, slots⟩ := hy.requests (r := r) s.clock
  have lastClosed : y.lastClosed = s.lastClosed := hy.items.2.2.2.2.2.2.2.2.2.2.2.2.1
  have pages := ended_pagesClosed y n r s.clock
  rw [lastClosed] at pages
  refine ⟨by rw [link]; rfl, by rw [link]; rfl, by rw [link]; rfl, by rw [link]; rfl, fun h => buffer_of_abandoned link h,
    hy.linkPending s.clock, period, fun k hk => ?_, fun k hk => ?_, opened, shut, fun c hc => ⟨?_, traceTruncated c hc⟩,
    fun hidle => ⟨?_, traceKept hidle⟩, hy.mask s.clock, hy.otherPending s.clock (by simp), hy.otherPending s.clock (by simp),
    hy.otherPending s.clock (by simp), hy.bytesEnded s.clock, fun h hoff => (hy.head_of_off hoff).1, fun h hon => ?_,
    fun h hstate => ?_, adoption, live, adopted, setting, clockKept, fun x hx => ⟨clockSet x hx, applied x hx⟩, pages,
    hy.below_ended s.clock, queue, inService, slots, hy.ownAnswer hposted horder s.clock, ?_⟩
  · rw [hy.ruleEnded, if_pos hk]
    rfl
  · rw [hy.ruleEnded, if_neg (by simp [hk])]
    rfl
  · rw [trace]
    exact (hy.truncated c hc).missed
  · rw [trace, hy.kept hidle]
  · obtain ⟨head, channel, -⟩ := hy.head_of_on (r := r) (c := s.clock) hon
    refine ⟨head, by rw [channel]; rfl, by rw [channel]; rfl, ?_⟩
    rw [channel, ← fast_cutChannel]
    split <;> rfl
  · obtain ⟨-, channel, calibration⟩ := hy.head_of_on (r := r) (c := s.clock) (h := h) (by simp [hstate])
    rw [if_pos hstate] at channel calibration
    exact ⟨by rw [channel]; rfl, calibration, fun c hc => hy.calibrationAnswer hposted horder s.clock hstate hc⟩
  · rw [State.ended, (ending_raised y.stopped n r _).1]
    simp

end Common

/-! ## STOP and PARK -/

theorem stopMeasuring_eq {x y : State} {f : State → State} (hf : f x.abandonTick = y) : x.stopMeasuring f = y.stopped := by
  have cut : y.cutForStop.lastClosed = y.lastClosed := by
    rw [cutForStop_eq]
    simp
  have lastClosed : y.cutForStop.applySetting.stopHeads.lastClosed = y.lastClosed := by simp [cut]
  unfold State.stopMeasuring
  dsimp only
  rw [hf, lastClosed, stopped_eq, State.waitingAnswered, ← cutForStop_eq]

theorem workStop_of_measuring {x : State} (hrun : x.run = .measuring) (n : Fin 8) :
    (State.workStop x n).endService = x.abandonTick.disarm.ended n .stopped x.clock := by
  have work : (State.workStop x n).endService = (x.stopMeasuring State.disarm).ending n .stopped (runReply .measuring x.clock) := by
    simp only [State.workStop, hrun, State.ending]
  rw [work, stopMeasuring_eq rfl, State.ended]

theorem workPark_of_measuring {x : State} (hrun : x.run = .measuring) (n : Fin 8) :
    (State.workPark x n).endService = x.abandonTick.parkTrace.ended n .parked x.clock := by
  have work : (State.workPark x n).endService = (x.stopMeasuring State.parkTrace).ending n .parked (runReply .measuring x.clock) := by
    simp only [State.workPark, hrun, State.ending]
  rw [work, stopMeasuring_eq rfl, State.ended]

theorem workStop_of_parked {x : State} (hrun : x.run = .parked) (n : Fin 8) :
    (State.workStop x n).endService = x.disarm.ending n .stopped (runReply .parked x.clock) := by
  simp only [State.workStop, hrun, State.ending]

/-- A request of STOP or PARK that is served as the tick event stands. -/
theorem served_beforeMark {s : State} {n : Fin 8} {k : RequestKind} (hserved : Served s n k)
    (hstage : s.stage = .idle ∨ s.stage = .stepped) (work : State → Fin 8 → State) :
    s.finishBeforeMark.serve (isKind k) work = (work (s.take n) n).endService := by
  rw [finishBeforeMark_of_done hstage]
  exact serve_of_served hserved work

theorem disarm_of_idle {x : State} (hidle : ∀ c, x.trace.mode ≠ .capturing c) :
    x.disarm = { x with trace := { x.trace with mode := .disarmed } } := by
  rw [State.disarm, truncateCapture_of_idle hidle]
  rfl

/-- Settles O30: the state past the abandoned tick and the disarmed trace unit ends the run; in PARKED only the trace unit and the
answer remain. -/
theorem stopEndsTheRun : Obligations.StopEndsTheRun := by
  refine ⟨fun s n hserved hrun horder => ?_, fun s n hserved hrun hidle => ?_⟩
  · have served := (served_beforeMark hserved (of_decide_eq_true hserved.2.1) State.workStop).trans
      (workStop_of_measuring (x := s.take n) hrun n)
    have disarmed : (s.take n).abandonTick.disarm.trace.mode = .disarmed := rfl
    have hy : Halted s (s.take n).abandonTick.disarm n := halted_of_stopped (disarm_stops _)
    rw [take_clock] at served
    generalize (s.take n).abandonTick.disarm = y at served disarmed hy
    obtain ⟨-, -, -, -, -, -, events, port, lastClosed, stage, run, trace⟩ := hy.endedItems (r := .stopped) s.clock
    obtain ⟨settings, truncated⟩ := hy.endedTrace (r := .stopped) s.clock
    exact ⟨_, congrArg Host.Outcome.next served, measuringEnded hy hserved.1.2.2.2.2 horder, run, by rw [trace, disarmed], settings,
      fun hidle => by rw [trace, hy.kept hidle, disarmed], truncated, events, port, lastClosed, stage⟩
  · have served := (served_beforeMark hserved (of_decide_eq_true hserved.2.1) State.workStop).trans
      (workStop_of_parked (x := s.take n) hrun n)
    have disarmed := disarm_of_idle (x := s.take n) hidle
    rw [take_clock] at served
    generalize (s.take n).disarm = y at served disarmed
    have requests : y.requests = (s.take n).requests := by rw [disarmed]
    have notices : y.notices = s.notices := by rw [disarmed]; rfl
    have store : y.store = s.store := by rw [disarmed]; rfl
    refine ⟨_, congrArg Host.Outcome.next served, ?_, ?_, (BytesKept.of_store store _).trans (ending_bytes y n .stopped _)⟩
    · rw [disarmed]
      apply State.eq_of_fields <;> simp [State.ending]
    · exact answers_of_work (x := { y with run := .stopped }) requests notices ..

/-- Settles O31: as STOP, from the state past the abandoned tick and the truncated capture. -/
theorem parkSuspendsTheRun : Obligations.ParkSuspendsTheRun := by
  intro s n hserved hrun horder
  have served := (served_beforeMark hserved (of_decide_eq_true hserved.2.1) State.workPark).trans
    (workPark_of_measuring (x := s.take n) hrun n)
  have hy : Halted s (s.take n).abandonTick.parkTrace n := halted_of_stopped (parkTrace_stops _)
  have taken : (s.take n).abandonTick.trace = s.trace := by simp
  have idle : (∀ c, s.trace.mode ≠ .capturing c) → (s.take n).abandonTick.parkTrace.trace = s.trace := fun hidle => by
    rw [State.parkTrace, truncateCapture_of_idle (by rwa [taken]), taken]
  have armed : ∀ c, s.trace.mode = .capturing c → (s.take n).abandonTick.parkTrace.trace.mode = .armed := fun c hc => by
    rw [State.parkTrace, truncateCapture_of_capturing (by rw [taken, hc]), completeCapture_trace]
  rw [take_clock] at served
  generalize (s.take n).abandonTick.parkTrace = y at served idle armed hy
  obtain ⟨-, -, -, -, -, -, events, port, lastClosed, stage, run, trace⟩ := hy.endedItems (r := .parked) s.clock
  obtain ⟨settings, truncated⟩ := hy.endedTrace (r := .parked) s.clock
  exact ⟨_, congrArg Host.Outcome.next served, measuringEnded hy hserved.1.2.2.2.2 horder, run, settings,
    fun hidle => by rw [trace, idle hidle], fun c hc => ⟨by rw [trace, armed c hc], truncated c hc⟩, events, port, lastClosed, stage⟩

end Sys2Proof.Machine
end

section
/-! PROOFS. The evaluation at a second close (R119): it touches rules, events and trace only, and looks neither at the pair nor at
the store or the notices. -/

namespace Sys2Proof.Machine

open Sys2Proof

/-! ## The same words written into two memories -/

theorem read_write_congr {m m' : Mem} {b : Nat} (hm : m'.read b = m.read b) (a : Nat) (v : Byte) :
    (m'.write a v).read b = (m.write a v).read b := by
  by_cases hab : a = b
  · subst hab
    by_cases ha : a < Config.storeBytes
    · rw [read_write_same _ _ _ ha, read_write_same _ _ _ ha]
    · rw [Mem.write, Mem.write, if_neg ha, if_neg ha, hm]
  · rw [read_write_ne _ _ _ _ hab, read_write_ne _ _ _ _ hab, hm]

theorem read_writeWords_congr {m m' : Mem} {b : Nat} (hm : m'.read b = m.read b) (a : Nat) (ws : List Word) :
    (m'.writeWords a ws).read b = (m.writeWords a ws).read b := by
  induction ws generalizing m m' a with
  | nil => exact hm
  | cons w ws ih => exact ih (read_write_congr (read_write_congr hm ..) ..) (a + 2)

/-! ## States that an evaluation takes alike -/

/-- The states differ in the pair, the store and the notices only, and agree on the event shelf's bytes and class. -/
structure EvalAlike (a b : State) : Prop where
  rest : b = { a with link := b.link, store := b.store, notices := b.notices }
  shelf : ∀ x, 0x0C00 ≤ x → x < 0x1000 → b.store.read x = a.store.read x
  event : b.isPending .event = a.isPending .event

/-- Between s and t only the event shelf's bytes and class are touched, beside rules, events and trace. -/
structure Evaluated (s t : State) : Prop where
  bytes : BytesKept s t [(0x0C00, 0x1000)]
  classes : ∀ c, c ≠ .event → t.isPending c = s.isPending c
  mask : t.notices.mask = s.notices.mask

theorem Evaluated.of_eq {s t : State} (hstore : t.store = s.store) (hnotices : t.notices = s.notices) : Evaluated s t :=
  ⟨.of_store hstore _, fun c _ => by simp only [State.isPending, hnotices], by rw [hnotices]⟩

theorem Evaluated.trans {s t u : State} (hst : Evaluated s t) (htu : Evaluated t u) : Evaluated s u :=
  ⟨hst.bytes.trans htu.bytes, fun c hc => (htu.classes c hc).trans (hst.classes c hc), htu.mask.trans hst.mask⟩

theorem Evaluated.raise {s t : State} (hst : Evaluated s t) : Evaluated s (t.raise .event) :=
  ⟨hst.bytes, fun c hc => by rw [isPending_raise, hst.classes c hc]; simp [Ne.symm hc], hst.mask⟩

theorem eventAddr_bounds (n : Fin 32) : 0x0C00 ≤ eventAddr n 0 ∧ eventAddr n 0 + 32 ≤ 0x1000 := by
  have := n.isLt
  simp only [eventAddr, Config.eventBase]
  omega

theorem length_eventImage (e : EventData) (withheld : Nat) (number : DWord) : (eventImage e withheld number).length = 16 := rfl

section Post

theorem postEvent_of_full {s : State} (hfull : lowestFree s.events.list = none) (e : EventData) : s.postEvent e =
    State.raise { s with events := { s.events with withheld := saturate s.events.withheld } } .event := by
  simp only [State.postEvent, hfull]

theorem postEvent_of_free {s : State} {n : Fin 32} (hn : lowestFree s.events.list = some n) (e : EventData) : s.postEvent e =
    State.raise { s with
      store := s.store.writeWords (eventAddr n 0) (eventImage e s.events.withheld (s.events.number + 1))
      events := { list := s.events.list ++ [n], withheld := 0, number := s.events.number + 1 } } .event := by
  simp only [State.postEvent, hn]
  rfl

theorem postEvent_evaluated (s : State) (e : EventData) : Evaluated s (s.postEvent e) := by
  cases hn : lowestFree s.events.list with
  | none =>
    rw [postEvent_of_full hn]
    exact .raise (.of_eq rfl rfl)
  | some n =>
    rw [postEvent_of_free hn]
    refine .raise ⟨fun a ha => ?_, fun _ _ => rfl, rfl⟩
    have bounds := eventAddr_bounds n
    have outside := ha _ List.mem_cons_self
    exact read_writeWords_outside _ _ _ _ (by rw [length_eventImage]; omega)

theorem trigger_evaluated (s : State) (x : Trigger) : Evaluated s (s.trigger x) := .of_eq (by simp) (by simp)

theorem raiseRule_evaluated (s : State) (k : TriggerKind) (n : Fin 24) (best : Nat × Nat) (flags : CompareFlags) (closed : Clock) :
    Evaluated s (s.raiseRule k n best flags closed) := by
  unfold State.raiseRule
  dsimp only
  split
  · exact (postEvent_evaluated ..).trans (trigger_evaluated ..)
  · exact postEvent_evaluated ..

end Post

/-- Evaluations of rule n that take a to x and b to y do the same: nothing, or the rule's items set, or its event raised besides. -/
def SameStep (n : Fin 24) (closed : Clock) (a b x y : State) : Prop :=
  (x = a ∧ y = b) ∨ (∃ r, x = a.setRule n r ∧ y = b.setRule n r) ∨
    ∃ r k best flags, x = (a.setRule n r).raiseRule k n best flags closed ∧ y = (b.setRule n r).raiseRule k n best flags closed

section Alike

theorem EvalAlike.refl (a : State) : EvalAlike a a := ⟨rfl, fun _ _ _ => rfl, rfl⟩

variable {a b : State} (h : EvalAlike a b)
include h

/-- What an evaluation reads is the same in both states. -/
theorem EvalAlike.views : b.rules = a.rules ∧ b.live = a.live ∧ b.period = a.period ∧ b.events = a.events ∧ b.trace = a.trace ∧
    (∀ m, b.memberMaximum m = a.memberMaximum m) ∧ b.memberFloor = a.memberFloor := by
  rw [h.rest]
  exact ⟨rfl, rfl, rfl, rfl, rfl, fun _ => rfl, rfl⟩

theorem EvalAlike.setRule (n : Fin 24) (r : RuleState) : EvalAlike (a.setRule n r) (b.setRule n r) where
  rest := by
    rw [h.rest]
    rfl
  shelf := h.shelf
  event := h.event

theorem EvalAlike.postEvent (e : EventData) : EvalAlike (a.postEvent e) (b.postEvent e) := by
  obtain ⟨-, -, -, events, -⟩ := h.views
  cases hn : lowestFree a.events.list with
  | none =>
    rw [postEvent_of_full hn, postEvent_of_full (by rw [events, hn])]
    refine ⟨?_, h.shelf, by rw [isPending_raise_same, isPending_raise_same]⟩
    rw [h.rest]
    rfl
  | some n =>
    rw [postEvent_of_free hn, postEvent_of_free (by rw [events]; exact hn), events]
    refine ⟨?_, fun x hlow hhigh => read_writeWords_congr (h.shelf x hlow hhigh) .., by
      rw [isPending_raise_same, isPending_raise_same]⟩
    rw [h.rest]
    rfl

theorem EvalAlike.trigger (x : Trigger) : EvalAlike (a.trigger x) (b.trigger x) := by
  have storeA : (a.trigger x).store = a.store := by simp
  have storeB : (b.trigger x).store = b.store := by simp
  have noticesA : (a.trigger x).notices = a.notices := by simp
  have noticesB : (b.trigger x).notices = b.notices := by simp
  have linkB : (b.trigger x).link = b.link := by simp
  have trace : (b.trigger x).trace = (a.trigger x).trace := by
    have outcome : b.triggerOutcome x = a.triggerOutcome x := by
      rw [h.rest]
      rfl
    have capture : ∀ n, newCapture b x n = newCapture a x n := by
      rw [h.rest]
      exact fun _ => rfl
    obtain ⟨-, -, -, -, trace, -⟩ := h.views
    unfold State.trigger
    rw [outcome]
    cases a.triggerOutcome x with
    | ignored => exact trace
    | missed => simp only [State.missTrigger, trace]
    | started n => simp only [State.setTraceMode, capture, trace]
    | retriggered =>
      dsimp only
      rw [trace]
      cases a.trace.mode with
      | capturing c => simp only [State.setTraceMode, trace]
      | armed => exact trace
      | disarmed => exact trace
  refine ⟨?_, by rw [storeA, storeB]; exact h.shelf, by simp only [State.isPending, noticesA, noticesB]; exact h.event⟩
  have frame : ∀ s : State, s.trigger x = { s with trace := (s.trigger x).trace } := fun s => by
    apply State.eq_of_fields <;> simp
  rw [storeB, noticesB, linkB, frame b, trace, frame a, h.rest]

theorem EvalAlike.raiseRule (k : TriggerKind) (n : Fin 24) (best : Nat × Nat) (flags : CompareFlags) (closed : Clock) :
    EvalAlike (a.raiseRule k n best flags closed) (b.raiseRule k n best flags closed) := by
  obtain ⟨-, live, -⟩ := h.views
  have event : b.ruleEvent k n best flags closed = a.ruleEvent k n best flags closed := by
    rw [h.rest]
    rfl
  have trigger : b.ruleTrigger k n best.2 closed = a.ruleTrigger k n best.2 closed := by
    rw [h.rest]
    rfl
  unfold State.raiseRule
  rw [live, event, trigger]
  dsimp only
  split
  · exact (h.postEvent _).trigger _
  · exact h.postEvent _

/-- The evaluation of a rule does the same in both states. -/
theorem evalAtSecond_alike (closed : Clock) (n : Fin 24) :
    SameStep n closed a b (State.evalAtSecond closed a n) (State.evalAtSecond closed b n) := by
  obtain ⟨rules, live, period, -, -, maximum, floor⟩ := h.views
  have rule : b.rule n = a.rule n := by simp only [State.rule, rules]
  have instant : ∀ m, SameStep n closed a b (a.evalInstant n m closed) (b.evalInstant n m closed) := fun m => by
    unfold State.evalInstant
    rw [rule, live, maximum]
    dsimp only
    split
    · cases receptorValue a.live (ruleReceptor a.live n) (a.memberMaximum m) with
      | none => exact .inl ⟨rfl, rfl⟩
      | some best =>
        dsimp only
        split
        · exact .inr (.inr ⟨_, _, _, _, rfl, rfl⟩)
        · exact .inr (.inl ⟨_, rfl, rfl⟩)
    · exact .inl ⟨rfl, rfl⟩
  have certain : SameStep n closed a b (a.evalCertain n closed) (b.evalCertain n closed) := by
    unfold State.evalCertain
    rw [rule, live, period, floor]
    dsimp only
    split
    · cases receptorValue a.live (ruleReceptor a.live n) a.memberFloor with
      | none => exact .inl ⟨rfl, rfl⟩
      | some best =>
        dsimp only
        split
        · exact .inr (.inr ⟨_, _, _, _, rfl, rfl⟩)
        · exact .inl ⟨rfl, rfl⟩
    · exact .inl ⟨rfl, rfl⟩
  unfold State.evalAtSecond
  rw [live]
  split
  · cases ruleMetric a.live n with
    | none => exact .inl ⟨rfl, rfl⟩
    | some m =>
      cases m with
      | lafmax => exact instant _
      | lcpeak => exact instant _
      | laeq =>
        dsimp only
        split
        · exact certain
        · exact .inl ⟨rfl, rfl⟩
      | la10 => exact .inl ⟨rfl, rfl⟩
      | la90 => exact .inl ⟨rfl, rfl⟩
  · exact .inl ⟨rfl, rfl⟩

theorem EvalAlike.evalAtSecond (closed : Clock) (n : Fin 24) :
    EvalAlike (State.evalAtSecond closed a n) (State.evalAtSecond closed b n) := by
  rcases evalAtSecond_alike h closed n with ⟨ea, eb⟩ | ⟨r, ea, eb⟩ | ⟨r, k, best, flags, ea, eb⟩
  · rwa [ea, eb]
  · rw [ea, eb]
    exact h.setRule n r
  · rw [ea, eb]
    exact (h.setRule n r).raiseRule k n best flags closed

theorem EvalAlike.evalSecond (closed : Clock) : EvalAlike (a.evalSecond closed) (b.evalSecond closed) := by
  unfold State.evalSecond
  generalize allRules = l
  induction l generalizing a b with
  | nil => exact h
  | cons n l ih => exact ih (h.evalAtSecond closed n)

end Alike

theorem evalAtSecond_evaluated (closed : Clock) (s : State) (n : Fin 24) : Evaluated s (State.evalAtSecond closed s n) := by
  rcases evalAtSecond_alike (.refl s) closed n with ⟨e, -⟩ | ⟨r, e, -⟩ | ⟨r, k, best, flags, e, -⟩
  · rw [e]
    exact .of_eq rfl rfl
  · rw [e]
    exact .of_eq rfl rfl
  · have set : Evaluated s (s.setRule n r) := .of_eq rfl rfl
    rw [e]
    exact set.trans (raiseRule_evaluated ..)

theorem evalSecond_evaluated (s : State) (closed : Clock) : Evaluated s (s.evalSecond closed) :=
  List.foldlRecOn (motive := fun t => Evaluated s t) allRules _ (.of_eq rfl rfl) fun t ht n _ =>
    ht.trans (evalAtSecond_evaluated closed t n)

end Sys2Proof.Machine
end

section
/-! PROOFS. A second close (R36, R42, R59 to R61, R114, R115, R119): the note examined, the pages written, the rules evaluated, the
second accumulators cleared. -/

namespace Sys2Proof.Machine

open Sys2Proof

/-! ## The pages at a second close -/

/-- The stamp of the second that the clock stands in (R60). -/
def Clock.stamp (c : Clock) : Stamp := { day := c.day, second := c.second }

theorem flagBits_three (b0 b1 b2 : Bool) : word (flagBits [b0, b1, b2]) = sixFlags b0 b1 b2 false false false := by
  rw [← flagBits_eq_sixFlags]
  simp [flagBits]

section Pages

variable (u : State)

theorem headPage_of_open {h : Fin 12} (hopen : (u.channel h).isOpen = true) : u.headPage h u.clock.stamp = openHeadPage u h := by
  have flags : ∀ a b c, pageFlagWord a b c = sixFlags a b c false false false := fun _ _ _ => flagBits_three ..
  rw [State.headPage, if_pos hopen]
  simp only [flags]
  rfl

theorem headPage_of_closed {h : Fin 12} (hclosed : (u.channel h).isOpen = false) (st : Stamp) :
    u.headPage h st = closedHeadPage st := by
  rw [State.headPage, if_neg (by simp [hclosed])]

theorem memberLaf_eq : u.memberLaf = memberValue (countedLaf u) := by
  funext g
  unfold State.memberLaf memberValue
  cases headOf g with
  | none => rfl
  | some h =>
    simp only [countedLaf, State.lafNow, Option.isNone_iff_eq_none]
    split
    · next hcounted => exact if_pos hcounted.1
    · rfl

theorem memberLeq_eq : u.memberLeq = memberValue (countedLeq u) := by
  funext g
  unfold State.memberLeq memberValue
  cases headOf g <;> rfl

theorem heldValue_eq (g : Nat) :
    u.heldValue g = allHeads.any fun h => decide (h.val = g ∧ (u.channel h).sec.present = 0) := by
  rw [Bool.eq_iff_iff, List.any_eq_true]
  by_cases hg : g < 12
  · have named : headOf g = some ⟨g, hg⟩ := dif_pos hg
    simp only [State.heldValue, named, decide_eq_true_eq]
    refine ⟨fun hheld => ⟨⟨g, hg⟩, mem_allHeads _, rfl, hheld⟩, ?_⟩
    rintro ⟨k, -, rfl, hheld⟩
    exact hheld
  · have unnamed : headOf g = none := dif_neg hg
    simp only [State.heldValue, unnamed, decide_eq_true_eq]
    refine ⟨fun hheld => absurd hheld Bool.false_ne_true, ?_⟩
    rintro ⟨k, -, rfl, -⟩
    exact absurd k.isLt hg

theorem receptorPage_of_used {r : Nat} (hused : receptorInUse u.live r = true) :
    u.receptorPage r u.clock.stamp = usedReceptorPage u r := by
  rw [State.receptorPage, if_pos hused, usedReceptorPage, memberLaf_eq, memberLeq_eq]
  simp only [heldValue_eq, receptorFlagWord, flagBits_three]
  rfl

theorem receptorPage_of_free {r : Nat} (hfree : receptorInUse u.live r = false) (st : Stamp) :
    u.receptorPage r st = closedReceptorPage st := by
  rw [State.receptorPage, if_neg (by simp [hfree])]

theorem length_headPage (h : Fin 12) (st : Stamp) : (u.headPage h st).length = 16 := by
  unfold State.headPage
  split <;> rfl

theorem length_receptorPage (r : Nat) (st : Stamp) : (u.receptorPage r st).length = 8 := by
  unfold State.receptorPage
  split <;> rfl

end Pages

/-! ## The second close -/

section Close

variable (u : State)

theorem examineNote_link : u.examineNote.link = { u.link with badNote := false } := by
  unfold State.examineNote
  split
  · rfl
  · next hnote =>
    have clear : u.link.badNote = false := by simpa using hnote
    rw [← clear]

theorem examineNote_raises : OnlyRaised u u.examineNote (if u.link.badNote then [.link] else []) := by
  unfold State.examineNote
  split
  · exact ⟨(raise_raises { u with link := { u.link with badNote := false } } .link).1, rfl⟩
  · exact .of_notices rfl

theorem examineNote_eq : u.examineNote = { u with link := u.examineNote.link, notices := u.examineNote.notices } := by
  apply State.eq_of_fields <;> simp

/-- The state in which the rules are evaluated: the note examined and the pages written. -/
def State.pagesWritten : State := u.examineNote.writePages u.clock.stamp

theorem pagesWritten_eq : u.pagesWritten = u.examineNote.pokePages (fun h => u.headPage h u.clock.stamp)
    (fun r => u.receptorPage r u.clock.stamp) := by
  have head : ∀ h, u.examineNote.headPage h u.clock.stamp = u.headPage h u.clock.stamp := by
    rw [examineNote_eq u]
    exact fun _ => rfl
  have receptor : ∀ r, u.examineNote.receptorPage r u.clock.stamp = u.receptorPage r u.clock.stamp := by
    rw [examineNote_eq u]
    exact fun _ => rfl
  rw [State.pagesWritten, writePages_eq]
  simp only [head, receptor]

theorem pagesWritten_bytes : BytesKept u u.pagesWritten [pageBytes] := by
  have store : u.examineNote.store = u.store := by simp
  rw [pagesWritten_eq]
  exact (BytesKept.of_store store _).trans (pokePages_bytes _ (fun h => length_headPage u h _) fun r => length_receptorPage u r _)

theorem pagesWritten_head (h : Fin 12) : HoldsWords u.pagesWritten (headPageAddr h) (u.headPage h u.clock.stamp) := by
  rw [pagesWritten_eq]
  exact pokePages_head _ (fun h => length_headPage u h _) (fun r => length_receptorPage u r _) h

theorem pagesWritten_receptor {r : Nat} (hr : r < 6) :
    HoldsWords u.pagesWritten (receptorPageAddr r) (u.receptorPage r u.clock.stamp) := by
  rw [pagesWritten_eq]
  exact pokePages_receptor _ (fun r => length_receptorPage u r _) hr

theorem pagesWritten_raises : OnlyRaised u u.pagesWritten (if u.link.badNote then [.link] else []) := by
  have raised := examineNote_raises u
  have notices : u.pagesWritten.notices = u.examineNote.notices := by simp [State.pagesWritten]
  exact ⟨fun c => by rw [← raised.1 c]; simp only [State.isPending, notices], by rw [notices, raised.2]⟩

theorem pagesWritten_alike : EvalAlike u u.pagesWritten where
  rest := by apply State.eq_of_fields <;> simp [State.pagesWritten]
  shelf a _ _ := pagesWritten_bytes u a (by simp [pageBytes]; omega)
  event := by
    rw [(pagesWritten_raises u).1]
    split <;> simp

/-- The second accumulators of an open channel cleared (R61). -/
def Channel.secondCleared (ch : Channel) : Channel := if ch.isOpen then { ch with sec := SecondAcc.cleared } else ch

theorem clearSeconds_channel (h : Fin 12) : u.clearSeconds.channel h = (u.channel h).secondCleared := by
  obtain ⟨v, hv, he⟩ := foldl_allHeads_at (fun t => t.channel h)
    (fun t h => if (t.channel h).isOpen then t.setChannel h { t.channel h with sec := SecondAcc.cleared } else t) h
    (fun t g hg => by
      split
      · exact channel_setChannel_ne _ _ _ _ hg
      · rfl) u
  dsimp only at hv he
  rw [State.clearSeconds, he, ← hv, Channel.secondCleared]
  split
  · rw [channel_setChannel_same]
  · rfl

theorem closeSecond_eq : u.closeSecond = { (u.pagesWritten.evalSecond u.clock).clearSeconds with lastClosed := u.clock.stamp } := rfl

/-- What a second close from u leaves in w, the rules evaluated as from u itself. -/
structure SecondClosed (u w : State) : Prop where
  frame : w = { u with
    lastClosed := u.clock.stamp, link := { u.link with badNote := false }, channels := w.channels
    rules := (u.evalSecond u.clock).rules, events := (u.evalSecond u.clock).events, trace := (u.evalSecond u.clock).trace
    store := w.store, notices := w.notices }
  channel : ∀ h, w.channel h = (u.channel h).secondCleared
  bytes : BytesKept u w [pageBytes, (0x0C00, 0x1000)]
  shelf : ∀ a, 0x0C00 ≤ a → a < 0x1000 → w.store.read a = (u.evalSecond u.clock).store.read a
  headPage : ∀ h, HoldsWords w (headPageAddr h) (u.headPage h u.clock.stamp)
  receptorPage : ∀ r < 6, HoldsWords w (receptorPageAddr r) (u.receptorPage r u.clock.stamp)
  link : w.isPending .link = (u.link.badNote || u.isPending .link)
  event : w.isPending .event = (u.evalSecond u.clock).isPending .event
  other : ∀ c, c ≠ .link → c ≠ .event → w.isPending c = u.isPending c
  mask : w.notices.mask = u.notices.mask

theorem closeSecond_closes : SecondClosed u u.closeSecond := by
  have alike := (pagesWritten_alike u).evalSecond u.clock
  have written := pagesWritten_bytes u
  have evaluated := evalSecond_evaluated u.pagesWritten u.clock
  have raised := pagesWritten_raises u
  obtain ⟨rules, -, -, events, trace, -, -⟩ := alike.views
  have store : u.closeSecond.store = (u.pagesWritten.evalSecond u.clock).store := by simp [closeSecond_eq]
  have notices : u.closeSecond.notices = (u.pagesWritten.evalSecond u.clock).notices := by simp [closeSecond_eq]
  have pending : ∀ c, u.closeSecond.isPending c = (u.pagesWritten.evalSecond u.clock).isPending c := fun c => by
    simp only [State.isPending, notices]
  have pages : ∀ a, 0x0800 ≤ a → a < 0x09E0 → u.closeSecond.store.read a = u.pagesWritten.store.read a := fun a _ ha => by
    rw [store]
    exact evaluated.bytes a (by simp; omega)
  have link : u.closeSecond.link = { u.link with badNote := false } := by
    rw [← examineNote_link]
    simp [closeSecond_eq, State.pagesWritten]
  have closedRules : u.closeSecond.rules = (u.evalSecond u.clock).rules := by
    rw [← rules]
    simp [closeSecond_eq]
  have closedEvents : u.closeSecond.events = (u.evalSecond u.clock).events := by
    rw [← events]
    simp [closeSecond_eq]
  have closedTrace : u.closeSecond.trace = (u.evalSecond u.clock).trace := by
    rw [← trace]
    simp [closeSecond_eq]
  refine ⟨?_, fun h => ?_, ?_, fun a hlow hhigh => ?_, fun h => ?_, fun r hr => ?_, ?_, ?_, fun c hlink hevent => ?_, ?_⟩
  · apply State.eq_of_fields (h9 := link)
    case h15 => simpa only using closedRules
    case h16 => simpa only using closedEvents
    case h18 => simpa only using closedTrace
    all_goals simp [closeSecond_eq, State.pagesWritten]
  · have channels : u.closeSecond.channels = (u.pagesWritten.evalSecond u.clock).clearSeconds.channels := by rw [closeSecond_eq]
    have before : (u.pagesWritten.evalSecond u.clock).channel h = u.channel h := by simp [State.channel, State.pagesWritten]
    rw [← before, ← clearSeconds_channel, State.channel, State.channel, channels]
  · refine (written.mono ?_).trans ((BytesKept.trans evaluated.bytes (.of_store store _)).mono ?_)
    · simp
    · simp
  · rw [store]
    exact alike.shelf a hlow hhigh
  · exact headPage_kept (length_headPage u h _) (pagesWritten_head u h) pages
  · exact receptorPage_kept hr (length_receptorPage u r _) (pagesWritten_receptor u hr) pages
  · rw [pending, evaluated.classes _ (by simp), raised.1]
    cases u.link.badNote <;> simp
  · rw [pending]
    exact alike.event
  · rw [pending, evaluated.classes c hevent, raised.1]
    cases u.link.badNote <;> simp [hlink]
  · rw [notices, evaluated.mask, raised.2]

end Close

end Sys2Proof.Machine
end

section
/-! PROOFS. A clock setting applied at a second close (R49): the period ends CUT, a pending adoption is carried out, the clock takes
the new values, a new period begins, and the request is answered. -/

namespace Sys2Proof.Machine

open Sys2Proof

/-! ## The new period begun -/

/-- The state past the new clock values, the new period and the answer, from the state y past the CUT end (R49). -/
def State.periodReplaced (y : State) (x : ClockSetting) (old : Clock) : State :=
  (State.beginPeriod { y with clock := Clock.setTo x.day x.second x.weekday, clockSetting := none } false).answer x.slot .done 0
    (clockReply old)

/-- The state past the CUT end, a pending adoption carried out. -/
def State.cutAdopted (w : State) : State := (w.periodCut (lengthThrough w.period w.clock.second)).completeAdoption .cut

theorem replaceStep_eq (w : State) (x : ClockSetting) : w.replaceStep x = w.cutAdopted.periodReplaced x w.clock := by
  unfold State.replaceStep
  dsimp only
  rw [endPeriod_cut]
  rfl

section Replaced

variable (y : State) (x : ClockSetting) (old : Clock)

theorem periodReplaced_eq : y.periodReplaced x old =
    { y with clock := Clock.setTo x.day x.second x.weekday, clockSetting := none
             period := Period.begin (Clock.setTo x.day x.second x.weekday) (periodLength y.live) false
             channels := (y.periodReplaced x old).channels, requests := (y.periodReplaced x old).requests
             store := (y.periodReplaced x old).store, notices := (y.periodReplaced x old).notices } := by
  have period : (y.periodReplaced x old).period =
      Period.begin (Clock.setTo x.day x.second x.weekday) (periodLength y.live) false := by
    rw [State.periodReplaced, answer_period, beginPeriod_period]
    rfl
  apply State.eq_of_fields (h7 := period) <;> simp [State.periodReplaced]

theorem periodReplaced_channel (h : Fin 12) : (y.periodReplaced x old).channel h =
    if (y.head h).state = .off then { y.channel h with cutNote := false }
    else { (y.channel h).opened false false with cutNote := false } := by
  rw [State.periodReplaced, channel_answer_keep, beginPeriod_channel]
  rfl

theorem periodReplaced_effects : Effects y (y.periodReplaced x old) [x.slot] [.answer] :=
  Effects.after ⟨answer_answers .., answer_raises ..⟩ (.none (by simp) (by simp) (by simp))

theorem beginPeriod_slot (fresh : Bool) (n : Fin 8) : (y.beginPeriod fresh).slot n = y.slot n := by
  simp only [State.slot, beginPeriod_frame]

theorem periodReplaced_holds : HoldsAnswer (y.periodReplaced x old) x.slot (y.slot x.slot).postMark .done 0 (clockReply old) := by
  have holds := answer_holds (State.beginPeriod { y with clock := Clock.setTo x.day x.second x.weekday, clockSetting := none } false)
    x.slot .done 0 (clockReply old)
  rw [beginPeriod_slot] at holds
  exact holds

end Replaced

/-! ## The CUT end and the adoption -/

section Cut

variable (w : State)

theorem cutAdopted_keeps : w.cutAdopted.pending = w.pending ∧ w.cutAdopted.resetLow = w.resetLow ∧ w.cutAdopted.run = w.run ∧
    w.cutAdopted.lastClosed = w.lastClosed ∧ w.cutAdopted.stage = w.stage ∧ w.cutAdopted.link = w.link ∧ w.cutAdopted.heads = w.heads ∧
    w.cutAdopted.calibrations = w.calibrations ∧ w.cutAdopted.events = w.events ∧ w.cutAdopted.trace = w.trace ∧
    w.cutAdopted.port = w.port := by
  simp [State.cutAdopted, State.periodCut]

theorem periodCut_adoption (actual : Nat) : (w.periodCut actual).adoption = w.adoption := by
  simp [State.periodCut]

theorem cutAdopted_besides : Besides w w.cutAdopted w.adoption.toList (answerClass w.adoption) := by
  have adopted := (completeAdoption_effects (w.periodCut (lengthThrough w.period w.clock.second)) .cut).besides
  rw [periodCut_adoption] at adopted
  exact (periodCut_besides ..).trans adopted

theorem cutAdopted_handing : Handing w w.cutAdopted (openHeads w) true (lengthThrough w.period w.clock.second)
    (w.adoption.toList.map answerBytes) := by
  have handed := (completeAdoption_effects (w.periodCut (lengthThrough w.period w.clock.second)) .cut).handing (by simp)
    (record_not_mem_answerClass _) (periodCut_handing w _ (fun h => ⟨.refl w h, rfl⟩) (.refl ..))
  rwa [periodCut_adoption] at handed

theorem periodCut_staged (actual : Nat) : (w.periodCut actual).staged = w.staged :=
  staged_congr fun a ha => (periodCut_writes w actual).keeps_below a ha

theorem cutAdopted_items : w.cutAdopted.live = (if w.adoption.isSome then w.staged else w.live) ∧ w.cutAdopted.adoption = none ∧
    (∀ n, w.cutAdopted.rule n = if w.adoption.isSome then RuleState.clear else (w.rule n).unlatched) ∧
    ∀ h, w.cutAdopted.channel h = (w.channel h).ended := by
  have live := completeAdoption_live (w.periodCut (lengthThrough w.period w.clock.second)) .cut
  have rule := completeAdoption_rule (w.periodCut (lengthThrough w.period w.clock.second)) .cut
  have before : (w.periodCut (lengthThrough w.period w.clock.second)).live = w.live := by simp [State.periodCut]
  simp only [periodCut_adoption, periodCut_staged, before, periodCut_rule] at live rule
  refine ⟨live, completeAdoption_adoption .., rule, fun h => ?_⟩
  rw [← periodCut_channel w (lengthThrough w.period w.clock.second)]
  simp [State.cutAdopted, State.channel]

theorem cutAdopted_holds {n : Fin 8} (hn : w.adoption = some n) : HoldsAnswer w.cutAdopted n (w.slot n).postMark .done 0
    ([setWord w.staged 0, setWord w.staged 1, 2, w.clock.day] ++ words32 w.clock.second) := by
  have holds := completeAdoption_holds .cut ((periodCut_adoption w (lengthThrough w.period w.clock.second)).trans hn)
  have clock : (w.periodCut (lengthThrough w.period w.clock.second)).clock = w.clock := by simp [State.periodCut]
  rw [periodCut_staged, clock, ((periodCut_besides ..).kept n (by simp)).slot] at holds
  exact holds

/-- The post mark of a slot stays, whether the adoption answers it or not (R164). -/
theorem cutAdopted_postMark (n : Fin 8) : (w.cutAdopted.slot n).postMark = (w.slot n).postMark := by
  by_cases hn : w.adoption = some n
  · rw [(cutAdopted_holds w hn).1]
  · rw [((cutAdopted_besides w).kept n (by simpa using hn)).slot]

end Cut

/-! ## The clock setting applied -/

/-- What the application of clock setting x at a second close from w leaves in t (R49). -/
structure ClockReplaced (w t : State) (x : ClockSetting) : Prop where
  frame : t = { w with
    clock := Clock.setTo x.day x.second x.weekday, period := t.period, clockSetting := none, channels := t.channels, live := t.live
    adoption := none, rules := t.rules, records := t.records, requests := { w.requests with slots := t.requests.slots }
    store := t.store, notices := t.notices }
  live : t.live = if w.adoption.isSome then w.staged else w.live
  period : t.period = Period.begin (Clock.setTo x.day x.second x.weekday) (periodLength t.live) false
  rule : ∀ n, t.rule n = if w.adoption.isSome then RuleState.clear else (w.rule n).unlatched
  channel : ∀ h, t.channel h =
    if (w.head h).state = .off then { (w.channel h).ended with cutNote := false }
    else { (w.channel h).ended.opened false false with cutNote := false }
  besides : Besides w t (w.adoption.toList ++ [x.slot]) (answerClass w.adoption ++ [.answer])
  handing : Handing w t (openHeads w) true (lengthThrough w.period w.clock.second)
    (w.adoption.toList.map answerBytes ++ [answerBytes x.slot])
  own : HoldsAnswer t x.slot (w.slot x.slot).postMark .done 0 (clockReply w.clock)
  adopted : ∀ n, w.adoption = some n → n ≠ x.slot → HoldsAnswer t n (w.slot n).postMark .done 0
    ([setWord w.staged 0, setWord w.staged 1, 2, w.clock.day] ++ words32 w.clock.second)

theorem replaceStep_replaces (w : State) (x : ClockSetting) : ClockReplaced w (w.replaceStep x) x := by
  obtain ⟨live, adoption, rule, channel⟩ := cutAdopted_items w
  obtain ⟨pending, resetLow, run, lastClosed, stage, link, heads, calibrations, events, trace, port⟩ := cutAdopted_keeps w
  have frame := periodReplaced_eq w.cutAdopted x w.clock
  have effects := periodReplaced_effects w.cutAdopted x w.clock
  have besides := (cutAdopted_besides w).trans effects.besides
  have handing := cutAdopted_handing w
  have own := periodReplaced_holds w.cutAdopted x w.clock
  have adopted := fun n (hn : w.adoption = some n) => cutAdopted_holds w hn
  have opened := periodReplaced_channel w.cutAdopted x w.clock
  have mark : (w.cutAdopted.slot x.slot).postMark = (w.slot x.slot).postMark := cutAdopted_postMark w x.slot
  rw [replaceStep_eq]
  generalize w.cutAdopted = z at *
  have head : ∀ h, z.head h = w.head h := fun h => by simp only [State.head, heads]
  generalize z.periodReplaced x w.clock = t at *
  have requests : t.requests = { w.requests with slots := t.requests.slots } := by
    dsimp only
    rw [← besides.queue, ← besides.inService]
  refine ⟨?_, ?_, ?_, fun n => ?_, fun h => ?_, besides, ?_, ?_, fun n hn hne => ?_⟩
  · apply State.eq_of_fields (h19 := requests) <;> rw [frame]
    all_goals assumption
  · rw [frame]
    exact live
  · rw [frame]
  · rw [← rule n, frame]
    rfl
  · rw [opened, head, channel]
  · exact effects.handing (by rw [frame]) (by simp) handing
  · rwa [mark] at own
  · exact (adopted n hn).kept (effects.besides.kept n (by simpa using hne))

end Sys2Proof.Machine
end

section
/-! PROOFS. SECOND_CLOSE (R42, R49). -/

namespace Sys2Proof.Machine

open Sys2Proof

/-! ## The command -/

theorem exec_secondClose_of_captured {u : State} (hstage : u.stage = .captured) (hrun : u.run = .measuring) :
    exec .secondClose u = .next u.secondStage := by
  have begun : u.beginTick = u := by simp [State.beginTick, hstage]
  have closed : u.closeTick = u := by simp [State.closeTick, hstage]
  have completed : u.captureStage = u := by simp [State.captureStage, hstage]
  have runs : exec .secondClose u = .next u.beginTick.finishClose := if_pos hrun
  rw [runs, begun, State.finishClose, closed, completed]

theorem exec_secondClose_of_closing {s : State} (hs : TickClosing s) :
    exec .secondClose s = exec .secondClose s.tickClosed := by
  have runs : exec .secondClose s = .next s.beginTick.finishClose := if_pos hs.1.2
  have stage : s.tickClosed.stage = .captured := by rw [tickClosed_frame]
  have run : s.tickClosed.run = .measuring := by
    rw [tickClosed_frame]
    exact hs.1.2
  rw [runs, State.finishClose, beginTick_closes hs, exec_secondClose_of_captured stage run]

theorem secondStage_of_none {u : State} (hstage : u.stage = .captured) (hclock : u.clock.tick = 31) (hnone : u.clockSetting = none) :
    u.secondStage = u.closeSecond.atStage (.secondClosed false) := by
  have setting : u.closeSecond.clockSetting = none := by simpa using hnone
  simp only [State.secondStage, hstage, hclock, if_true, setting, State.atStage]

theorem secondStage_of_some {u : State} (hstage : u.stage = .captured) (hclock : u.clock.tick = 31) {x : ClockSetting}
    (hsome : u.clockSetting = some x) : u.secondStage = (u.closeSecond.replaceStep x).atStage (.secondClosed true) := by
  have setting : u.closeSecond.clockSetting = some x := by simpa using hsome
  simp only [State.secondStage, hstage, hclock, if_true, setting, State.atStage]

/-! ## What the rest of the second close leaves of it -/

/-- Between w and t the blocks that the second close has written stay as it wrote them. -/
structure ClosedKept (w t : State) : Prop where
  blocks : t.lastClosed = w.lastClosed ∧ t.link = w.link ∧ t.run = w.run ∧ t.heads = w.heads ∧ t.calibrations = w.calibrations ∧
    t.port = w.port ∧ t.events = w.events ∧ t.trace = w.trace
  pending : ∀ c, c ≠ .record → c ≠ .answer → t.isPending c = w.isPending c
  mask : t.notices.mask = w.notices.mask
  bytes : ∀ a, a < 0x0A00 ∨ (0x0C00 ≤ a ∧ a < 0x3000) → t.store.read a = w.store.read a

theorem ClosedKept.atStage (w : State) (x : TickStage) : ClosedKept w (w.atStage x) :=
  ⟨⟨rfl, rfl, rfl, rfl, rfl, rfl, rfl, rfl⟩, fun _ _ _ => rfl, rfl, fun _ _ => rfl⟩

theorem ClockReplaced.kept {w t : State} {x : ClockSetting} (h : ClockReplaced w t x) (y : TickStage) :
    ClosedKept w (t.atStage y) where
  blocks := by
    rw [h.frame]
    exact ⟨rfl, rfl, rfl, rfl, rfl, rfl, rfl, rfl⟩
  pending c hrecord hanswer := by
    have never : c ∉ answerClass w.adoption ++ [.answer] := by
      unfold answerClass
      split <;> simp [hanswer]
    rw [isPending_atStage, h.besides.raised c hrecord]
    simp [never]
  mask := h.besides.mask
  bytes a ha := by
    refine h.handing.bytes a fun b hin => ?_
    simp only [List.mem_append, List.mem_map, List.mem_singleton] at hin
    rcases hin with hin | ⟨m, -, rfl⟩ | rfl
    · have := handedBytes_bounds hin
      omega
    · have := answerBytes_bounds m
      omega
    · have := answerBytes_bounds x.slot
      omega

/-! ## Channels over a second close and a CUT end -/

theorem reopened_channel (ch : Channel) : { ch.secondCleared.ended.opened false false with cutNote := false } =
    { ch with isOpen := true, isPartial := false, cutBefore := false, cutNote := false
              sequence := if ch.isOpen then ch.sequence + 1 else ch.sequence, sec := SecondAcc.cleared, acc := PeriodAcc.cleared } := by
  unfold Channel.secondCleared Channel.ended
  cases hopen : ch.isOpen <;> simp [hopen, Channel.opened, Channel.closed]

theorem ended_of_closed {ch : Channel} (hclosed : ch.isOpen = false) : ch.secondCleared.ended = ch := by
  simp [Channel.secondCleared, Channel.ended, hclosed]

section Closed

variable {u w : State} (hw : SecondClosed u w)
include hw

theorem SecondClosed.items : w.heads = u.heads ∧ w.period = u.period ∧ w.clock = u.clock ∧ w.live = u.live ∧
    w.records = u.records ∧ w.requests = u.requests ∧ w.adoption = u.adoption ∧ w.rules = (u.evalSecond u.clock).rules ∧
    w.lastClosed = u.clock.stamp ∧ w.link = { u.link with badNote := false } ∧ w.run = u.run ∧
    w.calibrations = u.calibrations ∧ w.port = u.port ∧ w.events = (u.evalSecond u.clock).events ∧
    w.trace = (u.evalSecond u.clock).trace := by
  have frame := hw.frame
  generalize u.evalSecond u.clock = e at frame ⊢
  rw [frame]
  exact ⟨rfl, rfl, rfl, rfl, rfl, rfl, rfl, rfl, rfl, rfl, rfl, rfl, rfl, rfl, rfl⟩

theorem SecondClosed.below (a : Nat) (ha : a < 0x0800) : w.store.read a = u.store.read a :=
  hw.bytes a (by simp [pageBytes]; omega)

theorem SecondClosed.recordKept (h : Fin 12) : RecordKept u w h := by
  obtain ⟨heads, period, -, live, -⟩ := hw.items
  have cleared : ∀ ch : Channel, ch.secondCleared.acc = ch.acc ∧ ch.secondCleared.isPartial = ch.isPartial ∧
      ch.secondCleared.sequence = ch.sequence := fun ch => by
    unfold Channel.secondCleared
    split <;> exact ⟨rfl, rfl, rfl⟩
  obtain ⟨acc, isPartial, sequence⟩ := cleared (u.channel h)
  rw [← hw.channel] at acc isPartial sequence
  exact ⟨acc, isPartial, sequence, by simp only [State.head, heads], period, live, hw.below⟩

theorem SecondClosed.openHeads : openHeads w = Machine.openHeads u := by
  have opened : ∀ ch : Channel, ch.secondCleared.isOpen = ch.isOpen := fun ch => by
    unfold Channel.secondCleared
    split <;> rfl
  simp only [Machine.openHeads, hw.channel, opened]

variable {t : State} (ht : ClosedKept w t)
include ht

/-- What stands past the second close: the stamp, the link, the evaluation's outcome (R36, R42, R119). -/
theorem SecondClosed.blocksKept : t.lastClosed = u.clock.stamp ∧ t.link = { u.link with badNote := false } ∧
    t.isPending .link = (u.link.badNote || u.isPending .link) ∧ t.run = u.run ∧ t.heads = u.heads ∧
    t.calibrations = u.calibrations ∧ t.port = u.port ∧ t.events = (u.evalSecond u.clock).events ∧
    t.trace = (u.evalSecond u.clock).trace ∧ t.isPending .event = (u.evalSecond u.clock).isPending .event ∧
    (∀ a, 0x0C00 ≤ a → a < 0x1000 → t.store.read a = (u.evalSecond u.clock).store.read a) ∧
    t.notices.mask = u.notices.mask ∧ ∀ c ∈ [NoticeClass.head, .trace, .port], t.isPending c = u.isPending c := by
  obtain ⟨heads, -, -, -, -, -, -, -, lastClosed, link, run, calibrations, port, events, trace⟩ := hw.items
  obtain ⟨toClosed, toLink, toRun, toHeads, toCalibrations, toPort, toEvents, toTrace⟩ := ht.blocks
  refine ⟨toClosed.trans lastClosed, toLink.trans link, (ht.pending _ (by simp) (by simp)).trans hw.link, toRun.trans run,
    toHeads.trans heads, toCalibrations.trans calibrations, toPort.trans port, toEvents.trans events, toTrace.trans trace,
    (ht.pending _ (by simp) (by simp)).trans hw.event, fun a hlow hhigh => ?_, ht.mask.trans hw.mask, fun c hc => ?_⟩
  · exact (ht.bytes a (.inr ⟨hlow, by omega⟩)).trans (hw.shelf a hlow hhigh)
  · simp only [List.mem_cons, List.not_mem_nil, or_false] at hc
    rcases hc with rfl | rfl | rfl <;>
      exact (ht.pending _ (by simp) (by simp)).trans (hw.other _ (by simp) (by simp))

/-- The pages stand (R60, R114, R115). -/
theorem SecondClosed.pagesKept :
    (∀ h, (u.channel h).isOpen = true → HoldsWords t (headPageAddr h) (openHeadPage u h)) ∧
    (∀ h, (u.channel h).isOpen = false → ClosedHeadPage t h u.clock.day u.clock.second) ∧
    (∀ r < 6, receptorInUse u.live r = true → HoldsWords t (receptorPageAddr r) (usedReceptorPage u r)) ∧
    ∀ r < 6, receptorInUse u.live r = false → ClosedReceptorPage t r u.clock.day u.clock.second := by
  have pages : ∀ a, 0x0800 ≤ a → a < 0x09E0 → t.store.read a = w.store.read a := fun a _ ha => ht.bytes a (.inl (by omega))
  have head := fun h => headPage_kept (length_headPage u h _) (hw.headPage h) pages
  have receptor := fun r (hr : r < 6) => receptorPage_kept hr (length_receptorPage u r _) (hw.receptorPage r hr) pages
  refine ⟨fun h hopen => ?_, fun h hclosed => ?_, fun r hr hused => ?_, fun r hr hfree => ?_⟩
  · rw [← headPage_of_open u hopen]
    exact head h
  · have page := head h
    rw [headPage_of_closed u hclosed] at page
    exact page
  · rw [← receptorPage_of_used u hused]
    exact receptor r hr
  · have page := receptor r hr
    rw [receptorPage_of_free u hfree] at page
    exact page

end Closed

/-! ## Where no clock setting waits -/

section Waiting

variable {u w : State} (hw : SecondClosed u w)
include hw

theorem SecondClosed.frameKept {t : State} (ht : t = w.atStage (.secondClosed false)) : t =
    { u with stage := .secondClosed false, lastClosed := t.lastClosed, link := t.link, channels := t.channels
             rules := (u.evalSecond u.clock).rules, events := t.events, trace := t.trace, store := t.store, notices := t.notices } := by
  have frame := hw.frame
  generalize u.evalSecond u.clock = e at frame ⊢
  rw [ht, frame]
  rfl

theorem SecondClosed.staged : w.staged = u.staged := staged_congr hw.below

end Waiting

/-! ## Where a clock setting is applied -/

section Replaced

variable {u w t : State} {x : ClockSetting} (hw : SecondClosed u w) (ht : ClockReplaced w t x)
include hw ht

theorem ClockReplaced.frameSeen : t.atStage (.secondClosed true) =
    { u with stage := .secondClosed true, lastClosed := t.lastClosed, clock := t.clock, period := t.period, clockSetting := none
             link := t.link, channels := t.channels, live := t.live, adoption := none, rules := t.rules, events := t.events
             records := t.records, trace := t.trace, requests := { u.requests with slots := t.requests.slots }
             store := t.store, notices := t.notices } := by
  have closed := hw.frame
  have replaced := ht.frame
  generalize u.evalSecond u.clock = e at closed
  rw [replaced, closed]
  rfl

/-- The records of the CUT end, seen from before the second close (R62, R139). -/
theorem ClockReplaced.handed : PeriodRecordsHanded u t (openHeads u) true (u.clock.second + 1 - u.period.startSecond) := by
  obtain ⟨-, period, clock, -, records, -⟩ := hw.items
  have handed := ht.handing.records
  rw [hw.openHeads, period, clock] at handed
  exact handed_seen records hw.recordKept (hw.other _ (by simp) (by simp)) handed

theorem ClockReplaced.bytesSeen : BytesKept u t ([pageBytes, (0x0C00, 0x1000), answerBytes x.slot] ++
    u.adoption.toList.map answerBytes ++ handedBytes u (openHeads u) true (u.clock.second + 1 - u.period.startSecond)) := by
  obtain ⟨-, period, clock, -, records, -, adoption, -⟩ := hw.items
  have handed := ht.handing.bytes
  rw [hw.openHeads, period, clock, handedBytes_seen records hw.recordKept, adoption] at handed
  refine (hw.bytes.mono fun b hb => ?_).trans (handed.mono fun b hb => ?_)
  · simp only [List.mem_append, List.mem_cons, List.not_mem_nil, or_false] at hb ⊢
    rcases hb with rfl | rfl <;> simp
  · simp only [List.mem_append, List.mem_cons, List.not_mem_nil, or_false] at hb ⊢
    rcases hb with hb | hb | rfl
    · exact .inr hb
    · exact .inl (.inr hb)
    · exact .inl (.inl (.inr (.inr rfl)))

/-- The clock, the set and the period then in force (R44, R49, R105). -/
theorem ClockReplaced.itemsSeen : t.clock = { day := x.day, second := x.second, weekday := x.weekday, tick := 0 } ∧
    t.live = (if u.adoption.isSome then u.staged else u.live) ∧
    t.period = { isOpen := true, startDay := x.day, startSecond := x.second, startTick := 0,
                 plannedEnd := nextBoundary (periodLength t.live) x.second,
                 plannedLength := nextBoundary (periodLength t.live) x.second - x.second,
                 short := decide (x.second % periodLength t.live ≠ 0) } := by
  obtain ⟨-, -, -, live, -, -, adoption, -⟩ := hw.items
  refine ⟨?_, ?_, ?_⟩
  · rw [ht.frame]
    rfl
  · rw [ht.live, adoption, hw.staged, live]
  · rw [ht.period]
    rfl

/-- The rules' items past the end: the evaluation's with the latches cleared, or all cleared by an adoption (R116, R127). -/
theorem ClockReplaced.ruleSeen (n : Fin 24) : t.rule n =
    if u.adoption.isSome then RuleState.clear else ((u.evalSecond u.clock).rule n).unlatched := by
  obtain ⟨-, -, -, -, -, -, adoption, rules, -⟩ := hw.items
  rw [ht.rule, adoption]
  simp only [State.rule, rules]

/-- The channels past the new period's begin (R53, R67). -/
theorem ClockReplaced.channelSeen (h : Fin 12) :
    ((u.head h).state ≠ .off → t.channel h =
      { u.channel h with
        isOpen := true, isPartial := false, cutBefore := false, cutNote := false
        sequence := if (u.channel h).isOpen then (u.channel h).sequence + 1 else (u.channel h).sequence
        sec := SecondAcc.cleared, acc := PeriodAcc.cleared }) ∧
    ((u.head h).state = .off → (u.channel h).isOpen = false → t.channel h = { u.channel h with cutNote := false }) := by
  obtain ⟨heads, -⟩ := hw.items
  have head : w.head h = u.head h := by simp only [State.head, heads]
  have channel := ht.channel h
  rw [head, hw.channel] at channel
  refine ⟨fun hon => ?_, fun hoff hclosed => ?_⟩
  · rw [channel, if_neg hon, reopened_channel]
  · rw [channel, if_pos hoff, ended_of_closed hclosed]

/-- The answers of the clock setting and of a pending adoption, and the slots beside them (R49, R106). -/
theorem ClockReplaced.answersSeen :
    HoldsAnswer t x.slot (u.slot x.slot).postMark .done 0
      ([u.clock.day] ++ words32 u.clock.second ++ [word u.clock.weekday, word u.clock.tick]) ∧
    (∀ n, u.adoption = some n → n ≠ x.slot → HoldsAnswer t n (u.slot n).postMark .done 0
      ([setWord u.staged 0, setWord u.staged 1, 2, u.clock.day] ++ words32 u.clock.second)) ∧
    (∀ n, n ≠ x.slot → u.adoption ≠ some n → t.slot n = u.slot n) ∧ t.isPending .answer = true := by
  obtain ⟨-, -, clock, -, -, requests, adoption, -⟩ := hw.items
  have slot : ∀ n, w.slot n = u.slot n := fun n => by simp only [State.slot, requests]
  have own := ht.own
  have adopted := ht.adopted
  rw [slot, clock] at own
  rw [hw.staged, clock, adoption] at adopted
  refine ⟨own, fun n hn hne => ?_, fun n hne hn => ?_, ?_⟩
  · rw [← slot]
    exact adopted n hn hne
  · rw [(ht.besides.kept n (by simp [adoption, hne, hn])).slot, slot]
  · rw [ht.besides.raised _ (by simp)]
    simp

end Replaced

/-- Settles O27: the second close leaves w; then the tick event stands past it, or a clock setting is applied to w. -/
theorem secondCloseWritesLivePages : Obligations.SecondCloseWritesLivePages := by
  refine ⟨fun s u hs hu => ?_, fun u hstage hrun hclock => ?_, fun u hstage hrun hclock => ?_⟩
  · rw [exec_captureComplete_of_closing hs] at hu
    obtain rfl : s.tickClosed = u := by simpa using hu
    exact exec_secondClose_of_closing hs
  · rw [exec_secondClose_of_captured hstage hrun, secondStage_within hstage hclock]
    rfl
  · have hw := closeSecond_closes u
    have none := secondStage_of_none (u := u) hstage hclock
    have some := fun x => secondStage_of_some (u := u) hstage hclock (x := x)
    have hx := fun x => replaceStep_replaces u.closeSecond x
    have kept : ClosedKept u.closeSecond u.secondStage := by
      cases hsetting : u.clockSetting with
      | none =>
        rw [none hsetting]
        exact .atStage ..
      | some x =>
        rw [some x hsetting]
        exact (hx x).kept _
    refine ⟨u.secondStage, exec_secondClose_of_captured hstage hrun, ?_⟩
    generalize u.closeSecond = w at hw none some hx kept
    generalize u.secondStage = t at none some kept ⊢
    obtain ⟨lastClosed, link, linkPending, run, heads, calibrations, port, events, trace, event, shelf, mask, other⟩ :=
      hw.blocksKept kept
    obtain ⟨openHead, closedHead, usedReceptor, freeReceptor⟩ := hw.pagesKept kept
    refine ⟨lastClosed, link, linkPending, run, heads, calibrations, port, events, trace, event, shelf, mask, other, openHead,
      closedHead, usedReceptor, freeReceptor, fun hnone => ?_, fun x hsome => ?_⟩
    · have frame := hw.frameKept (none hnone)
      obtain rfl := none hnone
      exact ⟨frame, hw.other _ (by simp) (by simp), hw.other _ (by simp) (by simp), hw.channel, hw.bytes⟩
    · obtain rfl := some x hsome
      have ht := hx x
      generalize w.replaceStep x = v at ht ⊢
      obtain ⟨own, adopted, slots, answer⟩ := ht.answersSeen hw
      obtain ⟨clock, live, period⟩ := ht.itemsSeen hw
      have records := ht.handed hw
      have bytes := ht.bytesSeen hw
      refine ⟨ht.frameSeen hw, clock, live, period, fun n hn => ?_, fun n hn => ?_, records, fun h => (ht.channelSeen hw h).1,
        fun h => (ht.channelSeen hw h).2, own, adopted, slots, answer, bytes⟩
      · have rule := ht.ruleSeen hw n
        rw [if_neg (by simp [hn])] at rule
        exact rule
      · have rule := ht.ruleSeen hw n
        rw [if_pos hn] at rule
        exact rule

end Sys2Proof.Machine
end

section
/-! PROOFS. The period length and the planned end (R43, R44): the next boundary as the least multiple of P past a second. -/

namespace Sys2Proof.Machine

open Sys2Proof

theorem periodLength_of_code (l : LimitSet) :
    (lengthCode l = 0 → periodLength l = 900) ∧ (lengthCode l = 1 → periodLength l = 300) ∧
    (lengthCode l = 2 → periodLength l = 600) ∧ (lengthCode l = 3 → periodLength l = 1800) ∧
    (lengthCode l = 4 → periodLength l = 3600) := by
  refine ⟨fun hc => ?_, fun hc => ?_, fun hc => ?_, fun hc => ?_, fun hc => ?_⟩ <;> simp [periodLength, hc]

theorem periodLength_pos_dvd (l : LimitSet) : 0 < periodLength l ∧ periodLength l ∣ Config.daySeconds := by
  unfold periodLength
  split <;> decide

/-- Where P divides the day, no boundary lies past its end. -/
theorem nextBoundary_of_dvd {p second : Nat} (hp : p ∣ Config.daySeconds) (hsecond : second < Config.daySeconds) :
    nextBoundary p second = (second / p + 1) * p := by
  obtain ⟨k, hk⟩ := hp
  have before : second / p < k := Nat.div_lt_of_lt_mul (hk ▸ hsecond)
  have within : (second / p + 1) * p ≤ Config.daySeconds := by
    rw [hk, Nat.mul_comm p k]
    exact Nat.mul_le_mul_right p before
  exact Nat.min_eq_left within

/-- Settles O16: the next boundary is the second's quotient by P, raised by one, times P. -/
theorem plannedEndIsNextBoundary : Obligations.PlannedEndIsNextBoundary := by
  refine ⟨fun l => ⟨(periodLength_pos_dvd l).2, periodLength_of_code l⟩, fun l second hsecond => ?_⟩
  obtain ⟨hpos, hdvd⟩ := periodLength_pos_dvd l
  have hday : second < Config.daySeconds := Nat.lt_succ_of_le hsecond
  dsimp only
  generalize periodLength l = p at hpos hdvd
  have next := nextBoundary_of_dvd hdvd hday
  refine ⟨?_, ?_, Nat.min_le_right .., ?_, fun m hm hlt => ?_⟩
  · rw [next]
    exact Nat.lt_mul_of_div_lt (Nat.lt_succ_self _) hpos
  · exact next ▸ Nat.dvd_mul_left ..
  · rw [next, Nat.add_mul, Nat.one_mul]
    exact Nat.add_le_add_right (Nat.div_mul_le_self ..) p
  · obtain ⟨k, rfl⟩ := hm
    have past : second / p < k := Nat.div_lt_of_lt_mul hlt
    rw [next, Nat.mul_comm p k]
    exact Nat.mul_le_mul_right p past

end Sys2Proof.Machine
end

section
/-! PROOFS. State.reset meets the invariants (R98 and each block's reset rule). -/

namespace Sys2Proof.Machine

open Sys2Proof

/-! ## The entries of the tables at reset -/

section Reset

variable (h : Fin 12)

theorem head_reset : State.reset.head h = Head.reset 0 := Vector.getElem_replicate _

theorem channel_reset : State.reset.channel h = Channel.reset := Vector.getElem_replicate _

theorem calibration_reset : State.reset.calibration h = none := by
  have record : State.reset.calRecord h = Calibration.reset := Vector.getElem_replicate _
  rw [State.calibration, record]
  rfl

theorem buffer_reset : State.reset.buffer h = none := Vector.getElem_replicate _

end Reset

theorem slot_reset (n : Fin 8) : State.reset.slot n = { state := .free, postMark := 0 } := Vector.getElem_replicate _

theorem heldSlots_reset : heldSlots State.reset = [] := by
  simp only [heldSlots, calibration_reset]
  rfl

/-! ## The invariants -/

/-- Every word of the empty limit set is 0 (R109). -/
theorem setWord_empty (i : Nat) : setWord LimitSet.empty i = 0 := by
  simp only [setWord, LimitSet.empty, List.getD_eq_getElem?_getD, List.getElem?_replicate]
  split <;> rfl

/-- An all-zero set passes: its length code and its coverage are 0, and it uses no receptor and no rule (R102, R109). -/
theorem validate_empty : validate LimitSet.empty = none := by
  refine List.find?_eq_none.mpr fun i _ => ?_
  have receptors : ∀ r, receptorPasses LimitSet.empty r = true := fun r => by
    simp [receptorPasses, receptorInUse, receptorWord, setWord_empty]
  have rules : ∀ n, rulePasses LimitSet.empty n = true := fun n => by
    simp [rulePasses, ruleInUse, ruleWord, setWord_empty, lowByte]
  have passes : itemPasses LimitSet.empty i = true := by
    simp [itemPasses, lengthCode, minCoverage, setWord_empty, receptors, rules]
  simp [passes]

theorem requestsInOrder_reset : RequestsInOrder State.reset := by
  refine ⟨rfl, List.nodup_nil, fun n => ?_, ?_, fun n => ?_, fun _ l hl => by cases hl⟩
  · rw [slot_reset]
    exact ⟨fun hn => absurd hn List.not_mem_nil, nofun⟩
  · rw [heldSlots_reset]
    exact List.nodup_nil
  · rw [slot_reset, heldSlots_reset]
    exact ⟨fun hn => absurd hn List.not_mem_nil, nofun⟩

theorem channelsAgree_reset : ChannelsAgree State.reset := by
  intro h
  rw [channel_reset]
  exact ⟨rfl, by simp [Channel.reset, PeriodAcc.cleared], ⟨fun _ => rfl, fun _ => rfl⟩, fun _ => ⟨rfl, rfl⟩⟩

theorem atRest_reset : AtRest State.reset :=
  ⟨rfl, rfl, rfl, rfl, buffer_reset, fun h => by rw [head_reset]; rfl, calibration_reset, rfl, rfl, nofun⟩

theorem measuresOnlyMeasuring_reset : MeasuresOnlyMeasuring State.reset := by
  refine ⟨fun _ => atRest_reset, fun h => ?_, fun h hc => ?_, fun hstage => absurd rfl hstage⟩
  · rw [channel_reset, head_reset]
    exact ⟨fun hopen => absurd hopen Bool.false_ne_true, fun hon => absurd rfl hon⟩
  · rw [calibration_reset] at hc
    exact absurd hc Bool.false_ne_true

/-- Settles O53: one lemma per invariant; the register ranges are those of a pin reset with the 16-bit port. -/
theorem invariantsHoldAtReset : Obligations.InvariantsHoldAtReset := by
  refine ⟨wf_reset, registersInRange_iff.mpr (RegisterRanges.pinReset State.reset true), ⟨validate_empty, nofun⟩,
    requestsInOrder_reset, ?_, channelsAgree_reset, measuresOnlyMeasuring_reset⟩
  exact ⟨List.nodup_nil, List.nodup_nil, List.nodup_nil, Nat.zero_le _, le_rfl, by decide, nofun⟩

end Sys2Proof.Machine
end

section
/-! PROOFS. Requests that are refused (R168) and SET CLOCK (R49): a served request runs its work on the taken state, and a refusal's
work is its answer alone. -/

namespace Sys2Proof.Machine

open Sys2Proof

/-! ## The command that serves a request -/

section Served

variable {s : State} {n : Fin 8}

theorem exec_start_served (hs : Served s n .start) : exec .start s = .next ((s.take n).workStart n).endService := by
  have runs : exec .start s = .next (s.finishTick.serve (isKind .start) State.workStart) := rfl
  rw [runs, finishTick_of_idle (of_decide_eq_true hs.2.1), serve_of_served hs]

theorem exec_unpark_served (hs : Served s n .unpark) : exec .unpark s = .next ((s.take n).workUnpark n).endService := by
  have runs : exec .unpark s = .next (s.finishTick.serve (isKind .unpark) State.workUnpark) := rfl
  rw [runs, finishTick_of_idle (of_decide_eq_true hs.2.1), serve_of_served hs]

theorem exec_stop_served (hs : Served s n .stop) : exec .stop s = .next ((s.take n).workStop n).endService :=
  congrArg Host.Outcome.next (served_beforeMark hs (of_decide_eq_true hs.2.1) State.workStop)

theorem exec_park_served (hs : Served s n .park) : exec .park s = .next ((s.take n).workPark n).endService :=
  congrArg Host.Outcome.next (served_beforeMark hs (of_decide_eq_true hs.2.1) State.workPark)

theorem exec_setClock_served (hs : Served s n .setClock) :
    exec .setClock s = .next ((s.take n).workSetClock n).endService := by
  have runs : exec .setClock s = .next (s.finishClose.serve (isKind .setClock) State.workSetClock) := rfl
  rw [runs, finishClose_of_closeDone hs.2.1, serve_of_served hs]

theorem exec_snapshot_served (hs : Served s n .snapshot) :
    exec .snapshot s = .next ((s.take n).workSnapshot n).endService :=
  congrArg Host.Outcome.next (serve_of_served hs State.workSnapshot)

theorem exec_dumpHistogram_served (hs : Served s n .dumpHistogram) :
    exec .dumpHistogram s = .next ((s.take n).workDump n).endService :=
  congrArg Host.Outcome.next (serve_of_served hs State.workDump)

/-- A command whose work on the taken state is an answer without reply words refuses the request. -/
theorem refuses_of_answer {c : Instr} {x : State} {code : AnswerCode} {detail : Nat} (hrun : exec c s = .next x.endService)
    (hwork : x = (s.take n).answer n code detail []) : Refuses c s n code detail := by
  subst hwork
  refine ⟨_, hrun, answers_of_work rfl rfl .., endService_bytesKept (x := s.take n) rfl _ _ _, ?_⟩
  apply State.eq_of_fields <;> simp

/-- Taking a request writes none of its words. -/
theorem param_take (n m : Fin 8) (w : Nat) : (s.take n).param m w = s.param m w := rfl

theorem clockParams_take (n : Fin 8) (hsecond : s.param n 3 + 65536 * s.param n 4 ≤ 86399) :
    (s.take n).param n 3 + 65536 * (s.take n).param n 4 ≤ 86399 := by
  rwa [param_take, param_take]

end Served

/-! ## The works that refuse -/

theorem lowestFree_of_full {k : Nat} {filled : List (Fin k)} (hfull : ∀ m, m ∈ filled) : lowestFree filled = none :=
  List.find?_eq_none.mpr fun m _ => by simp [hfull m]

theorem headOf_of_large {i : Nat} (hi : 11 < i) : headOf i = none := dif_neg (Nat.not_lt.mpr hi)

section Works

variable {x : State} {n : Fin 8}

theorem workStart_of_running (hrun : x.run ≠ .stopped) : x.workStart n = x.answer n .wrongState 0 [] := if_pos hrun

theorem workStart_of_failing (hrun : x.run = .stopped) {i : Nat} (hfails : validate x.staged = some i) :
    x.workStart n = x.answer n .invalid i [] := by
  rw [State.workStart, if_neg (not_not.mpr hrun), hfails]

theorem workStop_of_other (hmeasuring : x.run ≠ .measuring) (hparked : x.run ≠ .parked) :
    x.workStop n = x.answer n .wrongState 0 [] := by
  unfold State.workStop
  cases hrun : x.run with
  | starting => rfl
  | stopped => rfl
  | measuring => exact absurd hrun hmeasuring
  | parked => exact absurd hrun hparked

theorem workPark_of_other (hrun : x.run ≠ .measuring) : x.workPark n = x.answer n .wrongState 0 [] := by
  unfold State.workPark
  cases hr : x.run with
  | starting => rfl
  | stopped => rfl
  | measuring => exact absurd hr hrun
  | parked => rfl

theorem workUnpark_of_other (hrun : x.run ≠ .parked) : x.workUnpark n = x.answer n .wrongState 0 [] := by
  unfold State.workUnpark
  cases hr : x.run with
  | starting => rfl
  | stopped => rfl
  | measuring => rfl
  | parked => exact absurd hr hrun

theorem workSnapshot_of_other (hrun : x.run ≠ .measuring) : x.workSnapshot n = x.answer n .wrongState 0 [] := if_pos hrun

theorem workSnapshot_of_mask (hrun : x.run = .measuring) (hmask : 4096 ≤ x.param n 2) :
    x.workSnapshot n = x.answer n .invalid 0 [] := by
  rw [State.workSnapshot, if_neg (not_not.mpr hrun), if_pos hmask]

theorem workSnapshot_of_full (hrun : x.run = .measuring) (hmask : x.param n 2 < 4096) (hfull : ∀ m, m ∈ x.records.list) :
    x.workSnapshot n = x.answer n .shelfFull 0 [] := by
  rw [State.workSnapshot, if_neg (not_not.mpr hrun), if_neg (Nat.not_le.mpr hmask), lowestFree_of_full hfull]

theorem workDump_of_other (hrun : x.run ≠ .measuring) : x.workDump n = x.answer n .wrongState 0 [] := if_pos hrun

theorem workDump_of_noHead (hrun : x.run = .measuring) (hhead : 11 < x.param n 2) :
    x.workDump n = x.answer n .invalid 0 [] := by
  rw [State.workDump, if_neg (not_not.mpr hrun), headOf_of_large hhead]

section Dump

variable {h : Fin 12} (hrun : x.run = .measuring) (hhead : x.param n 2 = h.val)
include hrun hhead

theorem workDump_of_closed (hclosed : (x.channel h).isOpen = false) : x.workDump n = x.answer n .notReady 0 [] := by
  simp [State.workDump, hrun, hhead, headOf_val, hclosed]

theorem workDump_of_full (hopen : (x.channel h).isOpen = true) (hfull : ∀ m, m ∈ x.records.list) :
    x.workDump n = x.answer n .shelfFull 0 [] := by
  simp [State.workDump, hrun, hhead, headOf_val, hopen, lowestFree_of_full hfull]

end Dump

/-! ## SET CLOCK -/

theorem workSetClock_of_badSecond (hsecond : 86399 < x.param n 3 + 65536 * x.param n 4) :
    x.workSetClock n = x.answer n .invalid 1 [] := if_pos hsecond

section InRange

variable (hsecond : x.param n 3 + 65536 * x.param n 4 ≤ 86399)
include hsecond

theorem workSetClock_of_badWeekday (hweekday : 6 < x.param n 5) : x.workSetClock n = x.answer n .invalid 2 [] := by
  simp only [State.workSetClock, if_neg (Nat.not_lt.mpr hsecond), if_pos hweekday]

variable (hweekday : x.param n 5 ≤ 6)
include hweekday

theorem workSetClock_of_pending (hrun : x.run = .measuring) (hpending : x.clockSetting.isSome) :
    x.workSetClock n = x.answer n .busy 0 [] := by
  obtain ⟨y, hy⟩ := Option.isSome_iff_exists.mp hpending
  simp only [State.workSetClock, if_neg (Nat.not_lt.mpr hsecond), if_neg (Nat.not_lt.mpr hweekday), if_pos hrun, hy]

theorem workSetClock_of_measuring (hrun : x.run = .measuring) (hnone : x.clockSetting = none) :
    x.workSetClock n = { x with clockSetting := some { day := x.requestWord n 2, second := x.param n 3 + 65536 * x.param n 4,
                                                       weekday := x.param n 5, slot := n } } := by
  simp only [State.workSetClock, if_neg (Nat.not_lt.mpr hsecond), if_neg (Nat.not_lt.mpr hweekday), if_pos hrun, hnone]

theorem workSetClock_of_still (hrun : x.run ≠ .measuring) : x.workSetClock n =
    State.answer { x with clock := Clock.setTo (x.requestWord n 2) (x.param n 3 + 65536 * x.param n 4) (x.param n 5) } n .done 0
      (clockReply x.clock) := by
  simp only [State.workSetClock, if_neg (Nat.not_lt.mpr hsecond), if_neg (Nat.not_lt.mpr hweekday), if_neg hrun]

end InRange

end Works

/-- A request that is taken and not answered is handed over (R166). -/
theorem handsOver_of_requests {s t : State} {n : Fin 8} (ht : t.requests = (s.take n).endService.requests) : HandsOver s t n := by
  have slot : ∀ m, t.slot m = (s.take n).slot m := fun m => by
    simp only [State.slot, ht]
    rfl
  refine ⟨?_, by rw [ht]; rfl, by rw [ht]; rfl, fun m hm => ?_⟩
  · rw [slot, slot_take, if_pos rfl]
  · rw [slot, slot_take, if_neg (Ne.symm hm)]

/-- Settles O33: out of MEASURING the work sets the clock and answers; in MEASURING it keeps the setting and answers nothing. -/
theorem setClockAppliesOrWaits : Obligations.SetClockAppliesOrWaits := by
  intro s n hserved hsecond hweekday
  have runs := exec_setClock_served hserved
  refine ⟨fun hstill => ?_, fun hrun hnone => ?_⟩
  · have still : (s.take n).run ≠ .measuring := fun hm => by
      rcases hstill with hrun | hrun <;> cases hrun.symm.trans hm
    rw [workSetClock_of_still (x := s.take n) (clockParams_take n hsecond) hweekday still] at runs
    generalize hclock : Clock.setTo ((s.take n).requestWord n 2) ((s.take n).param n 3 + 65536 * (s.take n).param n 4)
      ((s.take n).param n 5) = c at runs
    have clock : ({ day := s.requestWord n 2, second := s.param n 3 + 65536 * s.param n 4, weekday := s.param n 5,
                    tick := 0 } : Clock) = c := hclock
    have reply : clockReply s.clock = [s.clock.day] ++ words32 s.clock.second ++ [word s.clock.weekday, word s.clock.tick] := rfl
    rw [clock, ← reply]
    refine ⟨_, runs, ?_, answers_of_work (x := { s.take n with clock := c }) rfl rfl _ _ _, endService_bytesKept (x := { s.take n with clock := c }) rfl _ _ _⟩
    apply State.eq_of_fields <;> simp
  · rw [workSetClock_of_measuring (x := s.take n) (clockParams_take n hsecond) hweekday hrun hnone] at runs
    exact ⟨_, runs, rfl, handsOver_of_requests rfl⟩

/-- Settles O44: each request's work by the state that refuses it. -/
theorem refusalsByStateChangeNothing : Obligations.RefusalsByStateChangeNothing := by
  intro s n
  refine ⟨fun hs hrun => ?_, fun hs hrun => ?_, fun hs hrun => ?_, fun hs hrun => ?_, fun hs hrun => ?_, fun hs hrun => ?_,
    fun hs hrun hpending hsecond hweekday => ?_, fun h hs hrun hhead => ⟨fun hclosed => ?_, fun hopen hfull => ?_⟩,
    fun hs hrun hmask hfull => ?_⟩
  · exact refuses_of_answer (exec_start_served hs) (workStart_of_running hrun)
  · exact refuses_of_answer (exec_stop_served hs) (workStop_of_other (by simp [hrun]) (by simp [hrun]))
  · exact refuses_of_answer (exec_park_served hs) (workPark_of_other hrun)
  · exact refuses_of_answer (exec_unpark_served hs) (workUnpark_of_other hrun)
  · exact refuses_of_answer (exec_snapshot_served hs) (workSnapshot_of_other hrun)
  · exact refuses_of_answer (exec_dumpHistogram_served hs) (workDump_of_other hrun)
  · exact refuses_of_answer (exec_setClock_served hs) (workSetClock_of_pending (x := s.take n) (clockParams_take n hsecond) (by rwa [param_take]) hrun hpending)
  · exact refuses_of_answer (exec_dumpHistogram_served hs) (workDump_of_closed hrun hhead hclosed)
  · exact refuses_of_answer (exec_dumpHistogram_served hs) (workDump_of_full hrun hhead hopen hfull)
  · exact refuses_of_answer (exec_snapshot_served hs) (workSnapshot_of_full hrun hmask hfull)

/-- Settles O45: each request's work by the parameter that refuses it. -/
theorem refusalsByParameterChangeNothing : Obligations.RefusalsByParameterChangeNothing := by
  intro s n
  refine ⟨fun i hs hrun hfails => ?_, fun hs hsecond => ?_, fun hs hsecond hweekday => ?_, fun hs hrun hmask => ?_,
    fun hs hrun hhead => ?_⟩
  · exact refuses_of_answer (exec_start_served hs) (workStart_of_failing (x := s.take n) hrun (by rwa [staged_take]))
  · exact refuses_of_answer (exec_setClock_served hs) (workSetClock_of_badSecond (by rwa [param_take, param_take]))
  · exact refuses_of_answer (exec_setClock_served hs) (workSetClock_of_badWeekday (clockParams_take n hsecond) hweekday)
  · exact refuses_of_answer (exec_snapshot_served hs) (workSnapshot_of_mask hrun hmask)
  · exact refuses_of_answer (exec_dumpHistogram_served hs) (workDump_of_noHead hrun hhead)

end Sys2Proof.Machine
end

section
/-! PROOFS. The evaluation at an ALIGNED end (R124, R125): it touches rules and events only, and looks at neither the clock, the
channels, the record shelf, the store nor the notices beside what the summaries said at the announcement. -/

namespace Sys2Proof.Machine

open Sys2Proof

/-- What a period evaluation reads and touches is the same in both states: rules, set, period, event shelf with its bytes and class. -/
structure PeriodAlike (a b : State) : Prop where
  rules : b.rules = a.rules
  live : b.live = a.live
  period : b.period = a.period
  events : b.events = a.events
  shelf : ∀ x, 0x0C00 ≤ x → x < 0x1000 → b.store.read x = a.store.read x
  event : b.isPending .event = a.isPending .event

/-- A PERIOD event gives no trigger (R132). -/
theorem raiseRule_period (s : State) (n : Fin 24) (best : Nat × Nat) (flags : CompareFlags) (closed : Clock) :
    s.raiseRule .period n best flags closed = s.postEvent (s.ruleEvent .period n best flags closed) := by
  simp [State.raiseRule]

section Alike

theorem PeriodAlike.refl (a : State) : PeriodAlike a a := ⟨rfl, rfl, rfl, rfl, fun _ _ _ => rfl, rfl⟩

variable {a b : State} (h : PeriodAlike a b)
include h

theorem PeriodAlike.rule (n : Fin 24) : b.rule n = a.rule n := by simp only [State.rule, h.rules]

theorem PeriodAlike.setRule (n : Fin 24) (r : RuleState) : PeriodAlike (a.setRule n r) (b.setRule n r) :=
  { h with rules := by simp only [State.setRule, h.rules] }

theorem PeriodAlike.postEvent (e : EventData) : PeriodAlike (a.postEvent e) (b.postEvent e) := by
  have keeps : (b.postEvent e).rules = (a.postEvent e).rules ∧ (b.postEvent e).live = (a.postEvent e).live ∧
      (b.postEvent e).period = (a.postEvent e).period := by simp [h.rules, h.live, h.period]
  obtain ⟨rules, live, period⟩ := keeps
  cases hn : lowestFree a.events.list with
  | none =>
    rw [postEvent_of_full hn, postEvent_of_full (by rw [h.events, hn])] at *
    exact ⟨rules, live, period, by simp [h.events], h.shelf, by rw [isPending_raise_same, isPending_raise_same]⟩
  | some n =>
    rw [postEvent_of_free hn, postEvent_of_free (by rw [h.events, hn])] at *
    refine ⟨rules, live, period, by simp [h.events], fun x hlow hhigh => ?_, by rw [isPending_raise_same, isPending_raise_same]⟩
    rw [h.events]
    exact read_writeWords_congr (h.shelf x hlow hhigh) ..

theorem PeriodAlike.raiseRule (n : Fin 24) (best : Nat × Nat) (flags : CompareFlags) (closed : Clock) :
    PeriodAlike (a.raiseRule .period n best flags closed) (b.raiseRule .period n best flags closed) := by
  have event : b.ruleEvent .period n best flags closed = a.ruleEvent .period n best flags closed := by
    simp only [State.ruleEvent, h.live, h.period]
  rw [raiseRule_period, raiseRule_period, event]
  exact h.postEvent _

end Alike

/-- Period evaluations of rule n that take a to x and b to y do the same: nothing, or the rule's items set, or its event raised
besides. -/
inductive PeriodStep (n : Fin 24) (closed : Clock) (a b : State) : State → State → Prop where
  | same : PeriodStep n closed a b a b
  | set (r : RuleState) : PeriodStep n closed a b (a.setRule n r) (b.setRule n r)
  | raised (r : RuleState) (best : Nat × Nat) (flags : CompareFlags) : PeriodStep n closed a b
      ((a.setRule n r).raiseRule .period n best flags closed) ((b.setRule n r).raiseRule .period n best flags closed)

section Evaluation

variable {pre pre' : State} {actual : Nat} (closed : Clock)

theorem evalAtPeriod_steps (hpre : ∀ m, pre'.memberPeriodValue actual m = pre.memberPeriodValue actual m) {a b : State}
    (h : PeriodAlike a b) (n : Fin 24) :
    PeriodStep n closed a b (State.evalAtPeriod pre actual closed a n) (State.evalAtPeriod pre' actual closed b n) := by
  unfold State.evalAtPeriod
  rw [h.live, h.period, h.rule]
  split
  · cases ruleMetric a.live n with
    | none => exact .same
    | some m =>
      dsimp only
      rw [hpre]
      split
      · cases receptorValue a.live (ruleReceptor a.live n) (pre.memberPeriodValue actual m) with
        | none => exact .same
        | some best =>
          dsimp only
          split
          · exact .raised _ _ _
          · exact .set _
      · exact .same
  · exact .same

theorem PeriodAlike.evalPeriod (hpre : ∀ m, pre'.memberPeriodValue actual m = pre.memberPeriodValue actual m) {a b : State}
    (h : PeriodAlike a b) : PeriodAlike (a.evalPeriod pre actual closed) (b.evalPeriod pre' actual closed) := by
  unfold State.evalPeriod
  generalize allRules = l
  induction l generalizing a b with
  | nil => exact h
  | cons n l ih =>
    refine ih (a := State.evalAtPeriod pre actual closed a n) (b := State.evalAtPeriod pre' actual closed b n) ?_
    have step := evalAtPeriod_steps closed hpre h n
    generalize State.evalAtPeriod pre actual closed a n = x at step
    generalize State.evalAtPeriod pre' actual closed b n = y at step
    cases step with
    | same => exact h
    | set r => exact h.setRule n r
    | raised r best flags => exact (h.setRule n r).raiseRule n best flags closed

theorem evalPeriod_evaluated (s pre : State) (actual : Nat) :
    Evaluated s (s.evalPeriod pre actual closed) ∧ (s.evalPeriod pre actual closed).trace = s.trace := by
  refine List.foldlRecOn (motive := fun t : State => Evaluated s t ∧ t.trace = s.trace) allRules _ ⟨.of_eq rfl rfl, rfl⟩
    fun t ht n _ => ?_
  obtain ⟨evaluated, trace⟩ := ht
  have step := evalAtPeriod_steps (pre := pre) (pre' := pre) (actual := actual) closed (fun _ => rfl) (.refl t) n
  generalize State.evalAtPeriod pre actual closed t n = x at step
  cases step with
  | same => exact ⟨evaluated, trace⟩
  | set r => exact ⟨evaluated.trans (.of_eq rfl rfl), trace⟩
  | raised r best flags =>
    have set : Evaluated t (t.setRule n r) := .of_eq rfl rfl
    refine ⟨evaluated.trans (set.trans (raiseRule_evaluated ..)), ?_⟩
    rw [raiseRule_period]
    simpa using trace

end Evaluation

end Sys2Proof.Machine
end

section
/-! PROOFS. PERIOD_END (R44, R45, R47): an ALIGNED end hands the records over, evaluates the rules, carries a pending adoption out and
begins the next period. -/

namespace Sys2Proof.Machine

open Sys2Proof

/-! ## The ALIGNED end before its adoption -/

/-- The state with the clock stepped (R41). -/
def State.clockStepped (v : State) : State := { v with clock := v.clock.step }

/-- The state past the clock step and an ALIGNED end, before a pending adoption is carried out and a period begins. -/
def State.periodClosed (v : State) : State :=
  { ((v.clockStepped.closeChannels false v.period.plannedLength).evalPeriod v.clockStepped v.period.plannedLength
      v.clock).clearLatches with period := { v.period with isOpen := false } }

theorem endPeriod_aligned (v : State) :
    v.clockStepped.endPeriod .aligned v.period.plannedLength v.clock = v.periodClosed.completeAdoption .aligned := by
  simp [State.endPeriod, State.periodClosed, State.clockStepped]

section Closed

variable (v : State)

/-- The evaluation of an ALIGNED end as the announcement in state v makes it (R124). -/
def State.evaluatedEnd : State := v.evalPeriod v v.period.plannedLength v.clock

theorem evaluatedEnd_eq : v.evaluatedEnd = allRules.foldl (State.evalAtPeriod v v.period.plannedLength v.clock) v := by
  rw [State.evaluatedEnd, State.evalPeriod]

theorem closeChannels_handed : Handing v (v.clockStepped.closeChannels false v.period.plannedLength) (openHeads v) false
    v.period.plannedLength [] :=
  closeChannels_handing (u := v) (t := v.clockStepped) (fun _ => ⟨⟨rfl, rfl, rfl, rfl, rfl, rfl, fun _ _ => rfl⟩, rfl⟩) false _
    ((Handing.refl v false _).beside (l := []) rfl rfl (BytesKept.refl _ []) nofun)

theorem closeChannels_evaluated_alike : PeriodAlike v.evaluatedEnd
    ((v.clockStepped.closeChannels false v.period.plannedLength).evalPeriod v.clockStepped v.period.plannedLength v.clock) := by
  have closed : PeriodAlike v (v.clockStepped.closeChannels false v.period.plannedLength) := by
    refine ⟨by simp [State.clockStepped], by simp [State.clockStepped], by simp [State.clockStepped],
      by simp [State.clockStepped], fun x hlow hhigh => ?_, ?_⟩
    · refine (closeChannels_handed v).bytes x fun r hr hin => ?_
      rw [List.append_nil] at hr
      have := handedBytes_bounds hr
      omega
    · exact (closeChannels_besides v.clockStepped false v.period.plannedLength).raised .event (by simp)
  exact closed.evalPeriod v.clock fun _ => rfl

theorem periodClosed_evaluated :
    Evaluated (v.clockStepped.closeChannels false v.period.plannedLength) v.periodClosed ∧ v.periodClosed.trace = v.trace := by
  obtain ⟨evaluated, trace⟩ := evalPeriod_evaluated v.clock (v.clockStepped.closeChannels false v.period.plannedLength)
    v.clockStepped v.period.plannedLength
  refine ⟨evaluated.trans (.of_eq (by simp [State.periodClosed]) (by simp [State.periodClosed])), ?_⟩
  simpa [State.periodClosed, State.clockStepped] using trace

theorem periodClosed_keeps : v.periodClosed.pending = v.pending ∧ v.periodClosed.resetLow = v.resetLow ∧
    v.periodClosed.run = v.run ∧ v.periodClosed.lastClosed = v.lastClosed ∧ v.periodClosed.clock = v.clock.step ∧
    v.periodClosed.clockSetting = v.clockSetting ∧ v.periodClosed.link = v.link ∧ v.periodClosed.heads = v.heads ∧
    v.periodClosed.calibrations = v.calibrations ∧ v.periodClosed.live = v.live ∧ v.periodClosed.adoption = v.adoption ∧
    v.periodClosed.requests = v.requests ∧ v.periodClosed.port = v.port := by
  simp [State.periodClosed, State.clockStepped]

theorem periodClosed_events : v.periodClosed.events = v.evaluatedEnd.events := by
  rw [← (closeChannels_evaluated_alike v).events]
  simp [State.periodClosed]

theorem periodClosed_shelf (a : Nat) (hlow : 0x0C00 ≤ a) (hhigh : a < 0x1000) :
    v.periodClosed.store.read a = v.evaluatedEnd.store.read a := by
  rw [← (closeChannels_evaluated_alike v).shelf a hlow hhigh]
  simp [State.periodClosed]

theorem periodClosed_event : v.periodClosed.isPending .event = v.evaluatedEnd.isPending .event := by
  rw [← (closeChannels_evaluated_alike v).event]
  simp [State.isPending, State.periodClosed]

theorem periodClosed_rule (n : Fin 24) : v.periodClosed.rule n = (v.evaluatedEnd.rule n).unlatched := by
  have rules : v.periodClosed.rules = ((v.clockStepped.closeChannels false v.period.plannedLength).evalPeriod v.clockStepped
      v.period.plannedLength v.clock).clearLatches.rules := by simp only [State.periodClosed]
  rw [← (closeChannels_evaluated_alike v).rule, ← clearLatches_rule, State.rule, State.rule, rules]

theorem periodClosed_channel (h : Fin 12) : v.periodClosed.channel h = (v.channel h).ended := by
  have closed := closeChannels_channel v.clockStepped false v.period.plannedLength h
  have channels : v.periodClosed.channels = (v.clockStepped.closeChannels false v.period.plannedLength).channels := by
    simp [State.periodClosed]
  rw [State.channel, channels]
  exact closed

/-- Beside the records and the event shelf an ALIGNED end writes nothing before its adoption. -/
theorem periodClosed_handing : Handing v v.periodClosed (openHeads v) false v.period.plannedLength [(0x0C00, 0x1000)] := by
  obtain ⟨evaluated, -⟩ := periodClosed_evaluated v
  exact (closeChannels_handed v).beside (by simp [State.periodClosed]) (evaluated.classes _ (by simp)) evaluated.bytes (by simp)

theorem periodClosed_slot (n : Fin 8) : SlotKept v v.periodClosed n := by
  obtain ⟨evaluated, -⟩ := periodClosed_evaluated v
  have stepped : SlotKept v v.clockStepped n := .of_eq rfl rfl
  have closed : SlotKept v.clockStepped (v.clockStepped.closeChannels false v.period.plannedLength) n :=
    (closeChannels_besides v.clockStepped false v.period.plannedLength).kept n (by simp)
  exact (stepped.trans closed).trans (.of_bytes (by simp [State.periodClosed]) evaluated.bytes (by simp) n)

theorem periodClosed_pending {c : NoticeClass} (hrecord : c ≠ .record) (hevent : c ≠ .event) :
    v.periodClosed.isPending c = v.isPending c := by
  obtain ⟨evaluated, -⟩ := periodClosed_evaluated v
  rw [evaluated.classes c hevent]
  exact (closeChannels_besides v.clockStepped false v.period.plannedLength).raised c hrecord

theorem periodClosed_mask : v.periodClosed.notices.mask = v.notices.mask := by
  obtain ⟨evaluated, -⟩ := periodClosed_evaluated v
  rw [evaluated.mask]
  exact (closeChannels_besides v.clockStepped false v.period.plannedLength).mask

theorem periodClosed_staged : v.periodClosed.staged = v.staged := by
  refine staged_congr fun a ha => (periodClosed_handing v).bytes a fun r hr hin => ?_
  rcases List.mem_append.mp hr with hr | hr
  · have := handedBytes_bounds hr
    omega
  · obtain rfl := List.mem_singleton.mp hr
    omega

end Closed

/-! ## The adoption and the next period -/

/-- The state past an ALIGNED end with the next period begun (R47). -/
def State.periodRenewed (v : State) : State := (v.periodClosed.completeAdoption .aligned).beginPeriod false

section Renewed

variable (v : State)

/-- A pending adoption at an ALIGNED end: its answer in its slot, ANSWER raised, nothing else of engine, store and notices (R105). -/
theorem periodRenewed_effects :
    Effects v.periodClosed v.periodRenewed v.adoption.toList (answerClass v.adoption) := by
  have adopted := completeAdoption_effects v.periodClosed .aligned
  obtain ⟨-, -, -, -, -, -, -, -, -, -, adoption, -⟩ := periodClosed_keeps v
  rw [adoption] at adopted
  exact adopted.andThen (.none (by simp [State.periodRenewed]) (by simp [State.periodRenewed]) (by simp [State.periodRenewed]))

theorem periodRenewed_handing : Handing v v.periodRenewed (openHeads v) false v.period.plannedLength
    ([(0x0C00, 0x1000)] ++ v.adoption.toList.map answerBytes) :=
  (periodRenewed_effects v).handing (by simp [State.periodRenewed]) (record_not_mem_answerClass _) (periodClosed_handing v)

theorem periodRenewed_items :
    v.periodRenewed.clock = v.clock.step ∧ v.periodRenewed.adoption = none ∧
    v.periodRenewed.live = (if v.adoption.isSome then v.staged else v.live) ∧ v.periodRenewed.events = v.evaluatedEnd.events ∧
    v.periodRenewed.requests = { v.requests with slots := v.periodRenewed.requests.slots } ∧
    v.periodRenewed.trace = v.trace ∧ v.periodRenewed.pending = v.pending ∧ v.periodRenewed.resetLow = v.resetLow ∧
    v.periodRenewed.run = v.run ∧ v.periodRenewed.lastClosed = v.lastClosed ∧ v.periodRenewed.clockSetting = v.clockSetting ∧
    v.periodRenewed.link = v.link ∧ v.periodRenewed.heads = v.heads ∧ v.periodRenewed.calibrations = v.calibrations ∧
    v.periodRenewed.port = v.port := by
  obtain ⟨pending, resetLow, run, lastClosed, clock, setting, link, heads, calibrations, live, adoption, requests, port⟩ :=
    periodClosed_keeps v
  have adopted := completeAdoption_adoption v.periodClosed .aligned
  have set := completeAdoption_live v.periodClosed .aligned
  have effects := periodRenewed_effects v
  rw [adoption, periodClosed_staged, live] at set
  refine ⟨by simpa [State.periodRenewed] using clock, by simpa [State.periodRenewed] using adopted,
    by simpa [State.periodRenewed] using set, by simpa [State.periodRenewed] using periodClosed_events v, ?_,
    by simpa [State.periodRenewed] using (periodClosed_evaluated v).2, by simpa [State.periodRenewed] using pending,
    by simpa [State.periodRenewed] using resetLow, by simpa [State.periodRenewed] using run,
    by simpa [State.periodRenewed] using lastClosed, by simpa [State.periodRenewed] using setting,
    by simpa [State.periodRenewed] using link, by simpa [State.periodRenewed] using heads,
    by simpa [State.periodRenewed] using calibrations, by simpa [State.periodRenewed] using port⟩
  dsimp only
  rw [← requests, ← effects.answered.queue, ← effects.answered.inService]

theorem periodRenewed_period :
    v.periodRenewed.period = Period.begin v.clock.step (periodLength v.periodRenewed.live) false := by
  obtain ⟨-, -, -, -, clock, -⟩ := periodClosed_keeps v
  have live : (v.periodClosed.completeAdoption .aligned).live = v.periodRenewed.live := by simp [State.periodRenewed]
  have stepped : (v.periodClosed.completeAdoption .aligned).clock = v.clock.step := by simpa using clock
  rw [← live, ← stepped]
  exact beginPeriod_period ..

theorem periodRenewed_rule (n : Fin 24) : v.periodRenewed.rule n =
    if v.adoption.isSome then RuleState.clear else (v.evaluatedEnd.rule n).unlatched := by
  obtain ⟨-, -, -, -, -, -, -, -, -, -, adoption, -⟩ := periodClosed_keeps v
  have rule := completeAdoption_rule v.periodClosed .aligned n
  rw [adoption, periodClosed_rule] at rule
  have rules : v.periodRenewed.rules = (v.periodClosed.completeAdoption .aligned).rules := by simp [State.periodRenewed]
  rw [← rule, State.rule, State.rule, rules]

/-- A channel past an ALIGNED end and the next period's begin (R53, R62, R67). -/
theorem reopened_ended (ch : Channel) : { ch.ended.opened false false with cutNote := false } =
    { ch with isOpen := true, isPartial := false, cutBefore := false, cutNote := false
              sequence := if ch.isOpen then ch.sequence + 1 else ch.sequence, sec := SecondAcc.cleared, acc := PeriodAcc.cleared } := by
  unfold Channel.ended
  cases ch.isOpen <;> rfl

theorem periodRenewed_channel (h : Fin 12) : v.periodRenewed.channel h =
    if (v.head h).state = .off then { (v.channel h).ended with cutNote := false }
    else { (v.channel h).ended.opened false false with cutNote := false } := by
  obtain ⟨-, -, -, -, -, -, -, heads, -⟩ := periodClosed_keeps v
  have head : (v.periodClosed.completeAdoption .aligned).head h = v.head h := by simp [State.head, heads]
  have channel : (v.periodClosed.completeAdoption .aligned).channel h = (v.channel h).ended := by
    rw [← periodClosed_channel]
    simp [State.channel]
  rw [State.periodRenewed, beginPeriod_channel, head, channel]

theorem periodRenewed_holds {n : Fin 8} (hn : v.adoption = some n) : HoldsAnswer v.periodRenewed n (v.slot n).postMark .done 0
    ([setWord v.staged 0, setWord v.staged 1, 1, v.clock.step.day] ++ words32 v.clock.step.second) := by
  obtain ⟨-, -, -, -, clock, -, -, -, -, -, adoption, -⟩ := periodClosed_keeps v
  have holds := completeAdoption_holds .aligned (adoption.trans hn)
  rw [periodClosed_staged, clock, (periodClosed_slot v n).slot] at holds
  exact holds.kept (.of_eq (by simp [State.periodRenewed]) (by simp [State.periodRenewed]))

theorem periodRenewed_slot {n : Fin 8} (hn : v.adoption ≠ some n) : v.periodRenewed.slot n = v.slot n := by
  rw [(periodRenewed_effects v).answered.slot n (by simpa using hn), (periodClosed_slot v n).slot]

theorem periodRenewed_pending {c : NoticeClass} (hrecord : c ≠ .record) (hevent : c ≠ .event) :
    v.periodRenewed.isPending c = (decide (c ∈ answerClass v.adoption) || v.isPending c) := by
  rw [(periodRenewed_effects v).raised.1, periodClosed_pending v hrecord hevent]

theorem periodRenewed_event : v.periodRenewed.isPending .event = v.evaluatedEnd.isPending .event := by
  have never : .event ∉ answerClass v.adoption := by
    unfold answerClass
    split <;> simp
  rw [(periodRenewed_effects v).raised.1, periodClosed_event, decide_eq_false never, Bool.false_or]

theorem periodRenewed_shelf (a : Nat) (hlow : 0x0C00 ≤ a) (hhigh : a < 0x1000) :
    v.periodRenewed.store.read a = v.evaluatedEnd.store.read a := by
  rw [← periodClosed_shelf v a hlow hhigh]
  refine (periodRenewed_effects v).answered.bytes a fun r hr hin => ?_
  obtain ⟨n, -, rfl⟩ := List.mem_map.mp hr
  have := answerBytes_bounds n
  omega

end Renewed

/-! ## The command -/

/-- PERIOD_END where the second close is behind the tick event and the period end is not. -/
theorem exec_periodEnd_of_secondClosed {v : State} {b : Bool} (hstage : v.stage = .secondClosed b) (hrun : v.run = .measuring) :
    exec .periodEnd v = .next v.periodStage := by
  have begun : v.beginTick = v := by simp [State.beginTick, hstage]
  rw [exec_periodEnd hrun, begun, finishClose_of_closeDone (by simp [closeDone, hstage])]

/-- PERIOD_END goes on from the second close as it would have alone (log entry 2). -/
theorem exec_periodEnd_of_secondClose {s v : State} (hs : TickClosing s) (hv : exec .secondClose s = .next v) :
    exec .periodEnd s = exec .periodEnd v := by
  rw [exec_secondClose_of_closing hs, exec_secondClose_of_captured (by rw [tickClosed_frame])
    (by rw [tickClosed_frame]; exact hs.1.2)] at hv
  obtain rfl : s.tickClosed.secondStage = v := by simpa using hv
  have stage : ∃ b, s.tickClosed.secondStage.stage = .secondClosed b := by
    rcases secondStage_stage s.tickClosed with ⟨-, b⟩ | ⟨hne, -⟩
    · exact b
    · exact absurd (by rw [tickClosed_frame]) hne
  obtain ⟨b, hb⟩ := stage
  have run : s.tickClosed.secondStage.run = .measuring := by
    rw [(secondStage_frame _).2.2.1, tickClosed_frame]
    exact hs.1.2
  rw [exec_periodEnd_of_secondClosed hb run, exec_periodEnd hs.1.2, State.finishClose, beginTick_closes hs]

section PeriodStage

variable {v : State} (hstage : v.stage = .secondClosed false) (hopen : v.link.tickOpen.isSome)
include hstage hopen

theorem periodStage_of_undue (hdue : v.alignedDue = false) : v.periodStage = { v with stage := .stepped, clock := v.clock.step } := by
  have notNone : v.link.tickOpen.isNone = false := by simpa using hopen
  simp [State.periodStage, hstage, notNone, hdue]

theorem periodStage_of_due (hdue : v.alignedDue = true) : v.periodStage = v.periodRenewed.atStage .stepped := by
  have notNone : v.link.tickOpen.isNone = false := by simpa using hopen
  rw [State.periodRenewed, ← endPeriod_aligned]
  simp [State.periodStage, hstage, notNone, hdue, State.atStage, State.clockStepped]

end PeriodStage

theorem alignedDue_iff {v : State} (hopen : v.link.tickOpen.isSome) : v.alignedDue = true ↔
    v.clock.tick = 31 ∧ v.period.isOpen = true ∧ v.clock.step.second % periodLength v.live = 0 := by
  simp [State.alignedDue, hopen, atBoundary, State.periodP, and_assoc]
  exact fun _ _ => decide_eq_true_iff

theorem step_tick_of_last {c : Clock} (hc : c.tick = 31) : c.step.tick = 0 := by
  unfold Clock.step
  rw [if_neg (by omega)]
  split <;> rfl

/-- Settles O28: the clause of an ALIGNED end is what the end, its adoption and the next period's begin leave together. -/
theorem periodEndBeginsNextPeriod : Obligations.PeriodEndBeginsNextPeriod := by
  refine ⟨fun s v => exec_periodEnd_of_secondClose, fun v hstage hrun => ?_, fun v hstage hrun hopen hundue => ?_,
    fun v hstage hrun hopen hclock hperiod hboundary => ?_⟩
  · rw [exec_periodEnd_of_secondClosed hstage hrun, State.periodStage, hstage]
  · have undue : v.alignedDue = false := by
      rw [Bool.eq_false_iff, ne_eq, alignedDue_iff hopen]
      rintro ⟨hclock, hperiod, hboundary⟩
      rcases hundue with h | h | h
      · exact h hclock
      · exact Bool.false_ne_true (h.symm.trans hperiod)
      · exact h hboundary
    rw [exec_periodEnd_of_secondClosed hstage hrun, periodStage_of_undue hstage hopen undue]
  · have due : v.alignedDue = true := (alignedDue_iff hopen).mpr ⟨hclock, hperiod, hboundary⟩
    have runs := exec_periodEnd_of_secondClosed hstage hrun
    rw [periodStage_of_due hstage hopen due] at runs
    obtain ⟨clock, adoption, live, events, requests, trace, pending, resetLow, run, lastClosed, setting, link, heads, calibrations,
      port⟩ := periodRenewed_items v
    obtain ⟨records, bytes⟩ := periodRenewed_handing v
    have rule := periodRenewed_rule v
    have channel := periodRenewed_channel v
    have period := periodRenewed_period v
    have event := periodRenewed_event v
    have shelf := periodRenewed_shelf v
    have holds := fun n (hn : v.adoption = some n) => periodRenewed_holds v hn
    have slot := fun n (hn : v.adoption ≠ some n) => periodRenewed_slot v hn
    have classes := fun c => periodRenewed_pending v (c := c)
    have mask := (periodRenewed_effects v).raised.2.trans (periodClosed_mask v)
    refine ⟨_, runs, ?_⟩
    rw [← evaluatedEnd_eq]
    generalize v.evaluatedEnd = e at *
    generalize v.periodRenewed = t at *
    refine ⟨?_, live, ?_, records, event, shelf, fun n hn => ?_, fun n hn => ?_, holds, slot, mask, ?_, fun c hc => ?_,
      fun h hon => ?_, fun h hoff hclosed => ?_, bytes.mono fun r hr => ?_⟩
    · apply State.eq_of_fields (h19 := requests)
      case h5 | h7 | h11 | h13 | h15 | h17 | h20 | h22 => rfl
      all_goals assumption
    · rw [atStage_period, period, Period.begin, step_tick_of_last hclock]
      rfl
    · have unadopted := rule n
      rw [if_neg (by simp [hn])] at unadopted
      exact unadopted
    · have adopted := rule n
      rw [if_pos hn] at adopted
      exact adopted
    · rw [isPending_atStage, classes .answer (by simp) (by simp), answerClass]
      split
      · next hsome => simp [hsome]
      · next hnone => simp [hnone]
    · have never : c ≠ .record ∧ c ≠ .event ∧ c ∉ answerClass v.adoption := by
        unfold answerClass
        simp only [List.mem_cons, List.not_mem_nil, or_false] at hc
        rcases hc with rfl | rfl | rfl | rfl <;> split <;> simp
      obtain ⟨hrecord, hevent, hanswer⟩ := never
      rw [isPending_atStage, classes c hrecord hevent, decide_eq_false hanswer, Bool.false_or]
    · rw [channel_atStage, channel, if_neg hon, reopened_ended]
    · rw [channel_atStage, channel, if_pos hoff, Channel.ended, if_neg (by simp [hclosed])]
    · simp only [List.mem_append] at hr ⊢
      tauto

end Sys2Proof.Machine
end

section
/-! PROOFS. The site clock over a whole tick event (R40, R41, R42, R49). -/

namespace Sys2Proof.Machine

open Sys2Proof

/-! ## The table of R41 -/

theorem step_of_tick_le {c : Clock} (hc : c.tick ≤ 30) : c.step = { c with tick := c.tick + 1 } := by
  rw [Clock.step, if_pos (by omega)]

theorem step_of_second_le {c : Clock} (htick : c.tick = 31) (hsecond : c.second ≤ 86398) :
    c.step = { c with tick := 0, second := c.second + 1 } := by
  rw [Clock.step, if_neg (by omega), if_pos (by omega)]

theorem step_of_last_second {c : Clock} (htick : c.tick = 31) (hsecond : c.second = 86399) :
    c.step = { day := c.day + 1, second := 0, weekday := (c.weekday + 1) % 7, tick := 0 } := by
  rw [Clock.step, if_neg (by omega), if_neg (by omega)]

/-! ## The stages that touch the clock -/

/-- The clock past a tick event is the one past its clock step. -/
theorem finishTick_clock (s : State) : s.finishTick.clock = s.finishClose.periodStage.clock ∧
    s.finishTick.clockSetting = s.finishClose.clockSetting := by
  simp [State.finishTick]

theorem periodStage_clock_of_step {v : State} (hv : v.stage = .secondClosed false) : v.periodStage.clock = v.clock.step := by
  unfold State.periodStage
  rw [hv]
  dsimp only
  (repeat' split) <;> simp

theorem periodStage_clock_of_replaced {v : State} (hv : v.stage = .secondClosed true) : v.periodStage.clock = v.clock := by
  rw [State.periodStage, hv]

theorem secondStage_of_step {u : State} (hu : u.stage = .captured) (h : u.clock.tick ≠ 31 ∨ u.clockSetting = none) :
    u.secondStage.stage = .secondClosed false ∧ u.secondStage.clock = u.clock := by
  by_cases htick : u.clock.tick = 31
  · rw [secondStage_of_none hu htick (h.resolve_left (not_not_intro htick))]
    simp
  · rw [secondStage_within hu htick]
    simp

theorem secondStage_of_replaced {u : State} (hu : u.stage = .captured) (htick : u.clock.tick = 31) {x : ClockSetting}
    (hx : u.clockSetting = some x) : u.secondStage.stage = .secondClosed true ∧
      u.secondStage.clock = Clock.setTo x.day x.second x.weekday ∧ u.secondStage.clockSetting = none := by
  rw [secondStage_of_some hu htick hx, (replaceStep_replaces u.closeSecond x).frame]
  exact ⟨rfl, rfl, rfl⟩

/-! ## The tick event -/

theorem tickEvent_of_starting {s : State} (hs : Ready s) (hrun : s.run = .starting) : s.beginTick.finishTick = s := by
  have begun : s.beginTick = s := by simp [State.beginTick, hs.1, State.timerRuns, hrun]
  rw [begun, finishTick_of_ready hs]

/-- In STOPPED and PARKED a tick event is the clock step (R42). -/
theorem tickEvent_of_quiet {s : State} (hs : Ready s) (hrun : s.run = .stopped ∨ s.run = .parked) :
    s.beginTick.finishTick = { s with clock := s.clock.step } := by
  have begun : s.beginTick = { s with clock := s.clock.step } := by
    rcases hrun with hrun | hrun <;> simp [State.beginTick, hs.1, hs.2, State.timerRuns, hrun]
  rw [begun]
  exact finishTick_of_idle hs.1

theorem tickEvent_clock_of_first {s : State} (hs : Measuring s) (hfirst : s.link.tickOpen = none) :
    s.beginTick.finishTick.clock = s.clock.step := by
  rw [(finishTick_clock _).1, first_periodStage hs hfirst, firstStepped_frame]

theorem endCollection_quiet (s : State) : s.endCollection.link.receiver = .quiet := by
  unfold State.endCollection
  split
  · assumption
  · unfold State.endFrame
    dsimp only
    split <;> rfl

/-- The tick event of an open tick is the one that begins with the open collection ended (R27). -/
theorem tickClosing_endCollection {s : State} (hs : Measuring s) (hopen : s.link.tickOpen.isSome) :
    TickClosing s.endCollection ∧ s.beginTick = s.endCollection.beginTick := by
  have quiet := endCollection_quiet s
  obtain ⟨stage, low, run, tick⟩ := endCollection_sameReception s
  exact ⟨⟨⟨⟨stage.trans hs.1.1, low.trans hs.1.2⟩, run.trans hs.2⟩, by rwa [tick], quiet⟩, beginTick_of_cut hs hopen rfl quiet⟩

/-- Past its tick close the tick event of an open tick has touched neither the clock nor a pending setting. -/
theorem beginTick_captured {s : State} (hs : Measuring s) (hopen : s.link.tickOpen.isSome) :
    s.beginTick.closeTick.captureStage.stage = .captured ∧ s.beginTick.closeTick.captureStage.clock = s.clock ∧
      s.beginTick.closeTick.captureStage.clockSetting = s.clockSetting := by
  obtain ⟨closing, begun⟩ := tickClosing_endCollection hs hopen
  rw [begun, beginTick_closes closing, tickClosed_frame]
  simp

section Closing

variable {s : State} (hs : Measuring s) (hopen : s.link.tickOpen.isSome)
include hs hopen

theorem tickEvent_clock_of_step (h : s.clock.tick ≠ 31 ∨ s.clockSetting = none) :
    s.beginTick.finishTick.clock = s.clock.step := by
  obtain ⟨captured, clock, setting⟩ := beginTick_captured hs hopen
  obtain ⟨stage, kept⟩ := secondStage_of_step captured (by rwa [clock, setting])
  rw [(finishTick_clock _).1, State.finishClose, periodStage_clock_of_step stage, kept, clock]

theorem tickEvent_clock_of_replaced (htick : s.clock.tick = 31) {x : ClockSetting} (hx : s.clockSetting = some x) :
    s.beginTick.finishTick.clock = Clock.setTo x.day x.second x.weekday ∧ s.beginTick.finishTick.clockSetting = none := by
  obtain ⟨captured, clock, setting⟩ := beginTick_captured hs hopen
  obtain ⟨stage, replaced, applied⟩ := secondStage_of_replaced captured (by rwa [clock]) (setting.trans hx)
  rw [(finishTick_clock _).1, (finishTick_clock _).2, State.finishClose,
    periodStage_clock_of_replaced stage]
  exact ⟨replaced, applied⟩

end Closing

/-- Outside STARTING the clock of a tick event steps where no pending setting is applied at its second close (R41, R49). -/
theorem tickEvent_clock {s : State} (hs : Ready s) (hrun : s.run ≠ .starting)
    (h : s.run ≠ .measuring ∨ s.link.tickOpen = none ∨ s.clock.tick ≠ 31 ∨ s.clockSetting = none) :
    s.beginTick.finishTick.clock = s.clock.step := by
  cases hcase : s.run with
  | starting => exact absurd hcase hrun
  | stopped => rw [tickEvent_of_quiet hs (.inl hcase)]
  | parked => rw [tickEvent_of_quiet hs (.inr hcase)]
  | measuring =>
    cases hopen : s.link.tickOpen with
    | none => exact tickEvent_clock_of_first ⟨hs, hcase⟩ hopen
    | some k =>
      refine tickEvent_clock_of_step ⟨hs, hcase⟩ (by simp [hopen]) ?_
      simpa [hcase, hopen] using h

/-- Settles O15, by the run state and the open tick: the table of R41 is the clock step's own case split. -/
theorem siteClockSteps : Obligations.SiteClockSteps := by
  intro s hs
  refine ⟨s.beginTick.finishTick, rfl, tickEvent_of_starting hs, fun hrun => ?_, fun x hrun hopen htick hx => ?_,
    fun hrun hsteps => ?_⟩
  · rw [tickEvent_of_quiet hs hrun]
  · exact tickEvent_clock_of_replaced ⟨hs, hrun⟩ hopen htick hx
  · rw [tickEvent_clock hs hrun hsteps]
    exact ⟨step_of_tick_le, step_of_second_le, step_of_last_second⟩

end Sys2Proof.Machine
end

section
/-! PROOFS. What a step of one head makes of two states that agree on what concerns the head: the same (log entry 2). -/

namespace Sys2Proof.Machine

open Sys2Proof

/-! ## One request slot with its answer -/

/-- Request slot n and the bytes that its answer stands in are in t as they are in s. -/
def SlotAlike (s t : State) (n : Fin 8) : Prop :=
  t.slot n = s.slot n ∧ ∀ a, (answerBytes n).1 ≤ a → a < (answerBytes n).2 → t.store.read a = s.store.read a

theorem SlotAlike.symm {s t : State} {n : Fin 8} (h : SlotAlike s t n) : SlotAlike t s n :=
  ⟨h.1.symm, fun a hlow hhigh => (h.2 a hlow hhigh).symm⟩

theorem SlotAlike.trans {s t u : State} {n : Fin 8} (hst : SlotAlike s t n) (htu : SlotAlike t u n) : SlotAlike s u n :=
  ⟨htu.1.trans hst.1, fun a hlow hhigh => (htu.2 a hlow hhigh).trans (hst.2 a hlow hhigh)⟩

theorem SlotAlike.of_eq {s t : State} {n : Fin 8} (hrequests : t.requests = s.requests := by simp)
    (hstore : t.store = s.store := by simp) : SlotAlike s t n :=
  ⟨by simp only [State.slot, hrequests], fun _ _ _ => by rw [hstore]⟩

/-- Slots answered leave every other slot with its answer alone. -/
theorem SlotsAnswered.alike {s t : State} {l : List (Fin 8)} (hst : SlotsAnswered s t l) {n : Fin 8} (hn : n ∉ l) :
    SlotAlike s t n := by
  refine ⟨hst.slot n hn, fun a hlow hhigh => hst.bytes a fun r hr hin => ?_⟩
  obtain ⟨m, hm, rfl⟩ := List.mem_map.mp hr
  have hval : n.val ≠ m.val := fun e => hn (Fin.ext e ▸ hm)
  simp only [answerBytes, requestAddr] at hlow hhigh hin
  omega

theorem SlotAlike.answer {s t : State} {n : Fin 8} (h : SlotAlike s t n) (m : Fin 8) (code : AnswerCode) (detail : Nat)
    (reply : List Word) : SlotAlike (s.answer m code detail reply) (t.answer m code detail reply) n := by
  by_cases hne : n = m
  · subst hne
    obtain ⟨slot, bytes⟩ := h
    refine ⟨by rw [slot_answer, slot_answer, slot], fun a hlow hhigh => ?_⟩
    have read := read_writeWords_congr (bytes a hlow hhigh) (requestAddr n 16)
      (answerWords (s.slot n).postMark code detail reply)
    rw [← slot] at read
    simpa [State.answer, State.pokeWords, slot] using read
  · have others : ∀ u : State, SlotAlike u (u.answer m code detail reply) n := fun u =>
      (answer_answers u m code detail reply).alike (by simpa using hne)
    exact ((others s).symm.trans h).trans (others t)

/-! ## What concerns one head, and some slots -/

theorem OwnKept.symm {s t : State} {h : Fin 12} (hst : OwnKept s t h) : OwnKept t s h :=
  ⟨hst.head.symm, hst.channel.symm, hst.record.symm, hst.buffer.symm, hst.period.symm, hst.clock.symm⟩

/-- What concerns head h, and the slots that P holds of, are in t as they are in s. -/
structure Alike (h : Fin 12) (P : Fin 8 → Prop) (s t : State) : Prop where
  own : OwnKept s t h
  slot : ∀ n, P n → SlotAlike s t n

section Same

variable {h : Fin 12} {P : Fin 8 → Prop} {s t : State} (hst : Alike h P s t)
include hst

theorem Alike.setHead (x : Head) : Alike h P (s.setHead h x) (t.setHead h x) :=
  ⟨{ hst.own with head := by rw [head_setHead_same, head_setHead_same] }, hst.slot⟩

theorem Alike.setChannel (x : Channel) : Alike h P (s.setChannel h x) (t.setChannel h x) :=
  ⟨{ hst.own with channel := by rw [channel_setChannel_same, channel_setChannel_same] }, hst.slot⟩

theorem Alike.setCalibration (x : Calibration) : Alike h P (s.setCalibration h x) (t.setCalibration h x) :=
  ⟨{ hst.own with record := by rw [calRecord_setCalibration_same, calRecord_setCalibration_same] }, hst.slot⟩

theorem Alike.setBuffer (x : Option Frame) : Alike h P (s.setBuffer h x) (t.setBuffer h x) :=
  ⟨{ hst.own with buffer := by rw [buffer_setBuffer_same, buffer_setBuffer_same] }, hst.slot⟩

theorem Alike.raise (c : NoticeClass) : Alike h P (s.raise c) (t.raise c) :=
  ⟨((raise_keeps_own s c h).symm.trans hst.own).trans (raise_keeps_own t c h), hst.slot⟩

theorem Alike.departHead : Alike h P (s.departHead h) (t.departHead h) :=
  have slots : ∀ (u : State) n, SlotAlike u (u.departHead h) n := fun _ _ => .of_eq
  ⟨((departHead_keeps_own s h h).symm.trans hst.own).trans (departHead_keeps_own t h h),
    fun n hn => ((slots s n).symm.trans (hst.slot n hn)).trans (slots t n)⟩

theorem Alike.answer (n : Fin 8) (code : AnswerCode) (detail : Nat) (reply : List Word) :
    Alike h P (s.answer n code detail reply) (t.answer n code detail reply) :=
  ⟨((answer_keeps_own s n code detail reply h).symm.trans hst.own).trans (answer_keeps_own t n code detail reply h),
    fun m hm => (hst.slot m hm).answer n code detail reply⟩

theorem Alike.endCalibration : Alike h P (s.endCalibration h) (t.endCalibration h) := by
  unfold State.endCalibration
  rw [hst.own.record]
  exact hst.setCalibration _

theorem Alike.abortCalibration (r : AbortReason) : Alike h P (s.abortCalibration h r) (t.abortCalibration h r) := by
  unfold State.abortCalibration
  rw [hst.own.calibration, hst.own.head]
  split
  · exact hst
  · exact (hst.answer ..).endCalibration

theorem Alike.feedCalibration (f : Frame) : Alike h P (s.feedCalibration h f) (t.feedCalibration h f) := by
  unfold State.feedCalibration
  rw [hst.own.calibration]
  split
  · exact hst
  · split
    · exact hst.abortCalibration .overload
    · exact hst.setCalibration _

theorem Alike.channelTick (o : Option Frame) : Alike h P (s.channelTick h o) (t.channelTick h o) := by
  unfold State.channelTick
  dsimp only
  rw [hst.own.channel, hst.own.head, hst.own.calibration, hst.own.period, hst.own.clock]
  split
  · split
    · exact hst.setChannel _
    · exact (hst.setChannel _).feedCalibration _
    · exact hst.setChannel _
  · exact hst

theorem Alike.forgetActive : Alike h P (s.forgetActive h) (t.forgetActive h) := by
  unfold State.forgetActive
  rw [hst.own.channel]
  exact (hst.setChannel _).departHead

theorem Alike.loseHead : Alike h P (s.loseHead h) (t.loseHead h) := by
  unfold State.loseHead
  rw [hst.own.head]
  exact (((hst.setHead _).abortCalibration .headLost).forgetActive).raise .head

theorem Alike.joinComplete (f : Frame) : Alike h P (s.joinComplete h f) (t.joinComplete h f) := by
  have channel : (t.channel h) = s.channel h := hst.own.channel
  unfold State.joinComplete
  dsimp only
  rw [hst.own.head, channel]
  split
  · exact ((hst.setHead _).setChannel _).raise .head
  · exact (hst.setHead _).setChannel _

theorem Alike.headStep (o : Option Frame) : Alike h P (s.headStep h o) (t.headStep h o) := by
  unfold State.headStep
  dsimp only
  rw [hst.own.head]
  split
  · exact hst
  · exact hst.setHead _
  · split
    · exact hst.joinComplete _
    · exact hst.setHead _
  · split
    · exact hst.loseHead
    · exact hst.setHead _
  · exact hst.setHead _
  · exact hst
  · exact hst.setHead _

theorem Alike.settleHead : Alike h P (s.settleHead h) (t.settleHead h) := by
  unfold State.settleHead
  dsimp only
  rw [hst.own.buffer]
  exact ((hst.headStep _).channelTick _).setBuffer none

theorem Alike.setTrim (x : Int) : Alike h P (s.setTrim h x) (t.setTrim h x) := by
  have period : (t.setHead h { t.head h with trim := x }).period = (s.setHead h { s.head h with trim := x }).period :=
    hst.own.period
  unfold State.setTrim
  dsimp only
  rw [period, hst.own.channel, hst.own.head]
  split
  · exact (hst.setHead _).setChannel _
  · exact hst.setHead _

theorem Alike.completeCalibration : Alike h P (s.completeCalibration h) (t.completeCalibration h) := by
  unfold State.completeCalibration
  rw [hst.own.calibration, hst.own.head]
  split
  · exact hst
  · split
    · dsimp only
      split
      · exact ((hst.setTrim _).answer ..).endCalibration
      · exact (hst.answer ..).endCalibration
    · exact hst

end Same

end Sys2Proof.Machine
end

section
/-! PROOFS. Steps of different heads commute, so that a step taken ahead of its turn ends where the fold over all heads does (log
entry 2). -/

namespace Sys2Proof.Machine

open Sys2Proof

/-! ## States that differ in the tables only -/

/-- Between s and t nothing is touched beside the heads' tables, the trace unit, the request slots, the store and the notices. -/
def TablesOnly (s t : State) : Prop :=
  t = { s with
    heads := t.heads, channels := t.channels, calibrations := t.calibrations, link := { s.link with buffers := t.link.buffers }
    trace := t.trace, requests := t.requests, store := t.store, notices := t.notices }

theorem TablesOnly.trans {s t u : State} (hst : TablesOnly s t) (htu : TablesOnly t u) : TablesOnly s u := by
  unfold TablesOnly at *
  rw [htu, hst]

theorem notices_eq {s t : State} (hpending : ∀ c, t.isPending c = s.isPending c) (hmask : t.notices.mask = s.notices.mask) :
    t.notices = s.notices := by
  have pending : t.notices.pending = s.notices.pending := by
    refine BitVec.eq_of_getLsbD_eq fun i hi => ?_
    have number : ∃ c : NoticeClass, c.number = i := by
      have := (by decide : ∀ i : Fin 7, ∃ c ∈ [NoticeClass.head, .event, .record, .trace, .answer, .link, .port], c.number = i.val)
        ⟨i, hi⟩
      obtain ⟨c, -, hc⟩ := this
      exact ⟨c, hc⟩
    obtain ⟨c, rfl⟩ := number
    exact hpending c
  calc t.notices = ⟨t.notices.pending, t.notices.mask⟩ := rfl
    _ = s.notices := by rw [pending, hmask]

/-- States that differ in the tables only are equal when no table shows a difference. -/
theorem eq_of_tables {s t u : State} (ht : TablesOnly s t) (hu : TablesOnly s u) (own : ∀ h, OwnKept t u h)
    (slot : ∀ n, SlotAlike t u n) (queue : u.requests.queue = t.requests.queue)
    (inService : u.requests.inService = t.requests.inService) (trace : u.trace = t.trace)
    (pending : ∀ c, u.isPending c = t.isPending c) (mask : u.notices.mask = t.notices.mask)
    (read : ∀ a, u.store.read a = t.store.read a) (htwf : StoreCanonical t) (huwf : StoreCanonical u) : t = u := by
  have heads : u.heads = t.heads := Vector.ext fun i hi => (own ⟨i, hi⟩).head
  have channels : u.channels = t.channels := Vector.ext fun i hi => (own ⟨i, hi⟩).channel
  have calibrations : u.calibrations = t.calibrations := Vector.ext fun i hi => (own ⟨i, hi⟩).record
  have buffers : u.link.buffers = t.link.buffers := Vector.ext fun i hi => (own ⟨i, hi⟩).buffer
  have slots : u.requests.slots = t.requests.slots := Vector.ext fun i hi => (slot ⟨i, hi⟩).1
  have requests : u.requests = t.requests :=
    calc u.requests = ⟨u.requests.slots, u.requests.queue, u.requests.inService⟩ := rfl
      _ = t.requests := by rw [slots, queue, inService]
  have store : u.store = t.store := eq_of_read_eq huwf htwf read
  have notices := notices_eq pending mask
  unfold TablesOnly at ht hu
  rw [ht, hu, heads, channels, calibrations, buffers, trace, requests, store, notices]

/-! ## Steps that concern one head -/

/-- No two heads have calibrations that answer in the same slot. -/
def SlotsApart (s : State) : Prop := ∀ g h, g ≠ h → ∀ c, s.calibration h = some c → SlotFree s c.slot g

theorem SlotsApart.from {s t : State} (hs : SlotsApart s) (hst : ∀ h, CalibrationFrom s t h) : SlotsApart t := by
  intro g h hne c hc
  obtain ⟨d, hd, hslot⟩ := hst h c hc
  rw [← hslot]
  exact (hs g h hne d hd).from (hst g)

/-- A step f of one head: what it makes of the head's entries and of a slot depends on these alone, and it leaves the other heads'
entries alone; it answers its calibration's slot or none, and a capture may lose the head. -/
structure HeadLocal (f : State → Fin 12 → State) (slots : State → Fin 12 → List (Fin 8))
    (classes : State → Fin 12 → List NoticeClass) (leaves : State → Fin 12 → Bool) : Prop where
  alike : ∀ {s t h P}, Alike h P s t → Alike h P (f s h) (f t h)
  other : ∀ {s g h}, g ≠ h → OwnKept s (f s g) h
  only : ∀ s h, TablesOnly s (f s h)
  effects : ∀ s h, Effects s (f s h) (slots s h) (classes s h)
  trace : ∀ s h, (f s h).trace = { s.trace with mode := s.trace.mode.departing fun i => leaves s h && decide (i = h.val) }
  origin : ∀ s g h, CalibrationFrom s (f s g) h
  writes : ∀ s h, PartWrites s.store (f s h).store
  slotOf : ∀ {s h n}, n ∈ slots s h → ∃ c, s.calibration h = some c ∧ c.slot = n
  slots_eq : ∀ {s t h}, OwnKept s t h → slots t h = slots s h
  classes_eq : ∀ {s t h}, OwnKept s t h → classes t h = classes s h
  leaves_eq : ∀ {s t h}, OwnKept s t h → leaves t h = leaves s h

section HeadLocal

variable {f : State → Fin 12 → State} {slots : State → Fin 12 → List (Fin 8)} {classes : State → Fin 12 → List NoticeClass}
  {leaves : State → Fin 12 → Bool} (hf : HeadLocal f slots classes leaves)
include hf

theorem HeadLocal.own {s t : State} {h : Fin 12} (hst : OwnKept s t h) : OwnKept (f s h) (f t h) h :=
  (hf.alike (P := fun _ => False) ⟨hst, fun _ => False.elim⟩).own

theorem HeadLocal.slot {s t : State} {h : Fin 12} {n : Fin 8} (hst : OwnKept s t h) (hn : SlotAlike s t n) :
    SlotAlike (f s h) (f t h) n :=
  (hf.alike (P := fun m => m = n) ⟨hst, fun _ e => e ▸ hn⟩).slot n rfl

theorem HeadLocal.canonical {s : State} (hs : StoreCanonical s) (h : Fin 12) : StoreCanonical (f s h) := (hf.writes s h).wf hs

theorem HeadLocal.apart {s : State} (hs : SlotsApart s) (k : Fin 12) : SlotsApart (f s k) := hs.from (hf.origin s k)

theorem HeadLocal.pending (s : State) (h : Fin 12) (c : NoticeClass) :
    (f s h).isPending c = (decide (c ∈ classes s h) || s.isPending c) := (hf.effects s h).raised.1 c

/-- Two steps of different heads make the same of a slot in either order. -/
theorem HeadLocal.slot_comm {s : State} (hs : SlotsApart s) {g h : Fin 12} (hne : g ≠ h) (n : Fin 8) :
    SlotAlike (f (f s g) h) (f (f s h) g) n := by
  have other : ∀ {g h : Fin 12}, g ≠ h → n ∉ slots s g → SlotAlike (f (f s h) g) (f s h) n := fun hne hn =>
    ((hf.effects _ _).answered.alike (by rwa [hf.slots_eq (hf.other hne.symm)])).symm
  have own : ∀ {g h : Fin 12}, g ≠ h → n ∉ slots s g → SlotAlike (f s h) (f (f s g) h) n := fun hne hn =>
    hf.slot (hf.other hne) ((hf.effects _ _).answered.alike hn)
  by_cases hn : n ∈ slots s g
  · have free : n ∉ slots s h := fun hh => by
      obtain ⟨c, hc, hslot⟩ := hf.slotOf hh
      obtain ⟨d, hd, hslot'⟩ := hf.slotOf hn
      exact hs g h hne c hc d hd (hslot'.trans hslot.symm)
    exact (other hne.symm free).trans (own hne.symm free)
  · exact ((own hne hn).symm.trans (other hne hn).symm)

theorem HeadLocal.read_outside (s : State) (h : Fin 12) {a : Nat} (ha : ∀ n, ¬((answerBytes n).1 ≤ a ∧ a < (answerBytes n).2)) :
    (f s h).store.read a = s.store.read a := by
  refine (hf.effects s h).answered.bytes a fun r hr => ?_
  obtain ⟨n, -, rfl⟩ := List.mem_map.mp hr
  exact ha n

theorem HeadLocal.read_comm {s : State} (hs : SlotsApart s) {g h : Fin 12} (hne : g ≠ h) (a : Nat) :
    (f (f s h) g).store.read a = (f (f s g) h).store.read a := by
  by_cases ha : ∃ n, (answerBytes n).1 ≤ a ∧ a < (answerBytes n).2
  · obtain ⟨n, hlow, hhigh⟩ := ha
    exact (hf.slot_comm hs hne n).2 a hlow hhigh
  · have outside := not_exists.mp ha
    rw [hf.read_outside _ _ outside, hf.read_outside _ _ outside, hf.read_outside _ _ outside, hf.read_outside _ _ outside]

theorem HeadLocal.own_comm (s : State) {g h : Fin 12} (hne : g ≠ h) (k : Fin 12) :
    OwnKept (f (f s g) h) (f (f s h) g) k := by
  by_cases hg : g = k
  · subst hg
    exact (hf.other hne.symm).symm.trans (hf.own (hf.other hne.symm))
  · by_cases hh : h = k
    · subst hh
      exact (hf.own (hf.other hne)).symm.trans (hf.other hne)
    · exact ((hf.other hg).trans (hf.other hh)).symm.trans ((hf.other hh).trans (hf.other hg))

theorem HeadLocal.trace_comm (s : State) {g h : Fin 12} (hne : g ≠ h) : (f (f s h) g).trace = (f (f s g) h).trace := by
  rw [hf.trace, hf.trace, hf.trace, hf.trace, hf.leaves_eq (hf.other hne), hf.leaves_eq (hf.other hne.symm),
    mode_departing_departing, mode_departing_departing]
  simp only [Bool.or_comm]

/-- Steps of different heads whose calibrations answer in different slots commute. -/
theorem HeadLocal.comm {s : State} (hwf : StoreCanonical s) (hs : SlotsApart s) {g h : Fin 12} (hne : g ≠ h) :
    f (f s g) h = f (f s h) g := by
  have queue := fun s h => (hf.effects s h).answered.queue
  have inService := fun s h => (hf.effects s h).answered.inService
  have mask := fun s h => (hf.effects s h).raised.2
  refine eq_of_tables ((hf.only s g).trans (hf.only _ h)) ((hf.only s h).trans (hf.only _ g)) (hf.own_comm s hne)
    (hf.slot_comm hs hne) ?_ ?_ (hf.trace_comm s hne) (fun c => ?_) ?_ (hf.read_comm hs hne)
    (hf.canonical (hf.canonical hwf g) h) (hf.canonical (hf.canonical hwf h) g)
  · rw [queue, queue, queue, queue]
  · rw [inService, inService, inService, inService]
  · rw [hf.pending, hf.pending, hf.pending, hf.pending, hf.classes_eq (hf.other hne), hf.classes_eq (hf.other hne.symm),
      Bool.or_left_comm]
  · rw [mask, mask, mask, mask]

/-- A head's step taken first leaves the steps of the other heads of the list (log entry 2). -/
theorem HeadLocal.foldl_erase {s : State} (hwf : StoreCanonical s) (hs : SlotsApart s) {h : Fin 12} {l : List (Fin 12)}
    (hl : h ∈ l) : (l.erase h).foldl f (f s h) = l.foldl f s := by
  induction l generalizing s with
  | nil => cases hl
  | cons g l ih =>
    by_cases hne : g = h
    · rw [hne, List.erase_cons_head, List.foldl_cons]
    · have hmem : h ∈ l := (List.mem_cons.mp hl).resolve_left (Ne.symm hne)
      rw [List.erase_cons_tail (by simpa using hne), List.foldl_cons, List.foldl_cons, ← hf.comm hwf hs hne,
        ih (hf.canonical hwf g) (hf.apart hs g) hmem]

/-- A step does not look at the stage. -/
theorem HeadLocal.atStage {s : State} (hwf : StoreCanonical s) (x : TickStage) (h : Fin 12) :
    f (s.atStage x) h = (f s h).atStage x := by
  have own : OwnKept s (s.atStage x) h := atStage_keeps_own s x h
  have staged := hf.effects (s.atStage x) h
  have plain := hf.effects s h
  have only : TablesOnly (s.atStage x) ((f s h).atStage x) := by
    have plain := hf.only s h
    unfold TablesOnly at *
    rw [plain]
    rfl
  refine eq_of_tables (hf.only _ h) only (fun k => ?_) (fun n => ?_) ?_ ?_ ?_ (fun c => ?_) ?_ (fun a => ?_)
    (hf.canonical (s := s.atStage x) hwf h) (hf.canonical hwf h)
  · by_cases hk : h = k
    · subst hk
      exact (hf.own own).symm.trans (atStage_keeps_own ..)
    · exact (((atStage_keeps_own s x k).trans (hf.other hk)).symm.trans (hf.other hk)).trans (atStage_keeps_own ..)
  · exact (hf.slot own (.of_eq rfl rfl)).symm.trans (.of_eq rfl rfl)
  · exact plain.answered.queue.trans staged.answered.queue.symm
  · exact plain.answered.inService.trans staged.answered.inService.symm
  · rw [atStage_trace, hf.trace, hf.trace, hf.leaves_eq own, atStage_trace]
  · rw [isPending_atStage, hf.pending, hf.pending, hf.classes_eq own, isPending_atStage]
  · exact plain.raised.2.trans staged.raised.2.symm
  · by_cases ha : ∃ n, (answerBytes n).1 ≤ a ∧ a < (answerBytes n).2
    · obtain ⟨n, hlow, hhigh⟩ := ha
      exact (hf.slot own (.of_eq rfl rfl)).symm.2 a hlow hhigh
    · rw [atStage_store, hf.read_outside _ _ (not_exists.mp ha), hf.read_outside _ _ (not_exists.mp ha), atStage_store]

theorem HeadLocal.foldl_atStage {s : State} (hwf : StoreCanonical s) (x : TickStage) (l : List (Fin 12)) :
    l.foldl f (s.atStage x) = (l.foldl f s).atStage x := by
  induction l generalizing s with
  | nil => rfl
  | cons h l ih => rw [List.foldl_cons, List.foldl_cons, hf.atStage hwf, ih (hf.canonical hwf h)]

end HeadLocal

/-! ## The two steps -/

theorem mem_calibrationSlot {s : State} {h : Fin 12} {n : Fin 8} (hn : n ∈ s.calibrationSlot h) :
    ∃ c, s.calibration h = some c ∧ c.slot = n := by
  unfold State.calibrationSlot at hn
  cases hc : s.calibration h with
  | none => simp [hc] at hn
  | some c => exact ⟨c, rfl, by simpa [hc, eq_comm] using hn⟩

theorem mem_closeSlots {s : State} {h : Fin 12} {n : Fin 8} (hn : n ∈ s.closeSlots h) :
    ∃ c, s.calibration h = some c ∧ c.slot = n := by
  unfold State.closeSlots at hn
  split at hn
  · exact mem_calibrationSlot hn
  · simp at hn

theorem mem_dueSlots {s : State} {h : Fin 12} {n : Fin 8} (hn : n ∈ s.dueSlots h) :
    ∃ c, s.calibration h = some c ∧ c.slot = n := by
  unfold State.dueSlots at hn
  split at hn
  · exact mem_calibrationSlot hn
  · simp at hn

theorem settleHead_only (s : State) (h : Fin 12) : TablesOnly s (s.settleHead h) := by
  have link : (s.settleHead h).link = { s.link with buffers := (s.settleHead h).link.buffers } := by
    simp [State.settleHead, State.setBuffer]
  apply State.eq_of_fields (h9 := link) <;> simp

theorem settleHead_local : HeadLocal State.settleHead State.closeSlots State.closeClasses State.lostAtClose where
  alike := .settleHead
  other := settleHead_keeps_other _
  only := settleHead_only
  effects := settleHead_effects
  trace := settleHead_trace
  origin := settleHead_from
  writes := settleHead_writes
  slotOf := mem_closeSlots
  slots_eq := OwnKept.closeSlots
  classes_eq := OwnKept.closeClasses
  leaves_eq := OwnKept.lostAtClose

section Due

variable {s t : State} {h : Fin 12} (hst : OwnKept s t h)
include hst

theorem OwnKept.calibrationDue : t.calibrationDue h = s.calibrationDue h := by
  simp only [State.calibrationDue, hst.calibration]

theorem OwnKept.dueSlots : t.dueSlots h = s.dueSlots h := by
  simp only [State.dueSlots, hst.calibrationDue, hst.calibrationSlot]

theorem OwnKept.dueClasses : t.dueClasses h = s.dueClasses h := by
  simp only [State.dueClasses, hst.calibrationDue, hst.calibrationClass]

end Due

theorem completeCalibration_only (s : State) (h : Fin 12) : TablesOnly s (s.completeCalibration h) := by
  apply State.eq_of_fields <;> simp

theorem completeCalibration_local : HeadLocal State.completeCalibration State.dueSlots State.dueClasses fun _ _ => false where
  alike := .completeCalibration
  other := completeCalibration_keeps_other _ _
  only := completeCalibration_only
  effects := completeCalibration_effects
  trace s h := by simp [mode_departing_of_none]
  origin s g h := completeCalibration_from s h g
  writes := completeCalibration_writes
  slotOf := mem_dueSlots
  slots_eq := OwnKept.dueSlots
  classes_eq := OwnKept.dueClasses
  leaves_eq _ := rfl

/-- A calibration completed is over. -/
theorem completeCalibration_again (s : State) (h : Fin 12) :
    (s.completeCalibration h).completeCalibration h = s.completeCalibration h := by
  obtain ⟨-, -, calibration⟩ := completeCalibration_own s h
  refine completeCalibration_of_waiting ?_
  rw [State.calibrationDue, calibration]
  cases hdue : s.calibrationDue h with
  | true => rfl
  | false => simpa [State.calibrationDue] using hdue

end Sys2Proof.Machine
end

section
/-! PROOFS. A tick event taken in parts, and what each command finishes of a begun one (R40, R146, R178; log entry 2). -/

namespace Sys2Proof.Machine

open Sys2Proof

/-! ## Stages taken again -/

section Again

variable {s : State}

theorem closeTick_of_closed (h : ∀ todo, s.stage ≠ .closing todo) : s.closeTick = s := by
  unfold State.closeTick
  split
  · next todo hs => exact absurd hs (h todo)
  · rfl

theorem captureStage_of_captured (h : s.stage ≠ .closed) : s.captureStage = s := by
  unfold State.captureStage
  split
  · next hs => exact absurd hs h
  · rfl

theorem periodStage_of_stepped (h : ∀ b, s.stage ≠ .secondClosed b) : s.periodStage = s := by
  unfold State.periodStage
  split
  · next hs => exact absurd hs (h true)
  · next hs => exact absurd hs (h false)
  · rfl

theorem calibrationStage_of_unmarked (h : s.stage ≠ .marked) : s.calibrationStage = s := by
  unfold State.calibrationStage
  split
  · next hs => exact absurd hs h
  · rfl

variable (s)

theorem finishClose_again : s.finishClose.finishClose = s.finishClose := finishClose_of_closeDone (finishClose_closeDone s)

theorem finishTick_again : s.finishTick.finishTick = s.finishTick := finishTick_of_idle (finishTick_stage s)

theorem finishBeforeMark_again : s.finishBeforeMark.finishBeforeMark = s.finishBeforeMark := by
  have stage := finishBeforeMark_stage s
  refine finishBeforeMark_of_done ?_
  rw [stage]
  cases s.stage <;> simp

/-- The stage that a tick close with its capture leaves behind. -/
theorem tickClose_stage : s.closeTick.captureStage.stage = match s.stage with
    | .closing _ => .captured
    | .closed => .captured
    | x => x := by
  rw [captureStage_stage, closeTick_stage]
  cases s.stage <;> rfl

theorem finishClose_of_tickClose : s.closeTick.captureStage.finishClose = s.finishClose := by
  have stage := tickClose_stage s
  have closed : s.closeTick.captureStage.closeTick = s.closeTick.captureStage := closeTick_of_closed fun todo => by
    rw [stage]
    cases s.stage <;> simp
  have captured : s.closeTick.captureStage.captureStage = s.closeTick.captureStage := captureStage_of_captured (by
    rw [stage]
    cases s.stage <;> simp)
  rw [State.finishClose, closed, captured]
  rfl

theorem tickClose_idle_iff : s.closeTick.captureStage.stage = .idle ↔ s.stage = .idle := by
  rw [tickClose_stage]
  cases s.stage <;> simp

theorem finishClose_idle_iff : s.finishClose.stage = .idle ↔ s.stage = .idle := by
  rw [State.finishClose, ← tickClose_idle_iff s]
  rcases secondStage_stage s.closeTick.captureStage with ⟨hc, b, hb⟩ | ⟨-, heq⟩
  · simp [hb, hc]
  · rw [heq]

theorem periodEnded_idle_iff : s.finishClose.periodStage.stage = .idle ↔ s.stage = .idle := by
  rw [periodStage_stage, ← finishClose_idle_iff s]
  cases s.finishClose.stage <;> simp

theorem finishClose_of_periodEnded : s.finishClose.periodStage.finishClose = s.finishClose.periodStage := by
  refine finishClose_of_closeDone ?_
  have done := finishClose_closeDone s
  have stage := periodStage_stage s.finishClose
  unfold closeDone at done ⊢
  rw [stage]
  cases hs : s.finishClose.stage <;> simp_all

theorem periodEnded_again : s.finishClose.periodStage.periodStage = s.finishClose.periodStage :=
  periodStage_of_stepped fun b => by
    rw [periodStage_stage]
    cases s.finishClose.stage <;> simp

theorem finishTick_of_tickClose : s.closeTick.captureStage.finishTick = s.finishTick := by
  rw [State.finishTick, finishClose_of_tickClose, State.finishTick]

theorem finishTick_of_finishClose : s.finishClose.finishTick = s.finishTick := by
  rw [State.finishTick, finishClose_again, State.finishTick]

theorem finishTick_of_periodEnded : s.finishClose.periodStage.finishTick = s.finishTick := by
  rw [State.finishTick, finishClose_of_periodEnded, periodEnded_again, State.finishTick]

end Again

/-! ## The parts without a head -/

theorem beginTick_of_begun {s : State} (h : s.stage ≠ .idle) : s.beginTick = s := by
  unfold State.beginTick
  split
  · next hs => exact absurd hs h
  · rfl

/-- In MEASURING a tick event begins unless RESET# is low; then nothing changes. -/
theorem beginTick_of_idle {s : State} (hrun : s.run = .measuring) (h : s.beginTick.stage = .idle) : s.beginTick = s := by
  unfold State.beginTick at h ⊢
  split
  · next hs =>
    simp only [hs, hrun, if_true] at h ⊢
    split
    · next hruns =>
      rw [if_pos hruns] at h
      split at h <;> simp at h
    · rfl
  · rfl

theorem exec_tickEvent (s : State) : exec .tickEvent s = .next s.beginTick.finishTick := rfl

/-- A part u of the tick event of s that has begun, and that goes on to the same end. -/
theorem exec_tickEvent_of_part {s u : State} (hbegun : u.stage ≠ .idle) (hfinish : u.finishTick = s.beginTick.finishTick) :
    exec .tickEvent u = exec .tickEvent s := by
  rw [exec_tickEvent, exec_tickEvent, beginTick_of_begun hbegun, hfinish]

theorem exec_secondClose {s : State} (hrun : s.run = .measuring) : exec .secondClose s = .next s.beginTick.finishClose :=
  if_pos hrun

/-- CAPTURE_COMPLETE, SECOND_CLOSE and PERIOD_END carry the tick event to a stage in MEASURING, and do nothing elsewhere. -/
theorem stagePart_cases {s u : State} {c : Instr} (hc : c ∈ [Instr.captureComplete, .secondClose, .periodEnd])
    (hu : exec c s = .next u) : u = s ∨ s.run = .measuring ∧ (u = s.beginTick.closeTick.captureStage ∨
      u = s.beginTick.finishClose ∨ u = s.beginTick.finishClose.periodStage) := by
  simp only [List.mem_cons, List.not_mem_nil, or_false] at hc
  by_cases hrun : s.run = .measuring
  · refine .inr ⟨hrun, ?_⟩
    rcases hc with rfl | rfl | rfl
    · exact .inl (Host.Outcome.next.inj (hu.symm.trans (exec_captureComplete hrun)))
    · exact .inr (.inl (Host.Outcome.next.inj (hu.symm.trans (exec_secondClose hrun))))
    · exact .inr (.inr (Host.Outcome.next.inj (hu.symm.trans (exec_periodEnd hrun))))
  · have same : exec c s = .next s := by
      rcases hc with rfl | rfl | rfl <;> exact if_neg hrun
    exact .inl (Host.Outcome.next.inj (hu.symm.trans same))

/-- They leave a tick event that goes on as it would have alone. -/
theorem tickEvent_of_stages {s u : State} {c : Instr} (hc : c ∈ [Instr.captureComplete, .secondClose, .periodEnd])
    (hu : exec c s = .next u) : exec .tickEvent u = exec .tickEvent s := by
  rcases stagePart_cases hc hu with rfl | ⟨hrun, part⟩
  · rfl
  · by_cases hidle : s.beginTick.stage = .idle
    · have begun := beginTick_of_idle hrun hidle
      rw [begun] at hidle part
      have closed : s.finishClose = s := finishClose_of_closeDone (by rw [closeDone, hidle])
      have captured : s.closeTick.captureStage = s := by
        rw [closeTick_of_closed (by simp [hidle]), captureStage_of_captured (by simp [hidle])]
      have stepped : s.periodStage = s := periodStage_of_stepped (by simp [hidle])
      rw [closed, captured, stepped, or_self, or_self] at part
      rw [part]
    · rcases part with rfl | rfl | rfl
      · exact exec_tickEvent_of_part (mt (tickClose_idle_iff _).mp hidle) (finishTick_of_tickClose _)
      · exact exec_tickEvent_of_part (mt (finishClose_idle_iff _).mp hidle) (finishTick_of_finishClose _)
      · exact exec_tickEvent_of_part (mt (periodEnded_idle_iff _).mp hidle) (finishTick_of_periodEnded _)

/-! ## The parts of one head -/

theorem slotsApart_of_inOrder {s : State} (hs : RequestsInOrder s) : SlotsApart s := by
  obtain ⟨-, -, -, held, -⟩ := hs
  exact fun g h hne c hc => slotFree_of_nodup held hne hc

theorem calibrationFrom_of_calibrations {s t : State} (he : t.calibrations = s.calibrations) (h : Fin 12) : CalibrationFrom s t h :=
  .of_eq (by rw [State.calibration, State.calibration, State.calRecord, State.calRecord, he])

theorem closeTick_from (s : State) (h : Fin 12) : CalibrationFrom s s.closeTick h := by
  unfold State.closeTick
  split
  · next todo _ => exact (settleHeads_from todo s h).trans (calibrationFrom_of_calibrations (by simp) h)
  · exact .of_eq rfl

theorem periodEnded_from (s : State) (h : Fin 12) : CalibrationFrom s s.finishClose.periodStage h := by
  have rest : CalibrationFrom s.closeTick s.finishClose.periodStage h :=
    calibrationFrom_of_calibrations (by simp [State.finishClose]) h
  exact (closeTick_from s h).trans rest

theorem markStage_from (s : State) (h : Fin 12) : CalibrationFrom s s.markStage h := by
  unfold State.markStage
  split
  · have marked : CalibrationFrom s (allHeads.foldl State.markHead s) h :=
      List.foldlRecOn (motive := fun t => CalibrationFrom s t h) allHeads _ (.of_eq rfl) fun t ht g _ =>
        ht.trans (markHead_from t h g)
    generalize allHeads.foldl State.markHead s = t at marked ⊢
    exact marked.trans (.of_eq rfl)
  · exact .of_eq rfl

/-- The tick event of s as far as its mark, where the calibrations that are due complete. -/
def State.atMark (s : State) : State := s.beginTick.finishClose.periodStage.markStage

theorem atMark_from (s : State) (h : Fin 12) : CalibrationFrom s s.atMark h := by
  have begun : CalibrationFrom s s.beginTick h := calibrationFrom_of_calibrations (by simp) h
  have marked : CalibrationFrom s.beginTick.finishClose.periodStage s.atMark h := by
    rw [State.atMark]
    exact markStage_from _ h
  exact (begun.trans (periodEnded_from s.beginTick h)).trans marked

theorem beginTick_canonical {s : State} (hs : StoreCanonical s) : StoreCanonical s.beginTick := by
  have store : s.beginTick.store = s.store := by simp
  unfold StoreCanonical
  rwa [store]

theorem atMark_canonical {s : State} (hs : StoreCanonical s) : StoreCanonical s.atMark :=
  (((finishClose_writes _).trans (periodStage_writes _)).trans (markStage_writes _)).wf (beginTick_canonical hs)

theorem takeSamples_atStage (s : State) (x y : TickStage) : (s.atStage x).takeSamples.atStage y = s.takeSamples.atStage y := by
  unfold State.takeSamples
  simp only [atStage_trace]
  split <;> rfl

/-- A head settled ahead of the others leaves the same tick close (log entry 2). -/
theorem closeTick_of_closeHead {s : State} (hwf : StoreCanonical s) (hs : SlotsApart s) {todo : List (Fin 12)}
    (hstage : s.stage = .closing todo) {h : Fin 12} (hmem : h ∈ todo) : (s.closeHead h).closeTick = s.closeTick := by
  have settled : s.closeHead h = (s.settleHead h).atStage (.closing (todo.erase h)) := by
    rw [State.closeHead, hstage]
    rfl
  have all : (todo.erase h).foldl State.settleHead (s.closeHead h) =
      (todo.foldl State.settleHead s).atStage (.closing (todo.erase h)) := by
    rw [settled, settleHead_local.foldl_atStage (settleHead_local.canonical hwf h), settleHead_local.foldl_erase hwf hs hmem]
  have left : (s.closeHead h).closeTick =
      ((todo.erase h).foldl State.settleHead (s.closeHead h)).takeSamples.atStage .closed := by
    rw [State.closeTick, show (s.closeHead h).stage = .closing (todo.erase h) by rw [settled]; rfl]
    rfl
  have right : s.closeTick = (todo.foldl State.settleHead s).takeSamples.atStage .closed := by
    rw [State.closeTick, hstage]
    rfl
  rw [left, all, takeSamples_atStage, right]

theorem trimsSet_eq (v : State) : v.trimsSet = allHeads.foldl State.completeCalibration v := by
  unfold State.trimsSet
  rfl

section OneHead

variable {s : State} (hwf : StoreCanonical s) (hs : SlotsApart s) (h : Fin 12)
include hwf hs

/-- A tick event whose head h is settled first goes on as it would have alone. -/
theorem tickEvent_of_closeHead {todo : List (Fin 12)} (hstage : s.beginTick.stage = .closing todo) (hmem : h ∈ todo) :
    exec .tickEvent (s.beginTick.closeHead h) = exec .tickEvent s := by
  have apart := hs.from fun k => calibrationFrom_of_calibrations (t := s.beginTick) (by simp) k
  have closed := closeTick_of_closeHead (beginTick_canonical hwf) apart hstage hmem
  refine exec_tickEvent_of_part ?_ ?_
  · simp [State.closeHead, hstage]
  · rw [State.finishTick, State.finishClose, closed, State.finishTick, State.finishClose]

/-- A tick event whose head h completes its calibration first goes on as it would have alone. -/
theorem tickEvent_of_completeCalibration (hmark : s.atMark.stage = .marked) :
    exec .tickEvent (s.atMark.completeCalibration h) = exec .tickEvent s := by
  have stage : (s.atMark.completeCalibration h).stage = .marked := by simpa using hmark
  have closed : (s.atMark.completeCalibration h).finishClose = s.atMark.completeCalibration h :=
    finishClose_of_closeDone (by rw [closeDone, stage])
  have stepped : (s.atMark.completeCalibration h).periodStage = s.atMark.completeCalibration h :=
    periodStage_of_stepped fun b => by
      rw [stage]
      nofun
  have marked : (s.atMark.completeCalibration h).markStage = s.atMark.completeCalibration h := by
    rw [State.markStage, stage]
  have canonical := atMark_canonical hwf
  have apart := hs.from (atMark_from s)
  have steps := completeCalibration_local
  have trims : (s.atMark.completeCalibration h).trimsSet = s.atMark.trimsSet :=
    calc (s.atMark.completeCalibration h).trimsSet
        = allHeads.foldl State.completeCalibration (s.atMark.completeCalibration h) := trimsSet_eq _
      _ = (allHeads.erase h).foldl State.completeCalibration ((s.atMark.completeCalibration h).completeCalibration h) :=
          (steps.foldl_erase (steps.canonical canonical h) (steps.apart apart h) (mem_allHeads h)).symm
      _ = (allHeads.erase h).foldl State.completeCalibration (s.atMark.completeCalibration h) := by
          rw [completeCalibration_again]
      _ = allHeads.foldl State.completeCalibration s.atMark := steps.foldl_erase canonical apart (mem_allHeads h)
      _ = s.atMark.trimsSet := (trimsSet_eq _).symm
  have whole : s.beginTick.finishTick = s.atMark.calibrationStage := by rw [State.finishTick, State.atMark]
  have begun : (s.atMark.completeCalibration h).stage ≠ .idle := by
    rw [stage]
    nofun
  refine exec_tickEvent_of_part begun ?_
  rw [whole, State.finishTick, closed, stepped, marked, calibrationStage_of_marked stage, trims, ← calibrationStage_of_marked hmark]

/-- A part that settles head h where that is due, as JOIN_COMPLETE and HEAD_LOST do. -/
theorem tickEvent_of_settling {u : State} {due : Bool} (hdue : due = true → ∃ todo, s.beginTick.stage = .closing todo ∧ h ∈ todo)
    (hu : (if due then (Host.Outcome.next (s.beginTick.closeHead h) : Host.Outcome State Fault Refusal) else .next s) = .next u) :
    exec .tickEvent u = exec .tickEvent s := by
  cases due with
  | true =>
    obtain ⟨todo, hstage, hmem⟩ := hdue rfl
    obtain rfl : s.beginTick.closeHead h = u := Host.Outcome.next.inj hu
    exact tickEvent_of_closeHead hwf hs h hstage hmem
  | false =>
    obtain rfl : s = u := Host.Outcome.next.inj hu
    rfl

theorem tickEvent_of_headPart {u : State} {c : Instr} (hc : c ∈ [Instr.joinComplete h, .headLost h, .calibrationComplete h])
    (hu : exec c s = .next u) : exec .tickEvent u = exec .tickEvent s := by
  simp only [List.mem_cons, List.not_mem_nil, or_false] at hc
  rcases hc with rfl | rfl | rfl
  · refine tickEvent_of_settling hwf hs h (due := s.beginTick.joinDue h) (fun hdue => ?_) hu
    unfold State.joinDue at hdue
    split at hdue
    · next todo hstage => exact ⟨todo, hstage, by simp_all⟩
    · cases hdue
  · refine tickEvent_of_settling hwf hs h (due := s.beginTick.lossDue h) (fun hdue => ?_) hu
    unfold State.lossDue at hdue
    split at hdue
    · next todo hstage => exact ⟨todo, hstage, by simp_all⟩
    · cases hdue
  · have cases : (if decide (s.atMark.stage = .marked) && s.atMark.calibrationDue h then
        (Host.Outcome.next (s.atMark.completeCalibration h) : Host.Outcome State Fault Refusal) else .next s) = .next u := hu
    split at cases
    · next hdue =>
      have marked : s.atMark.stage = .marked := by simp_all
      obtain rfl : s.atMark.completeCalibration h = u := by simpa using cases
      exact tickEvent_of_completeCalibration hwf hs h marked
    · obtain rfl : s = u := by simpa using cases
      rfl

end OneHead

/-! ## What the other commands finish -/

/-- The commands that finish a begun tick event do as they would with it finished. -/
theorem exec_of_finishTick (s : State) {c : Instr} (hc : c ∈ [Instr.start, .unpark, .endOfStarting, .pinReset .low] ∨
    (∃ r a d, c = .registerWrite r a d) ∨ (∃ d, c = .restart d) ∨ ∃ cs, c = .frame cs) : exec c s = exec c s.finishTick := by
  have again := finishTick_again s
  simp only [List.mem_cons, List.not_mem_nil, or_false] at hc
  rcases hc with (rfl | rfl | rfl | rfl) | ⟨r, a, d, rfl⟩ | ⟨d, rfl⟩ | ⟨cs, rfl⟩
  · simp only [exec, execStart, again]
  · simp only [exec, execUnpark, again]
  · simp only [exec, execEndOfStarting, again]
  · simp only [exec, execPinReset, again]
  · simp only [exec, execRegisterWrite, again]
  · simp only [exec, execRestart, again]
  · simp only [exec, execFrame, again]

theorem exec_of_finishBeforeMark (s : State) {c : Instr} (hc : c ∈ [Instr.stop, .park]) : exec c s = exec c s.finishBeforeMark := by
  have again := finishBeforeMark_again s
  simp only [List.mem_cons, List.not_mem_nil, or_false] at hc
  rcases hc with rfl | rfl
  · simp only [exec, execStop, again]
  · simp only [exec, execPark, again]

theorem exec_of_finishClose (s : State) {c : Instr} (hc : c ∈ [Instr.setClock, .adoptLimits, .calibrate, .loadTrim, .armTrace,
    .disarmTrace, .traceNow, .zeroHeadCounters, .unknownKindRequest, .wdatRead] ∨ (∃ d, c = .wdatWrite d) ∨
    ∃ a d, c = .ntcWrite a d) : exec c s = exec c s.finishClose := by
  have again := finishClose_again s
  simp only [List.mem_cons, List.not_mem_nil, or_false] at hc
  rcases hc with (rfl | rfl | rfl | rfl | rfl | rfl | rfl | rfl | rfl | rfl) | ⟨d, rfl⟩ | ⟨a, d, rfl⟩
  · simp only [exec, execSetClock, again]
  · simp only [exec, execAdoptLimits, again]
  · simp only [exec, execCalibrate, again]
  · simp only [exec, execLoadTrim, again]
  · simp only [exec, execArmTrace, again]
  · simp only [exec, execDisarmTrace, again]
  · simp only [exec, execTraceNow, again]
  · simp only [exec, execZeroHeadCounters, again]
  · simp only [exec, execUnknownKindRequest, again]
  · simp only [exec, execWdatRead, again]
  · simp only [exec, execWdatWrite, again]
  · simp only [exec, execNtcWrite, again]

/-! ## SNAPSHOT and DUMP HISTOGRAM -/

theorem workSnapshot_stage (s : State) (n : Fin 8) : (s.workSnapshot n).stage = s.stage := by
  unfold State.workSnapshot
  dsimp only
  (repeat' split) <;> simp [State.recordOnRequest]

theorem workDump_stage (s : State) (n : Fin 8) : (s.workDump n).stage = s.stage := by
  unfold State.workDump
  (repeat' split) <;> simp [State.recordOnRequest]

theorem serve_stage {work : State → Fin 8 → State} (hwork : ∀ s n, (work s n).stage = s.stage) (s : State)
    (kind : Word → Bool) : (s.serve kind work).stage = s.stage := by
  have ended : ∀ t : State, t.endService.stage = t.stage := fun _ => rfl
  have taken : ∀ n, (s.take n).stage = s.stage := fun _ => rfl
  unfold State.serve
  split
  · rfl
  · split
    · dsimp only
      split
      · rw [ended, answer_stage, taken]
      · rw [ended, hwork, taken]
    · rfl

/-! ## The mark not sent -/

theorem closeTick_nextMark (s : State) : s.closeTick.link.nextMark = s.link.nextMark := by
  unfold State.closeTick
  split
  · next todo _ =>
    have link := congrArg Link.nextMark (settleHeads_link todo s)
    simpa using link
  · rfl

theorem secondStage_nextMark (s : State) : s.secondStage.link.nextMark = s.link.nextMark := by
  have closed : s.closeSecond.link.nextMark = s.link.nextMark := by rw [(closeSecond_closes s).frame]
  by_cases hs : s.stage = .captured
  · by_cases hclock : s.clock.tick = 31
    · cases hset : s.clockSetting with
      | none =>
        rw [secondStage_of_none hs hclock hset, atStage_link, closed]
      | some x =>
        have replaced : (s.closeSecond.replaceStep x).link = s.closeSecond.link := by simp
        rw [secondStage_of_some hs hclock hset, atStage_link, replaced, closed]
    · rw [secondStage_within hs hclock]
      rfl
  · rcases secondStage_stage s with ⟨hc, -⟩ | ⟨-, heq⟩
    · exact absurd hc hs
    · rw [heq]

theorem finishBeforeMark_nextMark (s : State) : s.finishBeforeMark.link.nextMark = s.link.nextMark := by
  have before : s.finishBeforeMark.link = s.closeTick.captureStage.secondStage.link := by
    simp [State.finishBeforeMark, State.finishClose]
  rw [before, secondStage_nextMark, (captureStage_frame _).2.2.2.2.2.2.2.1, closeTick_nextMark]

theorem finishBeforeMark_of_marked {s : State} (hs : s.stage = .marked) : s.finishBeforeMark = s.finishTick := by
  have closed : s.finishClose = s := finishClose_of_closeDone (by simp [closeDone, hs])
  have stepped : s.periodStage = s := periodStage_of_stepped (by simp [hs])
  have marked : s.markStage = s := by rw [State.markStage, hs]
  rw [State.finishBeforeMark, State.finishTick, closed, stepped, marked]

theorem finishBeforeMark_stepped {s : State} (hidle : s.stage ≠ .idle) (hmarked : s.stage ≠ .marked) :
    s.finishBeforeMark.stage = .stepped := by
  rw [finishBeforeMark_stage]
  split
  · next hs => exact absurd hs hidle
  · next hs => exact absurd hs hmarked
  · rfl

/-- A tick event before its mark is finished as far as the mark by PERIOD_END. -/
theorem exec_periodEnd_of_begun {s : State} (hidle : s.stage ≠ .idle) (hmarked : s.stage ≠ .marked) (hrun : s.run = .measuring) :
    exec .periodEnd s = .next s.finishBeforeMark := by
  have unmarked : s.finishClose.periodStage.stage ≠ .marked := by
    intro h
    have ends : s.finishBeforeMark.stage = .idle := by rw [State.finishBeforeMark, calibrationStage_stage, h]
    rw [finishBeforeMark_stepped hidle hmarked] at ends
    cases ends
  rw [exec_periodEnd hrun, beginTick_of_begun hidle, State.finishBeforeMark, calibrationStage_of_unmarked unmarked]

/-- Settles O20: the parts by their stages, with the steps of different heads taken in any order; the commands by the stages that
they finish first. -/
theorem tickEventPartsAddUp : Obligations.TickEventPartsAddUp := by
  refine ⟨fun s u c => tickEvent_of_stages, fun s u h c hwf hs => tickEvent_of_headPart hwf (slotsApart_of_inOrder hs) h,
    fun s c => exec_of_finishTick s, fun s c => exec_of_finishBeforeMark s, fun s => ?_, fun s c => exec_of_finishClose s,
    fun s c hc => ?_, fun s => ?_⟩
  · exact ⟨fun hs => finishBeforeMark_of_done (.inl hs), finishBeforeMark_of_marked, fun hidle hmarked =>
      ⟨finishBeforeMark_stepped hidle hmarked, finishBeforeMark_nextMark s, exec_periodEnd_of_begun hidle hmarked⟩⟩
  · simp only [List.mem_cons, List.not_mem_nil, or_false] at hc
    rcases hc with rfl | rfl
    · exact ⟨_, rfl, serve_stage workSnapshot_stage s _⟩
    · exact ⟨_, rfl, serve_stage workDump_stage s _⟩
  · refine ⟨finishTick_stage s, finishClose_closeDone s, fun hidle => ?_, fun hidle hrun => ?_⟩
    · rw [exec_tickEvent, beginTick_of_begun hidle]
    · rw [exec_secondClose hrun, beginTick_of_begun hidle]

end Sys2Proof.Machine
end

section
/-! PROOFS. What a step is made of: the parts of a tick event, of the resets, of the pair and of the requests that look at the run in
progress or change it, in any number and order, and steps that leave all of that as it was. An invariant of the run in progress is
then shown part by part. -/

namespace Sys2Proof.Machine

open Sys2Proof

/-! ## Work beside the run in progress -/

/-- The run in progress is as it was: the run state and the tick event, the period, the pair, the heads' states, the channels and
calibrations, the requests that wait for the run, and that no capture is in progress. -/
structure MeasuringKept (s t : State) : Prop where
  run : t.run = s.run
  resetLow : t.resetLow = s.resetLow
  stage : t.stage = s.stage
  period : t.period = s.period
  link : t.link = s.link
  heads : ∀ h, (t.head h).state = (s.head h).state
  channels : t.channels = s.channels
  calibrations : t.calibrations = s.calibrations
  adoption : t.adoption = s.adoption
  setting : t.clockSetting = s.clockSetting
  idle : (∀ c, s.trace.mode ≠ .capturing c) → ∀ c, t.trace.mode ≠ .capturing c

theorem MeasuringKept.of_eq {s t : State} (run : t.run = s.run := by simp) (resetLow : t.resetLow = s.resetLow := by simp)
    (stage : t.stage = s.stage := by simp) (period : t.period = s.period := by simp) (link : t.link = s.link := by simp)
    (heads : t.heads = s.heads := by simp) (channels : t.channels = s.channels := by simp)
    (calibrations : t.calibrations = s.calibrations := by simp) (adoption : t.adoption = s.adoption := by simp)
    (setting : t.clockSetting = s.clockSetting := by simp) (mode : t.trace.mode = s.trace.mode := by simp) :
    MeasuringKept s t where
  run := run
  resetLow := resetLow
  stage := stage
  period := period
  link := link
  heads h := by simp only [State.head, heads]
  channels := channels
  calibrations := calibrations
  adoption := adoption
  setting := setting
  idle hidle := by rwa [mode]

/-- A stop of the trace unit leaves no capture in progress (R151, R160). -/
theorem TraceStopped.measuringKept {s t : State} (h : TraceStopped s t) : MeasuringKept s t := by
  have idle := h.idle
  rw [h.frame]
  exact ⟨rfl, rfl, rfl, rfl, rfl, fun _ => rfl, rfl, rfl, rfl, rfl, fun _ => idle⟩

@[simp] theorem release_mode (s : State) (r : Release) : (s.release r).trace.mode = s.trace.mode := by
  cases r with
  | answer n => simp [State.release]
  | event n => simp [State.release]
  | record n => simp [State.release]
  | trace n =>
    unfold State.release State.releaseTrace
    dsimp only
    split <;> simp

@[simp] theorem releaseUnlessPeek_mode (s : State) (r : Option Release) :
    (s.releaseUnlessPeek r).trace.mode = s.trace.mode := by
  unfold State.releaseUnlessPeek
  split
  · rfl
  · split <;> simp

/-- A read hands back slots at most (R88, R89). -/
theorem wdatRead_mode (s : State) : s.wdatRead.trace.mode = s.trace.mode := by
  have readAt : ∀ a, (s.readAt a).trace.mode = s.trace.mode := fun a => by
    unfold State.readAt
    split
    · simp [State.readWord]
    · split
      · simp
      · simp [State.readOdd]
  unfold State.wdatRead
  split
  · simp
  · split
    · simp
    · simp [readAt]

/-! ## The parts -/

/-- One part of a step. Between two parts the conditions named hold; a part of a tick event whose turn it is not leaves the state as it
is. -/
inductive StepPart : State → State → Prop where
  | kept {s t : State} (h : MeasuringKept s t) : StepPart s t
  | pinReset (s : State) (wide : Bool) : StepPart s (s.pinReset wide)
  | restarted (s : State) : StepPart s s.restartPart
  | heldInReset {s : State} (hidle : s.stage = .idle) : StepPart s { s with resetLow := true }
  | rested {s : State} (hrun : s.run ≠ .measuring) (r : RunState) (hr : r ≠ .measuring) : StepPart s { s with run := r }
  | tickBegun (s : State) : StepPart s s.beginTick
  | headClosed (s : State) (h : Fin 12) : StepPart s (s.closeHead h)
  | tickClosed (s : State) : StepPart s s.closeTick
  | captureDone (s : State) : StepPart s s.captureStage
  | secondDone (s : State) : StepPart s s.secondStage
  | periodDone (s : State) : StepPart s s.periodStage
  | markDone (s : State) : StepPart s s.markStage
  | trimsDone (s : State) : StepPart s s.calibrationStage
  | trimDone {s : State} (hmarked : s.stage = .marked) (h : Fin 12) : StepPart s (s.completeCalibration h)
  | received (s : State) (chars : List PairChar) : StepPart s (s.receiveAll chars)
  | started {s : State} (hrun : s.run ≠ .measuring) : StepPart s (State.startHeads { s with run := .measuring })
  | ended {s y : State} (hmarked : s.stage ≠ .marked) (hy : TraceStopped s.abandonTick y) (r : RunState) :
    StepPart s { y.stopped with run := r }
  | waits {s : State} (hrun : s.run = .measuring) (adoption : Option (Fin 8)) (setting : Option ClockSetting) :
    StepPart s { s with adoption := adoption, clockSetting := setting }
  | calibrated {s : State} {h : Fin 12} (hactive : (s.head h).state = .active) (c : Calibration) : StepPart s (s.setCalibration h c)
  | trimLoaded (s : State) (h : Fin 12) (x : Int) : StepPart s (s.setTrim h x)
  | triggered {s : State} (hrun : s.run = .measuring) (x : Trigger) : StepPart s (s.trigger x)

/-- A step's parts, one after another. -/
abbrev StepParts : State → State → Prop := Relation.ReflTransGen StepPart

namespace StepParts

/-- An invariant that every part keeps is kept by them all. -/
theorem invariant {I : State → Prop} (hpart : ∀ {s t}, StepPart s t → I s → I t) {s t : State} (h : StepParts s t) (hs : I s) :
    I t := by
  induction h with
  | refl => exact hs
  | tail _ part ih => exact hpart part ih

theorem kept {s t : State} (h : MeasuringKept s t) : StepParts s t := .single (.kept h)

theorem answer (s : State) (n : Fin 8) (code : AnswerCode) (detail : Nat) (reply : List Word) :
    StepParts s (s.answer n code detail reply) := kept .of_eq

theorem endService (s : State) : StepParts s s.endService := kept .of_eq

theorem adopt (s : State) : StepParts s s.adopt := kept .of_eq

theorem disarm (s : State) : StepParts s s.disarm := kept (disarm_stops s).measuringKept

theorem writeClosedPages (s : State) (st : Stamp) : StepParts s (s.writeClosedPages st) := kept .of_eq

theorem wdatRead (s : State) : StepParts s s.wdatRead := kept (.of_eq (mode := wdatRead_mode s))

/-! ## The tick event -/

theorem finishClose (s : State) : StepParts s s.finishClose :=
  ((Relation.ReflTransGen.single (.tickClosed s)).tail (.captureDone _)).tail (.secondDone _)

theorem periodEnded (s : State) : StepParts s s.finishClose.periodStage := (finishClose s).tail (.periodDone _)

theorem marked (s : State) : StepParts s s.finishClose.periodStage.markStage := (periodEnded s).tail (.markDone _)

theorem finishTick (s : State) : StepParts s s.finishTick := (marked s).tail (.trimsDone _)

theorem finishBeforeMark (s : State) : StepParts s s.finishBeforeMark := (periodEnded s).tail (.trimsDone _)

theorem beginTick (s : State) : StepParts s s.beginTick := .single (.tickBegun s)

/-! ## The port -/

/-- A write of WCTL restarts the part or leaves the run as it is (R81, R96). -/
theorem writeWctl (s : State) (a0 : Bool) (data : Word) : StepParts s (s.writeWctl a0 data) := by
  have written : StepParts s (s.writeControl a0 data) := kept .of_eq
  unfold State.writeWctl
  dsimp only
  split
  · exact written.tail (.restarted _)
  · exact written

/-! ## Requests -/

theorem serve (s : State) (isKind : Word → Bool) {work : State → Fin 8 → State}
    (hwork : ∀ n, StepParts (s.take n) (work (s.take n) n)) : StepParts s (s.serve isKind work) := by
  unfold State.serve
  dsimp only
  split
  · exact .refl
  · next n _ _ =>
    have taken : StepParts s (s.take n) := kept .of_eq
    split
    · split
      · exact (taken.trans (answer _ n .cancelled 0 [])).trans (endService _)
      · exact (taken.trans (hwork n)).trans (endService _)
    · exact .refl

variable (s : State) (n : Fin 8)

theorem workStart : StepParts s (s.workStart n) := by
  unfold State.workStart
  dsimp only
  split
  · exact answer ..
  · next hrun =>
    have stopped : s.adopt.run ≠ .measuring := by simp [not_not.mp hrun]
    split
    · exact answer ..
    · exact ((adopt s).tail (.started stopped)).trans (answer ..)

theorem workUnpark : StepParts s (s.workUnpark n) := by
  unfold State.workUnpark
  split
  · next hrun => exact (Relation.ReflTransGen.single (.started (by simp [hrun]))).trans (answer ..)
  · exact answer ..

/-- Past an abandoned tick the trace unit stops and the run ends (R172, R173). -/
theorem stopMeasuring (hmarked : s.stage ≠ .marked) {trace : State → State} (htrace : TraceStopped s.abandonTick (trace s.abandonTick))
    (r : RunState) : StepParts s { s.stopMeasuring trace with run := r } := by
  rw [stopMeasuring_eq rfl]
  exact .single (.ended hmarked htrace r)

theorem workStop (hmarked : s.stage ≠ .marked) : StepParts s (s.workStop n) := by
  unfold State.workStop
  dsimp only
  split
  · exact (stopMeasuring s hmarked (disarm_stops _) .stopped).trans (answer ..)
  · next hrun => exact ((disarm s).tail (.rested (by simp [hrun]) .stopped (by simp))).trans (answer ..)
  · exact answer ..

theorem workPark (hmarked : s.stage ≠ .marked) : StepParts s (s.workPark n) := by
  unfold State.workPark
  dsimp only
  split
  · exact (stopMeasuring s hmarked (parkTrace_stops _) .parked).trans (answer ..)
  · exact answer ..

theorem workSetClock : StepParts s (s.workSetClock n) := by
  unfold State.workSetClock
  dsimp only
  split
  · exact answer ..
  · split
    · exact answer ..
    · split
      · next hrun =>
        split
        · exact answer ..
        · exact .single (.waits hrun s.adoption _)
      · have set : StepParts s { s with clock := Clock.setTo (s.requestWord n 2) (s.param n 3 + 65536 * s.param n 4) (s.param n 5) } :=
          kept .of_eq
        exact set.trans (answer ..)

theorem workAdopt : StepParts s (s.workAdopt n) := by
  unfold State.workAdopt
  split
  · exact answer ..
  · split
    · exact answer ..
    · split
      · next hrun => exact .single (.waits hrun (some n) s.clockSetting)
      · exact (adopt s).trans (answer ..)

theorem workCalibrate : StepParts s (s.workCalibrate n) := by
  unfold State.workCalibrate
  dsimp only
  split
  · exact answer ..
  · split
    · exact answer ..
    · split
      · exact answer ..
      · split
        · exact answer ..
        · next hactive => exact .single (.calibrated (not_not.mp hactive) _)

theorem workLoadTrim : StepParts s (s.workLoadTrim n) := by
  unfold State.workLoadTrim
  dsimp only
  split
  · exact answer ..
  · next h _ =>
    split
    · exact answer ..
    · split
      · exact answer ..
      · exact (Relation.ReflTransGen.single (.trimLoaded s h _)).trans (answer ..)

theorem recordOnRequest (kind : RecordKind) (body : List Word) (m : Fin 48) : StepParts s (s.recordOnRequest n kind body m) := by
  have posted : StepParts s (s.postRecord kind body m) := kept .of_eq
  exact posted.trans (answer ..)

theorem workSnapshot : StepParts s (s.workSnapshot n) := by
  unfold State.workSnapshot
  dsimp only
  split
  · exact answer ..
  · split
    · exact answer ..
    · split
      · exact answer ..
      · exact recordOnRequest ..

theorem workDump : StepParts s (s.workDump n) := by
  unfold State.workDump
  split
  · exact answer ..
  · split
    · exact answer ..
    · split
      · exact answer ..
      · split
        · exact answer ..
        · exact recordOnRequest ..

theorem workArm : StepParts s (s.workArm n) := by
  unfold State.workArm
  split
  · exact answer ..
  · split
    · exact answer ..
    · next x _ =>
      have armed : MeasuringKept s { s with trace := { s.trace with mode := .armed, settings := x } } :=
        ⟨rfl, rfl, rfl, rfl, rfl, fun _ => rfl, rfl, rfl, rfl, rfl, fun _ => nofun⟩
      exact (kept armed).trans (answer ..)

theorem workDisarm : StepParts s (s.workDisarm n) := by
  unfold State.workDisarm
  dsimp only
  split
  · exact (disarm s).trans (answer ..)
  · exact (disarm s).trans (answer ..)

/-- TRACE NOW gives a trigger in MEASURING only (R152). -/
theorem workTraceNow : StepParts s (s.workTraceNow n) := by
  unfold State.workTraceNow
  dsimp only
  split
  · exact answer ..
  · next hrun =>
    split
    · exact answer ..
    · split
      · exact answer ..
      · exact (Relation.ReflTransGen.single (.triggered (not_not.mp (not_or.mp hrun).1) _)).trans (answer ..)

theorem workZero : StepParts s (s.workZero n) := by
  unfold State.workZero
  dsimp only
  split
  · exact answer ..
  · have zeroed := zeroHeads_eq (s.param n 2) allHeads s
    have head := head_zeroHeads (s.param n 2) s
    have fold : allHeads.foldl (fun t h => if selects (s.param n 2) h then t.setHead h (t.head h).zeroed else t) s =
      allHeads.foldl (State.zeroHead (s.param n 2)) s := rfl
    rw [fold]
    generalize allHeads.foldl (State.zeroHead (s.param n 2)) s = t at zeroed head
    have same : MeasuringKept s t := by
      refine ⟨?_, ?_, ?_, ?_, ?_, fun h => ?_, ?_, ?_, ?_, ?_, fun hidle => ?_⟩
      case refine_6 =>
        rw [head]
        split <;> rfl
      case refine_11 =>
        rw [zeroed]
        exact hidle
      all_goals rw [zeroed]
    exact (kept same).trans (answer ..)

end StepParts

/-! ## Every command -/

/-- Every next state of this outcome is reached from s by parts of a step. -/
def LandsByParts (s : State) (o : Host.Outcome State Fault Refusal) : Prop := ∀ t, o = .next t → StepParts s t

theorem LandsByParts.next {s t : State} (ht : StepParts s t) : LandsByParts s (.next t) := by
  rintro _ ⟨⟩
  exact ht

theorem LandsByParts.ite {s : State} {p : Prop} [Decidable p] {o o' : Host.Outcome State Fault Refusal}
    (ho : p → LandsByParts s o) (ho' : LandsByParts s o') : LandsByParts s (if p then o else o') := by
  split
  · next hp => exact ho hp
  · exact ho'

section Serve

variable (s : State) (isKind : Word → Bool) {work : State → Fin 8 → State} (hwork : ∀ t n, StepParts t (work t n))
include hwork

theorem serve_landsByParts : LandsByParts s (.next (s.serve isKind work)) := .next (.serve s isKind fun n => hwork _ n)

theorem serveClosed_landsByParts : LandsByParts s (.next (s.finishClose.serve isKind work)) :=
  .next ((StepParts.finishClose s).trans (StepParts.serve _ isKind fun n => hwork _ n))

theorem serveFinished_landsByParts : LandsByParts s (.next (s.finishTick.serve isKind work)) :=
  .next ((StepParts.finishTick s).trans (StepParts.serve _ isKind fun n => hwork _ n))

end Serve

/-- STOP and PARK never stand between a mark and the calibrations that complete behind it (R178). -/
theorem serveBeforeMark_landsByParts (s : State) (isKind : Word → Bool) {work : State → Fin 8 → State}
    (hwork : ∀ t n, t.stage ≠ .marked → StepParts t (work t n)) : LandsByParts s (.next (s.finishBeforeMark.serve isKind work)) := by
  have unmarked : s.finishBeforeMark.stage ≠ .marked := by
    rw [finishBeforeMark_stage]
    split <;> simp
  exact .next ((StepParts.finishBeforeMark s).trans (StepParts.serve _ isKind fun n => hwork _ n (by simpa using unmarked)))

theorem exec_landsByParts (s : State) (c : Instr) : LandsByParts s (exec c s) := by
  have finished := StepParts.finishTick s
  have closed := StepParts.finishClose s
  have begun := StepParts.beginTick s
  cases c with
  | pinReset pin =>
    cases pin with
    | low => exact .next (finished.tail (.heldInReset (finishTick_stage s)))
    | high wide => exact .next (.single (.pinReset s wide))
  | endOfStarting =>
    refine .ite (fun hrun => .next ((finished.trans (StepParts.writeClosedPages _ _)).tail (.rested ?_ .stopped (by simp)))) (.next finished)
    have starting : s.run = .starting := by simpa using hrun.1
    simp [starting]
  | restart data => exact .ite (fun _ => .next finished) (.next (finished.trans (StepParts.writeWctl ..)))
  | registerWrite reg a0 data =>
    cases reg with
    | wadr => exact .ite (fun _ => .next finished) (.next (finished.trans (StepParts.kept .of_eq)))
    | wctl => exact .ite (fun _ => .next finished) (.next (finished.trans (StepParts.writeWctl ..)))
  | ntcWrite a0 data => exact .ite (fun _ => .next closed) (.next (closed.trans (StepParts.kept .of_eq)))
  | wdatRead => exact .next (closed.trans (StepParts.wdatRead _))
  | wdatWrite data => exact .next (closed.trans (StepParts.kept .of_eq))
  | tickEvent => exact .next (begun.trans (StepParts.finishTick _))
  | frame chars => exact .next (finished.tail (.received _ chars))
  | joinComplete h => exact .ite (fun _ => .next (begun.tail (.headClosed _ h))) (.next .refl)
  | headLost h => exact .ite (fun _ => .next (begun.tail (.headClosed _ h))) (.next .refl)
  | calibrationComplete h =>
    refine .ite (fun hdue => .next ((begun.trans (StepParts.marked _)).tail (.trimDone ?_ h))) (.next .refl)
    simpa using (Bool.and_eq_true_iff.mp hdue).1
  | captureComplete =>
    exact .ite (fun _ => .next ((begun.tail (.tickClosed _)).tail (.captureDone _))) (.next .refl)
  | secondClose => exact .ite (fun _ => .next (begun.trans (StepParts.finishClose _))) (.next .refl)
  | periodEnd => exact .ite (fun _ => .next (begun.trans (StepParts.periodEnded _))) (.next .refl)
  | start => exact serveFinished_landsByParts s _ StepParts.workStart
  | stop => exact serveBeforeMark_landsByParts s _ StepParts.workStop
  | park => exact serveBeforeMark_landsByParts s _ StepParts.workPark
  | unpark => exact serveFinished_landsByParts s _ StepParts.workUnpark
  | setClock => exact serveClosed_landsByParts s _ StepParts.workSetClock
  | adoptLimits => exact serveClosed_landsByParts s _ StepParts.workAdopt
  | calibrate => exact serveClosed_landsByParts s _ StepParts.workCalibrate
  | loadTrim => exact serveClosed_landsByParts s _ StepParts.workLoadTrim
  | snapshot => exact serve_landsByParts s _ StepParts.workSnapshot
  | dumpHistogram => exact serve_landsByParts s _ StepParts.workDump
  | armTrace => exact serveClosed_landsByParts s _ StepParts.workArm
  | disarmTrace => exact serveClosed_landsByParts s _ StepParts.workDisarm
  | traceNow => exact serveClosed_landsByParts s _ StepParts.workTraceNow
  | zeroHeadCounters => exact serveClosed_landsByParts s _ StepParts.workZero
  | unknownKindRequest => exact serveClosed_landsByParts s _ fun t n => StepParts.answer t n _ _ _

/-- A step is the front command on the state without it. -/
theorem step_parts {s t : State} (h : step s = .next t) : StepParts s t := by
  unfold step at h
  split at h
  · exact LandsByParts.next .refl t h
  · next c rest _ =>
    have dequeued : StepParts s { s with pending := rest } := .kept .of_eq
    exact dequeued.trans (exec_landsByParts _ c t h)

end Sys2Proof.Machine
end

section
/-! PROOFS. Every step keeps each channel's counts in agreement and a closed channel cleared (R53, R56, R58, R67): first what the
operations on one channel make of its counts, then each part of a step. -/

namespace Sys2Proof.Machine

open Sys2Proof

/-! ## One channel -/

/-- A channel whose counts are cleared agrees (R67). -/
theorem CountsAgree.of_cleared {ch : Channel} (hacc : ch.acc = PeriodAcc.cleared)
    (hsec : ch.isOpen = false → ch.sec = SecondAcc.cleared) : CountsAgree ch := by
  unfold CountsAgree
  rw [hacc]
  have empty : PeriodAcc.cleared.histogram.toList.sum = 0 := by
    simp only [PeriodAcc.cleared, Vector.toList_replicate, List.sum_replicate_nat, Nat.mul_zero]
  exact ⟨rfl, empty, ⟨fun _ => rfl, fun _ => rfl⟩, fun hclosed => ⟨rfl, hsec hclosed⟩⟩

theorem sum_set_succ {l : List Nat} {i : Nat} (hi : i < l.length) : (l.set i (l.getD i 0 + 1)).sum = l.sum + 1 := by
  induction l generalizing i with
  | nil => simp at hi
  | cons x xs ih =>
    cases i with
    | zero => simp; omega
    | succ i =>
      have tail := ih (Nat.lt_of_succ_lt_succ hi)
      simp only [List.getD_cons_succ, List.set_cons_succ, List.sum_cons, tail]
      omega

/-- One more count in a bin of a histogram is one more count in all (R56). -/
theorem sum_countBin (hist : Vector Nat 160) {b : Nat} (hb : b < 160) : (countBin hist b).toList.sum = hist.toList.sum + 1 := by
  simpa [countBin] using sum_set_succ (l := hist.toList) (by simpa using hb)

section Counts

variable {ch : Channel} (hch : CountsAgree ch)
include hch

section Open

variable (hopen : ch.isOpen = true)
include hopen

theorem CountsAgree.presentTick (f : Frame) (trim : Int) (offset : Nat) : CountsAgree (ch.presentTick f trim offset) := by
  obtain ⟨ticks, histogram, -, -⟩ := hch
  have bin := (histogramBin_holds (headLevel (weightStep fastWeight ch.fast f.aEnergy) trim)).1
  refine ⟨?_, ?_, ?_, fun hclosed => absurd (hopen.symm.trans hclosed) (by decide)⟩
  · simp only [Channel.presentTick, PeriodAcc.addPresent]
    omega
  · simp only [Channel.presentTick, PeriodAcc.addPresent]
    rw [sum_countBin _ (Nat.lt_succ_of_le bin), histogram]
  · simp [Channel.presentTick, PeriodAcc.addPresent, raiseTo_eq]

theorem CountsAgree.gapTick (o : Option Frame) (active : Bool) : CountsAgree (ch.gapTick o active) := by
  obtain ⟨ticks, histogram, absent, -⟩ := hch
  refine ⟨?_, histogram, absent, fun hclosed => absurd (hopen.symm.trans hclosed) (by decide)⟩
  simp only [Channel.gapTick]
  omega

theorem CountsAgree.calibrationTick (o : Option Frame) : CountsAgree (ch.calibrationTick o) := by
  obtain ⟨ticks, histogram, absent, -⟩ := hch
  refine ⟨?_, histogram, absent, fun hclosed => absurd (hopen.symm.trans hclosed) (by decide)⟩
  simp only [Channel.calibrationTick]
  omega

end Open

theorem CountsAgree.secondCleared : CountsAgree ch.secondCleared := by
  unfold Channel.secondCleared
  split
  · obtain ⟨ticks, histogram, absent, closed⟩ := hch
    exact ⟨ticks, histogram, absent, fun hclosed => ⟨(closed hclosed).1, rfl⟩⟩
  · exact hch

theorem CountsAgree.ended : CountsAgree ch.ended := by
  unfold Channel.ended
  split
  · exact .of_cleared rfl fun _ => rfl
  · exact hch

/-- A trim loaded or calibrated marks the period of an open channel only (R68). -/
theorem CountsAgree.trimmed {seen : Bool} (hseen : seen = true → ch.isOpen = true) : CountsAgree (ch.trimmed seen) := by
  unfold Channel.trimmed
  split
  · next hs =>
    obtain ⟨ticks, histogram, absent, -⟩ := hch
    exact ⟨ticks, histogram, absent, fun hclosed => absurd ((hseen hs).symm.trans hclosed) (by decide)⟩
  · exact hch

end Counts

/-! ## The channel at a second close and at a clock step -/

/-- What a second close and a clock step can make of the channel of a head in state x: the second accumulators cleared (R61), a period
begun (R44, R53), a period ended and the next one begun (R47, R62). -/
inductive ChannelTurn (x : HeadState) (ch : Channel) : Channel → Prop where
  | kept : ChannelTurn x ch ch
  | second {c : Channel} (hc : ChannelTurn x ch c) : ChannelTurn x ch c.secondCleared
  | begun {c : Channel} (hc : ChannelTurn x ch c) :
    ChannelTurn x ch (if x = .off then { c with cutNote := false } else { c.opened false false with cutNote := false })
  | renewed {c : Channel} (hc : ChannelTurn x ch c) :
    ChannelTurn x ch (if x = .off then { c.ended with cutNote := false } else { c.ended.opened false false with cutNote := false })

theorem ChannelTurn.countsAgree {x : HeadState} {ch ch' : Channel} (h : ChannelTurn x ch ch') (hch : CountsAgree ch) :
    CountsAgree ch' := by
  induction h with
  | kept => exact hch
  | second _ ih => exact ih.secondCleared
  | begun _ ih =>
    split
    · exact ih
    · exact .of_cleared rfl fun _ => rfl
  | renewed _ ih =>
    split
    · exact ih.ended
    · exact .of_cleared rfl fun _ => rfl

/-- A channel open exactly while its head is not OFF stays so (R53). -/
theorem ChannelTurn.isOpen {x : HeadState} {ch ch' : Channel} (h : ChannelTurn x ch ch') (hch : ch.isOpen = true ↔ x ≠ .off) :
    ch'.isOpen = true ↔ x ≠ .off := by
  induction h with
  | kept => exact hch
  | second _ ih =>
    rw [← ih, Channel.secondCleared]
    split <;> rfl
  | begun _ ih =>
    split
    · exact ih
    · next hon => exact ⟨fun _ => hon, fun _ => rfl⟩
  | @renewed c _ ih =>
    split
    · next hoff =>
      have closed : ¬c.isOpen = true := by simpa [hoff] using ih
      rw [← ih, Channel.ended, if_neg closed]
    · next hon => exact ⟨fun _ => hon, fun _ => rfl⟩

theorem ChannelTurn.atStage {x : HeadState} {ch : Channel} {t : State} {h : Fin 12} (ht : ChannelTurn x ch (t.channel h))
    (y : TickStage) : ChannelTurn x ch ((t.atStage y).channel h) := ht

variable (s : State)

theorem secondStage_turns (h : Fin 12) : ChannelTurn (s.head h).state (s.channel h) (s.secondStage.channel h) := by
  have second := (closeSecond_closes s).channel h
  have head : s.closeSecond.head h = s.head h := by simp [State.head]
  unfold State.secondStage
  split
  · split
    · dsimp only
      split
      · next x _ =>
        have replaced := (replaceStep_replaces s.closeSecond x).channel h
        rw [head, second] at replaced
        have turned := ChannelTurn.renewed (.second (.kept (x := (s.head h).state) (ch := s.channel h)))
        rw [← replaced] at turned
        exact turned.atStage (.secondClosed true)
      · have turned := ChannelTurn.second (.kept (x := (s.head h).state) (ch := s.channel h))
        rw [← second] at turned
        exact turned.atStage (.secondClosed false)
    · exact .kept
  · exact .kept

variable {s} in
/-- A run's first clock step begins its first period (R44). -/
theorem periodStage_of_first (hstage : s.stage = .secondClosed false) (hopen : s.link.tickOpen = none) :
    s.periodStage = s.firstStepped := by
  have first : s.firstSecond = { s with clock := s.clock.step } := by rw [State.firstSecond, ← hstage]
  simp only [State.periodStage, hstage, hopen, Option.isNone_none, if_true, State.firstStepped, first, State.atStage]

theorem periodStage_turns (h : Fin 12) : ChannelTurn (s.head h).state (s.channel h) (s.periodStage.channel h) := by
  by_cases hstage : s.stage = .secondClosed false
  · cases hopen : s.link.tickOpen with
    | none =>
      rw [periodStage_of_first hstage hopen, firstStepped_channel]
      exact .begun .kept
    | some =>
      have opened : s.link.tickOpen.isSome := by simp [hopen]
      cases hdue : s.alignedDue with
      | false =>
        rw [periodStage_of_undue hstage opened hdue]
        exact .kept
      | true =>
        rw [periodStage_of_due hstage opened hdue]
        have renewed := ChannelTurn.renewed (.kept (x := (s.head h).state) (ch := s.channel h))
        rw [← periodRenewed_channel] at renewed
        exact renewed.atStage .stepped
  · unfold State.periodStage
    split
    · exact .kept
    · next hs => exact absurd hs hstage
    · exact .kept

/-! ## The tick close -/

theorem headStep_countsAgree {h : Fin 12} (o : Option Frame) (hs : CountsAgree (s.channel h)) :
    CountsAgree ((s.headStep h o).channel h) := by
  have step := headStep_cases s h o
  generalize s.headStep h o = t at step
  cases step with
  | lost =>
    rw [loseHead_channel]
    exact hs
  | joined f =>
    rw [(joinComplete_own s h f).2.2]
    exact hs
  | moved x => exact hs

theorem channelTick_countsAgree {h : Fin 12} (o : Option Frame) (hs : CountsAgree (s.channel h)) :
    CountsAgree ((s.channelTick h o).channel h) := by
  unfold State.channelTick
  dsimp only
  split
  · next hopen =>
    split
    · rw [channel_setChannel_same]
      exact hs.presentTick hopen ..
    · next f _ =>
      have fed : ((s.setChannel h ((s.channel h).calibrationTick (some f))).feedCalibration h f).channel h =
        (s.setChannel h ((s.channel h).calibrationTick (some f))).channel h := by simp [State.channel]
      rw [fed, channel_setChannel_same]
      exact hs.calibrationTick hopen _
    · rw [channel_setChannel_same]
      exact hs.gapTick hopen ..
  · exact hs

section Agree

variable {s} (hs : ChannelsAgree s)
include hs

theorem ChannelsAgree.of_channels {t : State} (ht : t.channels = s.channels := by simp) : ChannelsAgree t := fun h => by
  simpa only [State.channel, ht] using hs h

theorem ChannelsAgree.atStage (x : TickStage) : ChannelsAgree (s.atStage x) := hs

theorem ChannelsAgree.setRun (r : RunState) : ChannelsAgree { s with run := r } := hs

theorem ChannelsAgree.settleHead (g : Fin 12) : ChannelsAgree (s.settleHead g) := by
  intro h
  by_cases hgh : g = h
  · subst hgh
    exact channelTick_countsAgree _ _ (headStep_countsAgree s _ (hs g))
  · rw [(settleHead_keeps_other s hgh).channel]
    exact hs h

theorem ChannelsAgree.settleHeads (l : List (Fin 12)) : ChannelsAgree (l.foldl State.settleHead s) :=
  List.foldlRecOn l State.settleHead hs fun _ ht g _ => ht.settleHead g

theorem ChannelsAgree.closeTick : ChannelsAgree s.closeTick := by
  unfold State.closeTick
  split
  · next todo _ =>
    have settled := hs.settleHeads todo
    exact settled.of_channels
  · exact hs

theorem ChannelsAgree.closeHead (h : Fin 12) : ChannelsAgree (s.closeHead h) := by
  unfold State.closeHead
  split
  · exact hs.settleHead h
  · exact hs

/-! ## The mark, trims, and the ends of a run -/

theorem ChannelsAgree.markStage : ChannelsAgree s.markStage := by
  intro h
  by_cases hstage : s.stage = .stepped
  · rw [markStage_of_stepped hstage]
    have marked := (headsMarked_own s h).2.1
    have agree : CountsAgree (markedChannel s h) := by
      unfold markedChannel
      dsimp only
      split
      · split
        · exact .of_cleared rfl fun _ => rfl
        · split
          · exact hs h
          · exact hs h
      · split
        · exact .of_cleared rfl fun _ => rfl
        · exact hs h
    rwa [← marked] at agree
  · rw [State.markStage]
    split
    · next hs => exact absurd hs hstage
    · exact hs h

theorem ChannelsAgree.completeCalibration (g : Fin 12) : ChannelsAgree (s.completeCalibration g) := by
  intro h
  by_cases hgh : g = h
  · subst hgh
    rw [(completeCalibration_own s g).2.1]
    exact (hs g).trimmed fun hseen => by simp only [Bool.and_eq_true] at hseen; exact hseen.1.2
  · rw [(completeCalibration_keeps_other s h hgh).channel]
    exact hs h

theorem ChannelsAgree.calibrationStage : ChannelsAgree s.calibrationStage := by
  by_cases hmarked : s.stage = .marked
  · rw [calibrationStage_of_marked hmarked, trimsSet_eq]
    have completed : ChannelsAgree (allHeads.foldl State.completeCalibration s) :=
      List.foldlRecOn allHeads State.completeCalibration hs fun _ ht g _ => ht.completeCalibration g
    exact completed.atStage .idle
  · rwa [calibrationStage_of_unmarked hmarked]

theorem ChannelsAgree.setTrim (g : Fin 12) (x : Int) : ChannelsAgree (s.setTrim g x) := by
  intro h
  by_cases hgh : g = h
  · subst hgh
    rw [setTrim_channel]
    exact (hs g).trimmed fun hseen => (Bool.and_eq_true_iff.mp hseen).1
  · rw [(setTrim_keeps_other s hgh x).channel]
    exact hs h

theorem ChannelsAgree.startHeads {t : State} (hheads : t.heads = s.heads) (hchannels : t.channels = s.channels)
    (hstore : t.store = s.store) : ChannelsAgree t.startHeads := by
  intro h
  obtain ⟨enabled, disabled⟩ := startHeads_own hheads hchannels hstore h
  cases he : s.enabled h with
  | true =>
    rw [(enabled he).2]
    exact .of_cleared rfl fun hclosed => absurd hclosed (by simp [Channel.opened])
  | false =>
    rw [(disabled he).2]
    exact hs h

theorem ChannelsAgree.stopped : ChannelsAgree s.stopped := by
  intro h
  by_cases hoff : (s.head h).state = .off
  · rw [(stopped_of_off s hoff).2, State.cutChannel]
    split
    · exact (hs h).ended
    · exact hs h
  · rw [(stopped_of_on s hoff).2.1]
    exact .of_cleared rfl fun _ => rfl

end Agree

theorem StepPart.channelsAgree {s t : State} (part : StepPart s t) (hs : ChannelsAgree s) : ChannelsAgree t := by
  cases part with
  | kept h => exact hs.of_channels h.channels
  | pinReset => exact channelsAgree_reset
  | restarted => exact channelsAgree_reset
  | heldInReset => exact hs
  | rested => exact hs
  | tickBegun => exact hs.of_channels
  | headClosed h => exact hs.closeHead h
  | tickClosed => exact hs.closeTick
  | captureDone => exact hs.of_channels
  | secondDone => exact fun h => (secondStage_turns s h).countsAgree (hs h)
  | periodDone => exact fun h => (periodStage_turns s h).countsAgree (hs h)
  | markDone => exact hs.markStage
  | trimsDone => exact hs.calibrationStage
  | trimDone _ h => exact hs.completeCalibration h
  | received => exact hs.of_channels
  | started => exact hs.startHeads rfl rfl rfl
  | @ended y _ hy r =>
    have halted : ChannelsAgree y := hs.of_channels (hy.measuringKept.channels.trans (by simp))
    exact halted.stopped.setRun r
  | waits => exact hs
  | calibrated => exact hs
  | trimLoaded h x => exact hs.setTrim h x
  | triggered => exact hs.of_channels

/-- Settles O59: each part of a step keeps the counts of every channel in agreement. -/
theorem stepKeepsChannelCountsInAgreement : Obligations.StepKeepsChannelCountsInAgreement :=
  fun _ _ hs hstep => (step_parts hstep).invariant StepPart.channelsAgree hs

end Sys2Proof.Machine
end

section
/-! PROOFS. Every step keeps the part at rest outside MEASURING, and channels and calibrations with their heads (R53, R73, R174): first
one head, its channel and its calibration, then each part of a step. -/

namespace Sys2Proof.Machine

open Sys2Proof

/-! ## One head, its channel and its calibration -/

/-- Head h's channel is open exactly while it is not OFF (R53), and its calibration needs it ACTIVE (R73), or is due and `late`. -/
structure HeadAgrees (late : Prop) (s : State) (h : Fin 12) : Prop where
  opens : (s.channel h).isOpen = true ↔ (s.head h).state ≠ .off
  calibrated : (s.calibration h).isSome → (s.head h).state = .active ∨ (late ∧ s.calibrationDue h = true)

section HeadAgrees

variable {late : Prop} {s t : State} {h : Fin 12}

theorem HeadAgrees.of_views (hs : HeadAgrees late s h) (hstate : (t.head h).state = (s.head h).state)
    (hopen : (t.channel h).isOpen = (s.channel h).isOpen) (hcalibration : t.calibration h = s.calibration h) :
    HeadAgrees late t h where
  opens := by
    rw [hstate, hopen]
    exact hs.opens
  calibrated := by
    have due : t.calibrationDue h = s.calibrationDue h := by unfold State.calibrationDue; rw [hcalibration]
    rw [hstate, hcalibration, due]
    exact hs.calibrated

theorem HeadAgrees.of_own (hs : HeadAgrees late s h) (hst : OwnKept s t h) : HeadAgrees late t h :=
  hs.of_views (by rw [hst.head]) (by rw [hst.channel]) hst.calibration

theorem HeadAgrees.atStage (hs : HeadAgrees late s h) (x : TickStage) : HeadAgrees late (s.atStage x) h :=
  ⟨hs.opens, hs.calibrated⟩

/-- Without a calibration, or with one on an ACTIVE head, none is late. -/
theorem HeadAgrees.of_prompt (hs : HeadAgrees False s h) : HeadAgrees late s h where
  opens := hs.opens
  calibrated hc := .inl ((hs.calibrated hc).resolve_right And.left)

theorem HeadAgrees.prompt (hs : HeadAgrees late s h) (hlate : ¬late) : HeadAgrees False s h where
  opens := hs.opens
  calibrated hc := .inl ((hs.calibrated hc).resolve_right fun due => hlate due.1)

theorem HeadAgrees.active (hs : HeadAgrees False s h) (hc : (s.calibration h).isSome) : (s.head h).state = .active :=
  (hs.calibrated hc).resolve_right And.left

/-- A step that leaves the head OFF or not, and whose calibration is one from before, on a head still ACTIVE. -/
theorem HeadAgrees.step (hs : HeadAgrees False s h) (hopen : (t.channel h).isOpen = (s.channel h).isOpen)
    (hoff : (t.head h).state = .off ↔ (s.head h).state = .off) (hfrom : CalibrationFrom s t h)
    (hactive : (s.head h).state = .active → (t.head h).state = .active ∨ t.calibration h = none) : HeadAgrees False t h where
  opens := by rw [hopen, hs.opens, ne_eq, ne_eq, hoff]
  calibrated hc := by
    obtain ⟨c, hc⟩ := Option.isSome_iff_exists.mp hc
    obtain ⟨d, hd, -⟩ := hfrom c hc
    rcases hactive (hs.active (by rw [hd]; rfl)) with active | none
    · exact .inl active
    · rw [none] at hc
      cases hc

end HeadAgrees

/-! ## The tick close -/

section Settle

variable (s : State)

/-- No head goes OFF or leaves OFF at a tick close (R30 to R32). -/
theorem headStep_off_iff (h : Fin 12) (o : Option Frame) : ((s.headStep h o).head h).state = .off ↔ (s.head h).state = .off := by
  unfold State.headStep
  dsimp only
  split
  · exact Iff.rfl
  · next hj => simp [hj]
  · next f hj =>
    split
    · rw [(joinComplete_own s h f).1, hj]
      decide
    · simp [hj]
  · next ha =>
    split
    · simp [loseHead_head, ha]
    · simp [ha]
  · next ha => simp [ha]
  · exact Iff.rfl
  · next hl => simp [hl]

theorem headStep_isOpen (h : Fin 12) (o : Option Frame) : ((s.headStep h o).channel h).isOpen = (s.channel h).isOpen := by
  have step := headStep_cases s h o
  generalize s.headStep h o = t at step
  cases step with
  | lost => rw [loseHead_channel]; rfl
  | joined f => rw [(joinComplete_own s h f).2.2]; rfl
  | moved => rfl

theorem channelTick_isOpen (h : Fin 12) (o : Option Frame) : ((s.channelTick h o).channel h).isOpen = (s.channel h).isOpen := by
  unfold State.channelTick
  dsimp only
  split
  · split
    · rw [channel_setChannel_same]; rfl
    · next f _ =>
      have fed : ((s.setChannel h ((s.channel h).calibrationTick (some f))).feedCalibration h f).channel h =
        (s.setChannel h ((s.channel h).calibrationTick (some f))).channel h := by simp [State.channel]
      rw [fed, channel_setChannel_same]; rfl
    · rw [channel_setChannel_same]; rfl
  · rfl

/-- A head that leaves ACTIVE at a tick close has no calibration past it (R31, R73). -/
theorem headStep_active {h : Fin 12} (o : Option Frame) (hactive : (s.head h).state = .active) :
    ((s.headStep h o).head h).state = .active ∨ (s.headStep h o).calibration h = none := by
  have step := headStep_cases s h o
  generalize s.headStep h o = t at step
  cases step with
  | lost => exact .inr (calibration_loseHead s h)
  | joined f => exact .inl (joinComplete_own s h f).1
  | moved x _ hstate => exact .inl (by rw [head_setHead_same]; exact hstate.mpr hactive)

variable {s}

theorem HeadAgrees.settleHead {h : Fin 12} (hs : HeadAgrees False s h) (g : Fin 12) : HeadAgrees False (s.settleHead g) h := by
  by_cases hgh : g = h
  · subst hgh
    have head := settleHead_head s g
    have ticked := channelTick_from (s.headStep g (s.buffer g)) g (s.buffer g)
    refine hs.step ?_ ?_ (settleHead_from s g g) fun hactive => ?_
    · exact (channelTick_isOpen (s.headStep g (s.buffer g)) g (s.buffer g)).trans (headStep_isOpen s g _)
    · rw [head]
      exact headStep_off_iff s g _
    · rw [head]
      refine (headStep_active s (s.buffer g) hactive).imp_right fun none => ?_
      rw [← Option.not_isSome_iff_eq_none]
      intro hc
      obtain ⟨c, hc⟩ := Option.isSome_iff_exists.mp hc
      obtain ⟨d, hd, -⟩ := ticked c hc
      rw [none] at hd
      cases hd
  · exact hs.of_own (settleHead_keeps_other s hgh)

theorem HeadAgrees.settleHeads {h : Fin 12} (hs : HeadAgrees False s h) (l : List (Fin 12)) :
    HeadAgrees False (l.foldl State.settleHead s) h :=
  List.foldlRecOn (motive := fun t => HeadAgrees False t h) l State.settleHead hs fun _ ht g _ => ht.settleHead g

/-! ## The pair -/

theorem endFrame_head_state (h : Fin 12) (chars : List Byte) (lacksStop : Bool) (g : Fin 12) :
    ((s.endFrame h chars lacksStop).head g).state = (s.head g).state := by
  have counted := discardFrame_head_state s h g (classify s.link.tickOpen (s.buffer h).isSome lacksStop chars)
  unfold State.endFrame
  dsimp only
  split
  · exact counted
  · exact counted

theorem endCollection_head_state (g : Fin 12) : (s.endCollection.head g).state = (s.head g).state := by
  unfold State.endCollection
  split
  · rfl
  · exact endFrame_head_state ..

theorem receive_head_state (s : State) (c : LinkChar) (g : Fin 12) : ((s.receive c).head g).state = (s.head g).state := by
  unfold State.receive
  dsimp only
  split
  · exact endCollection_head_state g
  · split
    · rfl
    · split
      · exact endFrame_head_state ..
      · rfl

theorem receiveAll_head_state (chars : List PairChar) (g : Fin 12) : ((s.receiveAll chars).head g).state = (s.head g).state := by
  unfold State.receiveAll
  split
  · exact foldl_keep (fun t : State => (t.head g).state) _ (fun t c => receive_head_state t c g) _ s
  · rfl

/-- Outside MEASURING nothing is received (R18). -/
theorem receiveAll_of_not_measuring (hrun : s.run ≠ .measuring) (chars : List PairChar) : s.receiveAll chars = s := by
  rw [State.receiveAll, if_neg]
  simp [State.receiverOn, hrun]

end Settle

/-! ## The mark and the trims -/

section Mark

variable {s : State} {h : Fin 12}

theorem marked_head (s : State) (h : Fin 12) : s.marked.head h = markedHead s h := (head_sendMark ..).trans (headsMarked_own s h).1

theorem marked_channel (s : State) (h : Fin 12) : s.marked.channel h = markedChannel s h :=
  (channel_sendMark ..).trans (headsMarked_own s h).2.1

/-- The channel opens and closes with its head (R29, R53). -/
theorem markedChannel_isOpen_iff (hs : (s.channel h).isOpen = true ↔ (s.head h).state ≠ .off) :
    (markedChannel s h).isOpen = true ↔ (markedHead s h).state ≠ .off := by
  unfold markedChannel markedHead
  dsimp only
  split
  · split
    · simp
    · next hclosed =>
      split
      · simp [hclosed]
      · simp [hclosed]
  · split
    · simp
    · exact hs

/-- The mark ends the calibration of a head that it disables, but for one that is due (R34, R73; log entry 7). -/
theorem HeadAgrees.marked (hs : HeadAgrees False s h) : HeadAgrees True s.marked h where
  opens := by
    rw [marked_channel, marked_head]
    exact markedChannel_isOpen_iff hs.opens
  calibrated hc := by
    rw [marked_calibration] at hc
    cases haborts : s.abortsAtMark h with
    | true =>
      rw [haborts] at hc
      cases hc
    | false =>
      rw [haborts] at hc
      have active := hs.active hc
      rw [marked_head, marked_due]
      by_cases hdisabled : DisabledAtMark s h
      · refine .inr ⟨trivial, Bool.not_eq_false _ ▸ fun hdue => ?_⟩
        rw [abortsAtMark_iff.mpr ⟨⟨hdisabled, active⟩, hdue⟩] at haborts
        cases haborts
      · have notEnabled : ¬EnabledAtMark s h := fun henabled => by
          have off := henabled.1
          rw [active] at off
          cases off
        rw [markedHead, if_neg hdisabled, if_neg notEnabled]
        exact .inl active

variable {late : Prop}

theorem trimmed_isOpen (ch : Channel) (seen : Bool) : (ch.trimmed seen).isOpen = ch.isOpen := by
  unfold Channel.trimmed
  split <;> rfl

/-- A calibration that is due completes and ends; one that is not needs its head ACTIVE (R72, R73). -/
theorem HeadAgrees.completeOwn (hs : HeadAgrees late s h) : HeadAgrees False (s.completeCalibration h) h := by
  obtain ⟨head, channel, calibration⟩ := completeCalibration_own s h
  refine ⟨?_, fun hc => .inl ?_⟩
  · rw [channel, head, trimmed_isOpen]
    exact hs.opens
  · rw [calibration] at hc
    rw [head]
    cases hdue : s.calibrationDue h with
    | true =>
      rw [hdue] at hc
      cases hc
    | false =>
      rw [hdue] at hc
      exact (hs.calibrated hc).resolve_right fun due => by simp [hdue] at due

theorem HeadAgrees.completeCalibration (hs : HeadAgrees late s h) (g : Fin 12) : HeadAgrees late (s.completeCalibration g) h := by
  by_cases hgh : g = h
  · subst hgh
    exact hs.completeOwn.of_prompt
  · exact hs.of_own (completeCalibration_keeps_other s h hgh)

theorem HeadAgrees.trimsSet (hs : HeadAgrees late s h) : HeadAgrees False s.trimsSet h := by
  obtain ⟨u, hu, ht⟩ := trimsSet_split s h
  exact ((hs.of_own hu.mark.own).completeOwn).of_own ht.mark.own

theorem HeadAgrees.setTrim (hs : HeadAgrees late s h) (g : Fin 12) (x : Int) : HeadAgrees late (s.setTrim g x) h := by
  by_cases hgh : g = h
  · subst hgh
    refine hs.of_views ?_ ?_ (calibration_congr (by simp) g)
    · rw [setTrim_head]
    · rw [setTrim_channel, trimmed_isOpen]
  · exact hs.of_own (setTrim_keeps_other s hgh x)

end Mark

/-! ## The invariant -/

theorem measuresOnlyMeasuring_iff {s : State} : MeasuresOnlyMeasuring s ↔ (s.run ≠ .measuring → AtRest s) ∧
    (∀ h, HeadAgrees (s.stage = .marked) s h) ∧ (s.stage ≠ .idle → s.run = .measuring ∧ s.resetLow = false) :=
  ⟨fun ⟨rest, opens, calibrated, stage⟩ => ⟨rest, fun h => ⟨opens h, calibrated h⟩, stage⟩,
    fun ⟨rest, heads, stage⟩ => ⟨rest, fun h => (heads h).opens, fun h => (heads h).calibrated, stage⟩⟩

/-- What stands in MEASURING with RESET# high is never at rest and may be in a tick event. -/
theorem MeasuresOnlyMeasuring.of_running {t : State} (hrun : t.run = .measuring) (hlow : t.resetLow = false)
    (heads : ∀ h, HeadAgrees (t.stage = .marked) t h) : MeasuresOnlyMeasuring t :=
  measuresOnlyMeasuring_iff.mpr ⟨fun hnot => absurd hrun hnot, heads, fun _ => ⟨hrun, hlow⟩⟩

/-- What is at rest with every channel closed and no tick event in progress is in order in every run state. -/
theorem AtRest.measuresOnlyMeasuring {t : State} (rest : AtRest t) (closed : ∀ h, (t.channel h).isOpen = false)
    (hidle : t.stage = .idle) (r : RunState) : MeasuresOnlyMeasuring { t with run := r } := by
  obtain ⟨-, -, -, -, -, off, calibrations, -⟩ := id rest
  refine measuresOnlyMeasuring_iff.mpr ⟨fun _ => rest, fun h => ?_, fun hnot => absurd hidle hnot⟩
  have agrees : HeadAgrees (t.stage = .marked) t h :=
    ⟨by simp [off h, closed h], fun hc => absurd hc (by simp [calibrations h])⟩
  exact agrees.of_views rfl rfl rfl

section Invariant

variable {s t : State} (hs : MeasuresOnlyMeasuring s)
include hs

theorem MeasuresOnlyMeasuring.rest (hrun : s.run ≠ .measuring) : AtRest s := hs.1 hrun

theorem MeasuresOnlyMeasuring.heads (h : Fin 12) : HeadAgrees (s.stage = .marked) s h := (measuresOnlyMeasuring_iff.mp hs).2.1 h

theorem MeasuresOnlyMeasuring.prompt (hstage : s.stage ≠ .marked) (h : Fin 12) : HeadAgrees False s h := (hs.heads h).prompt hstage

theorem MeasuresOnlyMeasuring.running (hstage : s.stage ≠ .idle) : s.run = .measuring ∧ s.resetLow = false :=
  (measuresOnlyMeasuring_iff.mp hs).2.2 hstage

theorem MeasuresOnlyMeasuring.idle (hrun : s.run ≠ .measuring) : s.stage = .idle :=
  not_not.mp fun hstage => hrun (hs.running hstage).1

/-- A part of a tick event in progress that keeps run state and RESET# need only keep the heads. -/
theorem MeasuresOnlyMeasuring.inTick (hstage : s.stage ≠ .idle) (hrun : t.run = s.run) (hlow : t.resetLow = s.resetLow)
    (heads : ∀ h, HeadAgrees (t.stage = .marked) t h) : MeasuresOnlyMeasuring t :=
  .of_running (hrun.trans (hs.running hstage).1) (hlow.trans (hs.running hstage).2) heads

theorem MeasuresOnlyMeasuring.kept (ht : MeasuringKept s t) : MeasuresOnlyMeasuring t := by
  refine measuresOnlyMeasuring_iff.mpr ⟨fun hrun => ?_, fun h => ?_, fun hstage => ?_⟩
  · obtain ⟨period, tick, receiver, note, buffers, off, calibrations, adoption, setting, idle⟩ := hs.rest (ht.run ▸ hrun)
    have buffer : ∀ h, t.buffer h = s.buffer h := fun h => by simp only [State.buffer, ht.link]
    refine ⟨by rw [ht.period, period], by rw [ht.link, tick], by rw [ht.link, receiver], by rw [ht.link, note],
      fun h => (buffer h).trans (buffers h), fun h => (ht.heads h).trans (off h),
      fun h => (calibration_congr ht.calibrations h).trans (calibrations h), ht.adoption.trans adoption, ht.setting.trans setting,
      ht.idle idle⟩
  · rw [ht.stage]
    exact (hs.heads h).of_views (ht.heads h) (by simp only [State.channel, ht.channels]) (calibration_congr ht.calibrations h)
  · rw [ht.run, ht.resetLow]
    exact hs.running (ht.stage ▸ hstage)

/-! ## The parts of the tick event -/

theorem MeasuresOnlyMeasuring.beginTick : MeasuresOnlyMeasuring s.beginTick := by
  unfold State.beginTick
  split
  · next hidle =>
    have heads := hs.prompt (by rw [hidle]; simp)
    split
    · next hruns =>
      have low : s.resetLow = false := by simpa using (Bool.and_eq_true_iff.mp hruns).1
      split
      · next hrun =>
        split
        · refine .of_running (by simpa using hrun) (by simpa using low) fun h => HeadAgrees.of_prompt ?_
          exact (heads h).of_views (endCollection_head_state h) (by simp [State.channel])
            (calibration_congr (by simp) h)
        · refine .of_running hrun low fun h => HeadAgrees.of_prompt ?_
          exact (heads h).of_views rfl rfl rfl
      · exact hs.kept .of_eq
    · exact hs
  · exact hs

theorem MeasuresOnlyMeasuring.closeHead (g : Fin 12) : MeasuresOnlyMeasuring (s.closeHead g) := by
  unfold State.closeHead
  split
  · next todo hstage =>
    have heads := fun h => (hs.prompt (by rw [hstage]; simp) h).settleHead g
    refine hs.inTick (by rw [hstage]; simp) (by simp) (by simp) fun h => HeadAgrees.of_prompt ?_
    exact (heads h).atStage (.closing (todo.erase g))
  · exact hs

theorem MeasuresOnlyMeasuring.closeTick : MeasuresOnlyMeasuring s.closeTick := by
  have run : s.closeTick.run = s.run := by simp
  have low : s.closeTick.resetLow = s.resetLow := by simp
  by_cases hstage : ∃ todo, s.stage = .closing todo
  · obtain ⟨todo, hstage⟩ := hstage
    have heads := fun h => (hs.prompt (by rw [hstage]; simp) h).settleHeads todo
    refine hs.inTick (by rw [hstage]; simp) run low fun h => HeadAgrees.of_prompt ?_
    rw [closeTick_of_closing hstage]
    generalize todo.foldl State.settleHead s = u at heads
    exact (heads h).of_views (by simp [State.head]) (by simp [State.channel]) (calibration_congr (by simp) h)
  · rw [closeTick_of_closed fun todo ht => hstage ⟨todo, ht⟩]
    exact hs

theorem MeasuresOnlyMeasuring.captureStage : MeasuresOnlyMeasuring s.captureStage := by
  by_cases hstage : s.stage = .closed
  · have heads := hs.prompt (by rw [hstage]; simp)
    exact hs.inTick (by rw [hstage]; simp) (by simp) (by simp) fun h =>
      ((heads h).of_views (by simp [State.head]) (by simp [State.channel]) (calibration_congr (by simp) h)).of_prompt
  · rw [captureStage_of_captured hstage]
    exact hs

theorem MeasuresOnlyMeasuring.secondStage : MeasuresOnlyMeasuring s.secondStage := by
  rcases secondStage_stage s with ⟨hstage, -⟩ | ⟨-, same⟩
  · have heads := hs.prompt (by rw [hstage]; simp)
    refine hs.inTick (by rw [hstage]; simp) (by simp) (by simp) fun h => HeadAgrees.of_prompt ?_
    have head : s.secondStage.head h = s.head h := by simp [State.head]
    refine (heads h).of_views (by rw [head]) ?_ (calibration_congr (by simp) h)
    rw [Bool.eq_iff_iff, (heads h).opens]
    exact (secondStage_turns s h).isOpen (heads h).opens
  · rwa [same]

theorem MeasuresOnlyMeasuring.periodStage : MeasuresOnlyMeasuring s.periodStage := by
  by_cases hstage : ∃ b, s.stage = .secondClosed b
  · obtain ⟨b, hstage⟩ := hstage
    have heads := hs.prompt (by rw [hstage]; simp)
    refine hs.inTick (by rw [hstage]; simp) (by simp) (by simp) fun h => HeadAgrees.of_prompt ?_
    have head : s.periodStage.head h = s.head h := by simp [State.head]
    refine (heads h).of_views (by rw [head]) ?_ (calibration_congr (by simp) h)
    rw [Bool.eq_iff_iff, (heads h).opens]
    exact (periodStage_turns s h).isOpen (heads h).opens
  · rw [periodStage_of_stepped fun b hb => hstage ⟨b, hb⟩]
    exact hs

omit hs in
theorem markStage_of_unstepped (hstage : s.stage ≠ .stepped) : s.markStage = s := by
  unfold State.markStage
  split
  · next hs => exact absurd hs hstage
  · rfl

theorem MeasuresOnlyMeasuring.markStage : MeasuresOnlyMeasuring s.markStage := by
  by_cases hstage : s.stage = .stepped
  · have heads := hs.prompt (by rw [hstage]; simp)
    refine hs.inTick (by rw [hstage]; simp) (by simp) (by simp) fun h => ?_
    have marked := (heads h).marked
    rw [markStage_of_stepped hstage]
    exact ⟨marked.opens, fun hc => (marked.calibrated hc).imp_right fun due => ⟨rfl, due.2⟩⟩
  · rw [markStage_of_unstepped hstage]
    exact hs

theorem MeasuresOnlyMeasuring.calibrationStage : MeasuresOnlyMeasuring s.calibrationStage := by
  by_cases hstage : s.stage = .marked
  · have heads := fun h => (hs.heads h).trimsSet
    refine hs.inTick (by rw [hstage]; simp) (by simp) (by simp) fun h => HeadAgrees.of_prompt ?_
    rw [calibrationStage_of_marked hstage]
    exact (heads h).atStage .idle
  · rw [calibrationStage_of_unmarked hstage]
    exact hs

theorem MeasuresOnlyMeasuring.completeCalibration (hmarked : s.stage = .marked) (g : Fin 12) :
    MeasuresOnlyMeasuring (s.completeCalibration g) := by
  have stage : (s.completeCalibration g).stage = s.stage := by simp
  refine hs.inTick (by rw [hmarked]; simp) (by simp) (by simp) fun h => ?_
  rw [stage]
  exact (hs.heads h).completeCalibration g

/-! ## The pair and the requests -/

theorem MeasuresOnlyMeasuring.receiveAll (chars : List PairChar) : MeasuresOnlyMeasuring (s.receiveAll chars) := by
  by_cases hrun : s.run = .measuring
  · have stage : (s.receiveAll chars).stage = s.stage := by simp
    refine measuresOnlyMeasuring_iff.mpr ⟨fun hnot => absurd (by simpa using hrun) hnot, fun h => ?_, fun hstage => ?_⟩
    · rw [stage]
      exact (hs.heads h).of_views (receiveAll_head_state chars h) (by simp [State.channel]) (calibration_congr (by simp) h)
    · rw [stage] at hstage
      simpa using hs.running hstage
  · rw [receiveAll_of_not_measuring hrun]
    exact hs

/-- From rest no head has a calibration, and each that is enabled starts with its channel opened (R33, R53). -/
theorem MeasuresOnlyMeasuring.startHeads (hrun : s.run ≠ .measuring) :
    MeasuresOnlyMeasuring (State.startHeads { s with run := .measuring }) := by
  obtain ⟨-, -, -, -, -, off, calibrations, -⟩ := hs.rest hrun
  have idle : (State.startHeads { s with run := .measuring }).stage = .idle := by simp [hs.idle hrun]
  refine measuresOnlyMeasuring_iff.mpr ⟨fun hnot => absurd (by simp) hnot, fun h => ?_, fun hstage => absurd idle hstage⟩
  obtain ⟨enabled, disabled⟩ := startHeads_own (s := s) (u := { s with run := .measuring }) rfl rfl rfl h
  have none : (State.startHeads { s with run := .measuring }).calibration h = none :=
    (calibration_congr (by simp) h).trans (calibrations h)
  refine ⟨?_, fun hc => by rw [none] at hc; cases hc⟩
  cases he : s.enabled h with
  | true =>
    obtain ⟨head, channel⟩ := enabled he
    rw [head, channel]
    simp [Channel.opened, Head.restarted]
  | false =>
    obtain ⟨head, channel⟩ := disabled he
    rw [head, channel]
    exact (hs.heads h).opens

/-- No calibration outlasts the run: that of a head which leaves ACTIVE ends, and no other head has one (R34, R73). -/
theorem stopped_calibration (hmarked : s.stage ≠ .marked) (h : Fin 12) : s.stopped.calibration h = none := by
  by_cases hactive : (s.head h).state = .active
  · rw [(stopped_of_on s (by rw [hactive]; simp)).2.2, if_pos hactive]
  · have none : s.calibration h = none := by
      rw [← Option.not_isSome_iff_eq_none]
      exact fun hc => hactive ((hs.prompt hmarked h).active hc)
    obtain ⟨-, -, waiting⟩ := waitingAnswered_own s h
    have stopped : CalibrationFrom s.waitingAnswered s.waitingAnswered.stopHeads h := by
      unfold State.stopHeads
      exact List.foldlRecOn (motive := fun t => CalibrationFrom s.waitingAnswered t h) allHeads State.stopHead (.of_eq rfl)
        fun t ht g _ => ht.trans (stopHead_from t h g)
    rw [(stopped_views s h).2.2, ← Option.not_isSome_iff_eq_none]
    intro hc
    obtain ⟨c, hc⟩ := Option.isSome_iff_exists.mp hc
    obtain ⟨d, hd, -⟩ := stopped c hc
    rw [waiting, none] at hd
    cases hd

/-- A head goes OFF and its channel is closed (R33, R53). -/
theorem stopped_off (h : Fin 12) : (s.stopped.head h).state = .off ∧ (s.stopped.channel h).isOpen = false := by
  by_cases hoff : (s.head h).state = .off
  · obtain ⟨head, channel⟩ := stopped_of_off s hoff
    have closed : ¬(s.channel h).isOpen = true := fun hopen => (hs.heads h).opens.mp hopen hoff
    refine ⟨by rw [head, hoff], ?_⟩
    rw [channel, State.cutChannel, Channel.ended, if_neg closed, ite_self]
    exact Bool.not_eq_true _ ▸ closed
  · obtain ⟨head, channel, -⟩ := stopped_of_on s hoff
    rw [head, channel]
    exact ⟨rfl, rfl⟩

/-- Past the end of a run whose tick was abandoned and whose capture was stopped the part is at rest (R174). -/
theorem stopped_atRest (hmarked : s.stage ≠ .marked) {l : Link} (hlink : s.link = l.abandoned)
    (hidle : ∀ c, s.trace.mode ≠ .capturing c) : AtRest s.stopped := by
  obtain ⟨link, -, -, -, -, period, -, adoption, setting, -⟩ := stopped_items s
  refine ⟨by rw [period], by rw [link, hlink]; rfl, by rw [link, hlink]; rfl, by rw [link, hlink]; rfl,
    buffer_of_abandoned (link.trans hlink), fun h => (stopped_off hs h).1, stopped_calibration hs hmarked, adoption, setting, ?_⟩
  rwa [stopped_trace s hidle]

/-- An abandoned tick leaves no tick event and nothing on the pair (R28). -/
theorem MeasuresOnlyMeasuring.abandonTick (hmarked : s.stage ≠ .marked) : MeasuresOnlyMeasuring s.abandonTick := by
  have link := abandonTick_link s
  refine measuresOnlyMeasuring_iff.mpr ⟨fun hrun => ?_, fun h => HeadAgrees.of_prompt ?_, fun hstage => absurd (by simp) hstage⟩
  · obtain ⟨period, -, -, -, -, off, calibrations, adoption, setting, idle⟩ := hs.rest (by simpa using hrun)
    refine ⟨by simpa using period, by rw [link]; rfl, by rw [link]; rfl, by rw [link]; rfl, buffer_of_abandoned link,
      fun h => ?_, fun h => (calibration_congr (by simp) h).trans (calibrations h), by simpa using adoption,
      by simpa using setting, by simpa using idle⟩
    have head : s.abandonTick.head h = s.head h := by simp [State.head]
    rw [head]
    exact off h
  · exact (hs.prompt hmarked h).of_views (by simp [State.head]) (by simp [State.channel]) (calibration_congr (by simp) h)

theorem MeasuresOnlyMeasuring.stopped (hstage : s.stage = .idle) {l : Link} (hlink : s.link = l.abandoned)
    (hidle : ∀ c, s.trace.mode ≠ .capturing c) (r : RunState) : MeasuresOnlyMeasuring { s.stopped with run := r } := by
  have rest := stopped_atRest hs (by simp [hstage]) hlink hidle
  obtain ⟨-, -, -, stage, -⟩ := stopped_items s
  exact rest.measuresOnlyMeasuring (fun h => (stopped_off hs h).2) (stage.trans hstage) r

theorem MeasuresOnlyMeasuring.ended (hmarked : s.stage ≠ .marked) {y : State} (hy : TraceStopped s.abandonTick y) (r : RunState) :
    MeasuresOnlyMeasuring { y.stopped with run := r } := by
  have halted := hy.measuringKept
  exact ((hs.abandonTick hmarked).kept halted).stopped (halted.stage.trans (by simp)) (halted.link.trans (abandonTick_link s))
    hy.idle r

/-- A request that waits for the run does so in MEASURING (R49, R105). -/
theorem MeasuresOnlyMeasuring.waits (hrun : s.run = .measuring) (adoption : Option (Fin 8)) (setting : Option ClockSetting) :
    MeasuresOnlyMeasuring { s with adoption := adoption, clockSetting := setting } :=
  measuresOnlyMeasuring_iff.mpr ⟨fun hnot => absurd hrun hnot, fun h => (hs.heads h).of_views rfl rfl rfl, hs.running⟩

/-- Only in MEASURING is a head ACTIVE (R33, R174). -/
theorem MeasuresOnlyMeasuring.run_of_active {g : Fin 12} (hactive : (s.head g).state = .active) : s.run = .measuring := by
  by_contra hrun
  obtain ⟨-, -, -, -, -, off, -⟩ := hs.rest hrun
  rw [off g] at hactive
  cases hactive

theorem MeasuresOnlyMeasuring.setCalibration {g : Fin 12} (hactive : (s.head g).state = .active) (c : Calibration) :
    MeasuresOnlyMeasuring (s.setCalibration g c) := by
  refine measuresOnlyMeasuring_iff.mpr ⟨fun hnot => absurd (hs.run_of_active hactive) hnot, fun h => ?_, hs.running⟩
  by_cases hgh : g = h
  · subst hgh
    exact ⟨(hs.heads g).opens, fun _ => .inl hactive⟩
  · exact (hs.heads h).of_own (setCalibration_keeps_other s hgh c)

theorem MeasuresOnlyMeasuring.setTrim (g : Fin 12) (x : Int) : MeasuresOnlyMeasuring (s.setTrim g x) := by
  have run : (s.setTrim g x).run = s.run := by simp
  have low : (s.setTrim g x).resetLow = s.resetLow := by simp
  have stage : (s.setTrim g x).stage = s.stage := by simp
  have heads := fun h => (hs.heads h).setTrim g x
  have state : ∀ h, ((s.setTrim g x).head h).state = (s.head h).state := fun h => by
    by_cases hgh : g = h
    · subst hgh
      rw [setTrim_head]
    · rw [(setTrim_keeps_other s hgh x).head]
  refine measuresOnlyMeasuring_iff.mpr ⟨fun hrun => ?_, fun h => by rw [stage]; exact heads h, fun hstage => ?_⟩
  · obtain ⟨period, tick, receiver, note, buffers, off, calibrations, adoption, setting, idle⟩ := hs.rest (run ▸ hrun)
    exact ⟨by simpa using period, by simpa using tick, by simpa using receiver, by simpa using note,
      fun h => by simpa [State.buffer] using buffers h, fun h => (state h).trans (off h),
      fun h => (calibration_congr (by simp) h).trans (calibrations h), by simpa using adoption, by simpa using setting,
      by simpa using idle⟩
  · rw [run, low]
    exact hs.running (stage ▸ hstage)

theorem MeasuresOnlyMeasuring.trigger (hrun : s.run = .measuring) (x : Trigger) : MeasuresOnlyMeasuring (s.trigger x) := by
  have stage : (s.trigger x).stage = s.stage := by simp
  refine measuresOnlyMeasuring_iff.mpr ⟨fun hnot => absurd (by simpa using hrun) hnot, fun h => ?_, fun hstage => ?_⟩
  · rw [stage]
    exact (hs.heads h).of_views (by simp [State.head]) (by simp [State.channel]) (calibration_congr (by simp) h)
  · rw [stage] at hstage
    simpa using hs.running hstage

end Invariant

/-- After a RESTART every head is OFF with its trim (R39, R96). -/
theorem measuresOnlyMeasuring_restart (s : State) : MeasuresOnlyMeasuring s.restartPart := by
  have off : ∀ h, (s.restartPart.head h).state = .off := fun h => by simp [State.head, State.restartPart, Head.reset]
  have closed : ∀ h, (s.restartPart.channel h).isOpen = false := fun h => congrArg Channel.isOpen (channel_reset h)
  have rest : AtRest s.restartPart := ⟨rfl, rfl, rfl, rfl, buffer_reset, off, calibration_reset, rfl, rfl, nofun⟩
  exact rest.measuresOnlyMeasuring closed rfl _

theorem StepPart.measuresOnlyMeasuring {s t : State} (part : StepPart s t) (hs : MeasuresOnlyMeasuring s) :
    MeasuresOnlyMeasuring t := by
  cases part with
  | kept h => exact hs.kept h
  | pinReset => exact measuresOnlyMeasuring_reset
  | restarted => exact measuresOnlyMeasuring_restart s
  | heldInReset hidle =>
    exact measuresOnlyMeasuring_iff.mpr
      ⟨hs.rest, fun h => (hs.heads h).of_views rfl rfl rfl, fun hstage => absurd hidle hstage⟩
  | rested hrun r _ =>
    exact measuresOnlyMeasuring_iff.mpr
      ⟨fun _ => hs.rest hrun, fun h => (hs.heads h).of_views rfl rfl rfl, fun hstage => absurd (hs.idle hrun) hstage⟩
  | tickBegun => exact hs.beginTick
  | headClosed h => exact hs.closeHead h
  | tickClosed => exact hs.closeTick
  | captureDone => exact hs.captureStage
  | secondDone => exact hs.secondStage
  | periodDone => exact hs.periodStage
  | markDone => exact hs.markStage
  | trimsDone => exact hs.calibrationStage
  | trimDone hmarked h => exact hs.completeCalibration hmarked h
  | received chars => exact hs.receiveAll chars
  | started hrun => exact hs.startHeads hrun
  | ended hmarked hy r => exact hs.ended hmarked hy r
  | waits hrun adoption setting => exact hs.waits hrun adoption setting
  | calibrated hactive c => exact hs.setCalibration hactive c
  | trimLoaded h x => exact hs.setTrim h x
  | triggered hrun x => exact hs.trigger hrun x

/-- Settles O60: each part of a step keeps the part at rest outside MEASURING, and channels and calibrations with their heads. -/
theorem stepKeepsPartAtRestOutsideMeasuring : Obligations.StepKeepsPartAtRestOutsideMeasuring :=
  fun _ _ hs hstep => (step_parts hstep).invariant StepPart.measuresOnlyMeasuring hs

end Sys2Proof.Machine
end

section
/-! PROOFS. CALIBRATE (R70) and LOAD TRIM (R74): the tests of each in their order, and what is left when none applies. -/

namespace Sys2Proof.Machine

open Sys2Proof

section Served

variable {s : State} {n : Fin 8}

theorem exec_calibrate_served (hs : Served s n .calibrate) :
    exec .calibrate s = .next ((s.take n).workCalibrate n).endService := by
  have runs : exec .calibrate s = .next (s.finishClose.serve (isKind .calibrate) State.workCalibrate) := rfl
  rw [runs, finishClose_of_closeDone hs.2.1, serve_of_served hs]

theorem exec_loadTrim_served (hs : Served s n .loadTrim) : exec .loadTrim s = .next ((s.take n).workLoadTrim n).endService := by
  have runs : exec .loadTrim s = .next (s.finishClose.serve (isKind .loadTrim) State.workLoadTrim) := rfl
  rw [runs, finishClose_of_closeDone hs.2.1, serve_of_served hs]

end Served

/-- A parameter that names a head is that head's number. -/
theorem exists_head_of_le {i : Nat} (hi : i ≤ 11) : ∃ h : Fin 12, i = h.val := ⟨⟨i, Nat.lt_succ_of_le hi⟩, rfl⟩

section Works

variable {x : State} {n : Fin 8}

/-! ## CALIBRATE -/

theorem workCalibrate_of_noHead (hhead : 11 < x.param n 2) : x.workCalibrate n = x.answer n .invalid 0 [] := by
  rw [State.workCalibrate, headOf_of_large hhead]

section Calibrate

variable {h : Fin 12} (hhead : x.param n 2 = h.val)
include hhead

theorem workCalibrate_of_level (hlevel : x.param n 3 < 7000 ∨ 12000 < x.param n 3) :
    x.workCalibrate n = x.answer n .invalid 1 [] := by
  simp only [State.workCalibrate, hhead, headOf_val, if_pos hlevel]

variable (hlow : 7000 ≤ x.param n 3) (hhigh : x.param n 3 ≤ 12000)
include hlow hhigh

theorem workCalibrate_of_busy (hcalibration : (x.calibration h).isSome) : x.workCalibrate n = x.answer n .busy 0 [] := by
  have level : ¬(x.param n 3 < 7000 ∨ 12000 < x.param n 3) := by omega
  simp only [State.workCalibrate, hhead, headOf_val, if_neg level, if_pos hcalibration]

variable (hcalibration : x.calibration h = none)
include hcalibration

theorem workCalibrate_of_inactive (hstate : (x.head h).state ≠ .active) : x.workCalibrate n = x.answer n .notReady 0 [] := by
  have level : ¬(x.param n 3 < 7000 ∨ 12000 < x.param n 3) := by omega
  have free : ¬(x.calibration h).isSome := by simp [hcalibration]
  simp only [State.workCalibrate, hhead, headOf_val, if_neg level, if_neg free, if_pos hstate]

theorem workCalibrate_starts (hstate : (x.head h).state = .active) : x.workCalibrate n =
    x.setCalibration h { inProgress := true, count := 0, sum := 0, expected := x.param n 3, slot := n } := by
  have level : ¬(x.param n 3 < 7000 ∨ 12000 < x.param n 3) := by omega
  have free : ¬(x.calibration h).isSome := by simp [hcalibration]
  simp only [State.workCalibrate, hhead, headOf_val, if_neg level, if_neg free, if_neg (not_not.mpr hstate)]

end Calibrate

/-! ## LOAD TRIM -/

theorem workLoadTrim_of_noHead (hhead : 11 < x.param n 2) : x.workLoadTrim n = x.answer n .invalid 0 [] := by
  rw [State.workLoadTrim, headOf_of_large hhead]

section LoadTrim

variable {h : Fin 12} (hhead : x.param n 2 = h.val)
include hhead

theorem workLoadTrim_of_range (hrange : (x.requestWord n 3).toInt < -500 ∨ 500 < (x.requestWord n 3).toInt) :
    x.workLoadTrim n = x.answer n .outOfRange 0 [] := by
  simp only [State.workLoadTrim, hhead, headOf_val, if_pos hrange]

variable (hlow : -500 ≤ (x.requestWord n 3).toInt) (hhigh : (x.requestWord n 3).toInt ≤ 500)
include hlow hhigh

theorem workLoadTrim_of_busy (hcalibration : (x.calibration h).isSome) : x.workLoadTrim n = x.answer n .busy 0 [] := by
  have range : ¬((x.requestWord n 3).toInt < -500 ∨ 500 < (x.requestWord n 3).toInt) := by omega
  simp only [State.workLoadTrim, hhead, headOf_val, if_neg range, if_pos hcalibration]

theorem workLoadTrim_sets (hcalibration : x.calibration h = none) : x.workLoadTrim n =
    (x.setTrim h (x.requestWord n 3).toInt).answer n .done 0 [intWord (x.head h).trim, x.requestWord n 3] := by
  have range : ¬((x.requestWord n 3).toInt < -500 ∨ 500 < (x.requestWord n 3).toInt) := by omega
  have free : ¬(x.calibration h).isSome := by simp [hcalibration]
  have word : intWord (x.requestWord n 3).toInt = x.requestWord n 3 := BitVec.ofInt_toInt
  simp only [State.workLoadTrim, hhead, headOf_val, if_neg range, if_neg free, word]

end LoadTrim

end Works

/-- Settles O35: the work of CALIBRATE by its tests in their order; past them it keeps the request and answers nothing. -/
theorem calibrateStartsMeasurement : Obligations.CalibrateStartsMeasurement := by
  refine ⟨fun s n hs => ⟨fun hhead => ?_, fun hhead hlevel => ?_⟩, fun s n h hs hhead hlow hhigh =>
    ⟨fun hcalibration => ?_, fun hcalibration hstate => ?_, fun hcalibration hstate => ?_⟩⟩
  · exact refuses_of_answer (exec_calibrate_served hs) (workCalibrate_of_noHead hhead)
  · obtain ⟨h, hh⟩ := exists_head_of_le hhead
    exact refuses_of_answer (exec_calibrate_served hs) (workCalibrate_of_level hh hlevel)
  · exact refuses_of_answer (exec_calibrate_served hs) (workCalibrate_of_busy hhead hlow hhigh hcalibration)
  · exact refuses_of_answer (exec_calibrate_served hs) (workCalibrate_of_inactive hhead hlow hhigh hcalibration hstate)
  · have runs := exec_calibrate_served hs
    rw [workCalibrate_starts (x := s.take n) hhead hlow hhigh hcalibration hstate] at runs
    refine ⟨_, runs, ?_, handsOver_of_requests rfl, ?_, fun g hg => ?_⟩
    · apply State.eq_of_fields <;> simp
    · exact (calibration_setCalibration (s.take n) h h _).trans (by rw [if_pos rfl, param_take]; rfl)
    · exact calRecord_setCalibration_ne (s.take n) h g _ (Ne.symm hg)

/-- Settles O36: the work of LOAD TRIM by its tests in their order; past them it sets the trim and answers. -/
theorem loadTrimReplacesTrim : Obligations.LoadTrimReplacesTrim := by
  refine ⟨fun s n hs => ⟨fun hhead => ?_, fun hhead hrange => ?_⟩, fun s n h hs hhead hlow hhigh =>
    ⟨fun hcalibration => ?_, fun hcalibration => ?_⟩⟩
  · exact refuses_of_answer (exec_loadTrim_served hs) (workLoadTrim_of_noHead hhead)
  · obtain ⟨h, hh⟩ := exists_head_of_le hhead
    exact refuses_of_answer (exec_loadTrim_served hs) (workLoadTrim_of_range hh hrange)
  · exact refuses_of_answer (exec_loadTrim_served hs) (workLoadTrim_of_busy hhead hlow hhigh hcalibration)
  · have runs := exec_loadTrim_served hs
    have work : (s.take n).workLoadTrim n = ((s.take n).setTrim h (s.requestWord n 3).toInt).answer n .done 0
      [intWord (s.head h).trim, s.requestWord n 3] := workLoadTrim_sets hhead hlow hhigh hcalibration
    rw [work] at runs
    have head := setTrim_head (s.take n) h (s.requestWord n 3).toInt
    have channel := setTrim_channel (s.take n) h (s.requestWord n 3).toInt
    have other := fun g (hg : g ≠ h) => setTrim_keeps_other (s.take n) (Ne.symm hg) (s.requestWord n 3).toInt
    rw [head_take_keep] at head
    rw [channel_take_keep, take_period] at channel
    refine ⟨_, runs, ?_, answers_of_work (by simp) (by simp) _ _ _, endService_bytesKept (by simp) _ _ _, ?_,
      ⟨fun g hg => ?_, fun g hg => ?_⟩, fun hperiod hopen => ?_, fun hclosed => ?_⟩
    · apply State.eq_of_fields <;> simp
    · rw [head_endService_keep, head_answer_keep, head]
    · rw [head_endService_keep, head_answer_keep, (other g hg).head, head_take_keep]
    · rw [channel_endService_keep, channel_answer_keep, (other g hg).channel, channel_take_keep]
    · rw [channel_endService_keep, channel_answer_keep, channel, hopen, hperiod]
      rfl
    · have unseen : ((s.channel h).isOpen && s.period.isOpen) = false := by
        rw [Bool.and_eq_false_iff]
        exact hclosed.symm
      rw [channel_endService_keep, channel_answer_keep, channel, unseen]
      rfl

end Sys2Proof.Machine
end

section
/-! PROOFS. CALIBRATION_COMPLETE (R71, R72): what the tick event as far as its mark keeps of every request's posting mark and of the
calibration that takes its 128th tick, and the record of a head that the mark disables (R62, R68). -/

namespace Sys2Proof.Machine

open Sys2Proof

/-! ## Posting marks -/

/-- Every request slot has the posting mark from before (R163). -/
structure PostMarksKept (s t : State) : Prop where
  mark : ∀ n, (t.slot n).postMark = (s.slot n).postMark

theorem PostMarksKept.refl (s : State) : PostMarksKept s s := ⟨fun _ => rfl⟩

theorem PostMarksKept.of_eq {s t : State} (hrequests : t.requests = s.requests := by simp) : PostMarksKept s t :=
  ⟨fun n => by simp only [State.slot, hrequests]⟩

section Chain

variable {s t u : State}

theorem PostMarksKept.trans (hst : PostMarksKept s t) (htu : PostMarksKept t u) : PostMarksKept s u :=
  ⟨fun n => (htu.mark n).trans (hst.mark n)⟩

theorem PostMarksKept.andThen (hst : PostMarksKept s t) (hrequests : u.requests = t.requests := by simp) : PostMarksKept s u :=
  hst.trans (.of_eq hrequests)

theorem PostMarksKept.after (htu : PostMarksKept t u) (hrequests : t.requests = s.requests := by simp) : PostMarksKept s u :=
  .trans (.of_eq hrequests) htu

theorem PostMarksKept.fold {ι : Type} {f : State → ι → State} (step : ∀ s i, PostMarksKept s (f s i)) (l : List ι) (s : State) :
    PostMarksKept s (l.foldl f s) :=
  List.foldlRecOn (motive := PostMarksKept s) l f (.refl s) fun t ht i _ => ht.trans (step t i)

end Chain

section PostMarks

variable (s : State)

theorem answer_postMarks (n : Fin 8) (code : AnswerCode) (detail : Nat) (reply : List Word) :
    PostMarksKept s (s.answer n code detail reply) where
  mark m := by
    rw [slot_answer]
    split
    · next e => rw [e]
    · rfl

theorem abortCalibration_postMarks (h : Fin 12) (r : AbortReason) : PostMarksKept s (s.abortCalibration h r) := by
  unfold State.abortCalibration
  split
  · exact .refl s
  · next c _ =>
    exact (answer_postMarks s c.slot .aborted r.code
      [0xFFFF, intWord (s.head h).trim, intWord (s.head h).trim, word c.count]).andThen

theorem leaveActive_postMarks (h : Fin 12) (r : AbortReason) : PostMarksKept s (s.leaveActive h r) :=
  (abortCalibration_postMarks s h r).andThen (by simp [State.leaveActive])

theorem feedCalibration_postMarks (h : Fin 12) (f : Frame) : PostMarksKept s (s.feedCalibration h f) := by
  unfold State.feedCalibration
  split
  · exact .refl s
  · split
    · exact abortCalibration_postMarks s h _
    · exact .of_eq

theorem channelTick_postMarks (h : Fin 12) (o : Option Frame) : PostMarksKept s (s.channelTick h o) := by
  unfold State.channelTick
  dsimp only
  split
  · split
    · exact .of_eq
    · exact (feedCalibration_postMarks (s.setChannel h _) h _).after
    · exact .of_eq
  · exact .refl s

theorem headStep_postMarks (h : Fin 12) (o : Option Frame) : PostMarksKept s (s.headStep h o) := by
  have step := headStep_cases s h o
  generalize s.headStep h o = t at step
  cases step with
  | lost =>
    have left := leaveActive_postMarks (s.setHead h { s.head h with state := .lost, miss := 32, join := 0 }) h .headLost
    exact left.after.andThen (by simp [State.loseHead])
  | joined f => exact .of_eq
  | moved => exact .of_eq

theorem settleHead_postMarks (h : Fin 12) : PostMarksKept s (s.settleHead h) :=
  ((headStep_postMarks s h _).trans (channelTick_postMarks _ h _)).andThen rfl

theorem closeTick_postMarks : PostMarksKept s s.closeTick := by
  unfold State.closeTick
  split
  · next todo _ => exact (PostMarksKept.fold settleHead_postMarks todo s).andThen
  · exact .refl s

theorem completeAdoption_postMarks (kind : EndKind) : PostMarksKept s (s.completeAdoption kind) := by
  unfold State.completeAdoption
  split
  · exact .refl s
  · exact (answer_postMarks { s.adopt with adoption := none } ..).after

theorem endPeriod_postMarks (kind : EndKind) (actual : Nat) (closed : Clock) :
    PostMarksKept s (s.endPeriod kind actual closed) := by
  unfold State.endPeriod
  refine (completeAdoption_postMarks _ kind).after ?_
  dsimp only
  split <;> simp

theorem replaceStep_postMarks (x : ClockSetting) : PostMarksKept s (s.replaceStep x) := by
  have ended := endPeriod_postMarks s .cut (lengthThrough s.period s.clock.second) s.clock
  have answered := fun t : State => answer_postMarks t x.slot .done 0 (clockReply s.clock)
  exact ended.trans ((answered _).after (by simp))

theorem secondStage_postMarks : PostMarksKept s s.secondStage := by
  have closed : PostMarksKept s s.closeSecond := .of_eq
  unfold State.secondStage
  split
  · split
    · dsimp only
      split
      · next x _ => exact (closed.trans (replaceStep_postMarks s.closeSecond x)).andThen
      · exact closed.andThen
    · exact .of_eq
  · exact .refl s

theorem periodStage_postMarks : PostMarksKept s s.periodStage := by
  have stepped : PostMarksKept s { s with clock := s.clock.step } := .of_eq
  unfold State.periodStage
  split
  · exact .of_eq
  · dsimp only
    split
    · exact stepped.andThen
    · split
      · exact (stepped.trans (endPeriod_postMarks _ .aligned s.period.plannedLength s.clock)).andThen
      · exact stepped.andThen
  · exact .refl s

theorem markHead_postMarks (h : Fin 12) : PostMarksKept s (s.markHead h) := by
  have left : PostMarksKept s (s.leaveAtMark h) := by
    unfold State.leaveAtMark
    split
    · exact .of_eq
    · exact leaveActive_postMarks s h _
  have step := markHead_cases s h
  generalize s.markHead h = t at step
  cases step with
  | kept => exact .refl s
  | enabled => exact .of_eq (by simp [State.enableAtMark])
  | disabled =>
    unfold State.disableAtMark
    dsimp only
    split
    · split
      · exact left.andThen
      · exact left.andThen
    · split
      · exact .of_eq
      · exact .of_eq

theorem marked_postMarks : PostMarksKept s s.marked := by
  have heads : PostMarksKept s s.headsMarked := by
    unfold State.headsMarked
    exact .fold markHead_postMarks allHeads s
  exact heads.andThen rfl

end PostMarks

/-! ## The tick event as far as its clock step -/

/-- The tick event of s as far as its clock step, where its mark is due (R41, R45). -/
def State.beforeMark (s : State) : State := s.beginTick.finishClose.periodStage

section BeforeMark

/-- Nothing before the mark writes a setting (R77). -/
theorem beforeMark_setting (s : State) {a : Nat} (ha : a + 1 < 0x0800) : s.beforeMark.peekWord a = s.peekWord a := by
  have begun : s.beginTick.store = s.store := by simp
  have writes := (finishClose_writes s.beginTick).trans (periodStage_writes _)
  exact peekWord_of_settings (fun b hb => (writes.keeps_below b hb).trans (by rw [begun])) ha

theorem beforeMark_postMarks (s : State) : PostMarksKept s s.beforeMark := by
  have begun : PostMarksKept s s.beginTick := .of_eq
  have closed := (begun.trans (closeTick_postMarks _)).andThen (u := s.beginTick.closeTick.captureStage)
  exact (closed.trans (secondStage_postMarks _)).trans (periodStage_postMarks _)

variable {s : State} (hs : TickClosing s)
include hs

theorem beforeMark_eq : s.beforeMark = s.tickClosed.secondStage.periodStage := by
  rw [State.beforeMark, State.finishClose, beginTick_closes hs]

theorem beforeMark_stage : s.beforeMark.stage = .stepped := (exec_tickEvent_of_periodEnd hs (exec_periodEnd hs.1.2)).1

theorem atMark_eq : s.atMark = s.beforeMark.marked := markStage_of_stepped (beforeMark_stage hs)

theorem beforeMark_nextMark : s.beforeMark.link.nextMark = s.link.nextMark := by
  have link : s.tickClosed.secondStage.periodStage.link = s.tickClosed.secondStage.link := by simp
  rw [beforeMark_eq hs, link, secondStage_nextMark, tickClosed_frame]

theorem beforeMark_own (h : Fin 12) : s.beforeMark.head h = s.tickClosed.head h ∧
    s.beforeMark.calibration h = s.tickClosed.calibration h := by
  rw [beforeMark_eq hs]
  exact ⟨by simp [State.head], calibration_congr (by simp) h⟩

/-- Within a second the tick close and the clock step are all that happens before the mark (R40, R41). -/
theorem beforeMark_within (hclock : s.clock.tick ≠ 31) :
    s.beforeMark = { s.tickClosed with stage := .stepped, clock := s.clock.step } :=
  Host.Outcome.next.inj ((exec_periodEnd hs.1.2).symm.trans (exec_periodEnd_within hs hclock))

end BeforeMark

/-! ## A calibration's tick -/

/-- Head h's calibration c takes the frame f at the close of the open tick (R71). -/
structure CalibrationTick (s : State) (h : Fin 12) (f : Frame) (c : Calibration) : Prop where
  closing : TickClosing s
  active : (s.head h).state = .active
  buffer : s.buffer h = some f
  fault : f.faultFlag = false
  good : f.overFlag = false
  opened : (s.channel h).isOpen = true
  calibration : s.calibration h = some c

/-- The calibration past a tick with frame f (R71). -/
def Calibration.fed (c : Calibration) (f : Frame) : Calibration :=
  { c with count := c.count + 1, sum := c.sum + BitVec.ofNat 72 f.aEnergy }

section CalibrationTick

variable {s : State} {h : Fin 12} {f : Frame} {c : Calibration} (hc : CalibrationTick s h f c)
include hc

theorem CalibrationTick.closed : (s.tickClosed.head h).state = .active ∧ (s.tickClosed.head h).trim = (s.head h).trim ∧
    s.tickClosed.calibration h = some (c.fed f) ∧ s.tickClosed.channel h = (s.channel h).calibrationTick (some f) := by
  obtain ⟨u, hu, ht⟩ := tickClosed_of_on (s := s) (h := h) (by rw [hc.active]; simp)
  have active : (u.head h).state = .active := by rw [hu.head, hc.active]
  have buffer : u.buffer h = some f := by rw [hu.buffer, hc.buffer]
  obtain ⟨channel, trim, fed, -⟩ := settleHead_calibration (by rw [hu.channel, hc.opened]) buffer hc.fault active
    (hu.calibration.trans hc.calibration)
  refine ⟨?_, ?_, ht.calibration.trans (fed hc.good), ?_⟩
  · rw [ht.head, settleHead_head, buffer, headStep_active_some active, head_setHead_same]
    exact active
  · rw [ht.head, trim, hu.head]
  · rw [ht.channel, channel, hu.channel]

theorem CalibrationTick.beforeMark : (s.beforeMark.head h).state = .active ∧
    (s.beforeMark.head h).trim = (s.head h).trim ∧ s.beforeMark.calibration h = some (c.fed f) := by
  obtain ⟨active, trim, fed, -⟩ := hc.closed
  obtain ⟨head, calibration⟩ := beforeMark_own hc.closing h
  rw [head, calibration]
  exact ⟨active, trim, fed⟩

/-- The 128th tick makes the calibration due, and the mark does not end it (R72; log entry 7). -/
theorem CalibrationTick.marked (hcount : c.count = 127) : s.atMark.calibration h = some (c.fed f) ∧
    s.atMark.calibrationDue h = true ∧ (s.atMark.head h).trim = (s.head h).trim := by
  obtain ⟨-, trim, fed⟩ := hc.beforeMark
  have due : s.beforeMark.calibrationDue h = true := calibrationDue_iff.mpr ⟨_, fed, by simp [Calibration.fed, hcount]⟩
  rw [atMark_eq hc.closing]
  refine ⟨(marked_calibration_of_due _ due).trans fed, (marked_due _ h).trans due, ?_⟩
  rw [marked_head, markedHead_trim, trim]

theorem CalibrationTick.exec_calibrationComplete (hcount : c.count = 127) :
    exec (.calibrationComplete h) s = .next (s.atMark.completeCalibration h) := by
  have stage : s.atMark.stage = .marked := by rw [atMark_eq hc.closing]; rfl
  have due := (hc.marked hcount).2.1
  have runs : exec (.calibrationComplete h) s = if decide (s.atMark.stage = .marked) && s.atMark.calibrationDue h then
    .next (s.atMark.completeCalibration h) else .next s := rfl
  rw [runs, stage, due]
  rfl

end CalibrationTick

/-! ## The record of a head that the mark disables -/

/-- The records of the channels cut at the mark are handed over before a calibration completes (R62, R68). -/
theorem marked_handing (v : State) : Handing v v.marked (cutAtMark v) true (actualLength v.period v.clock)
    ((allHeads.flatMap v.markSlots).map answerBytes) := by
  have cuts : allHeads.filter v.cutsAtMark = cutAtMark v := rfl
  have marked := foldl_handing (u := v) (cut := true) (actual := actualLength v.period v.clock) (f := State.markHead)
    (K := fun t h => MarkKept v t h) (cuts := v.cutsAtMark) (extra := fun h => (v.markSlots h).map answerBytes)
    (fun t g h hne hk => hk.trans (markHead_keeps_other t hne)) (fun t h heads aside hk hnot hvt => markHead_handing hk hnot hvt)
    nodup_allHeads (t := v) (fun h _ => .refl v h) (by simp) (.refl v true _)
  rw [List.nil_append, List.nil_append, cuts] at marked
  have sent := (sendMark_effects v.headsMarked v.link).handing (by rfl) (by simp) (by unfold State.headsMarked; exact marked)
  rwa [List.map_nil, List.append_nil, ← List.map_flatMap] at sent

theorem completed_handing (v : State) (h : Fin 12) : Handing v (v.marked.completeCalibration h) (cutAtMark v) true
    (actualLength v.period v.clock) ((allHeads.flatMap v.markSlots).map answerBytes ++ (v.dueSlots h).map answerBytes) := by
  have handed := (completeCalibration_effects v.marked h).handing (by simp)
    (by rw [marked_dueClasses]; exact record_not_mem_dueClasses v h) (marked_handing v)
  rwa [marked_dueSlots] at handed

theorem lowestFree_of_isLowestFree {k : Nat} {filled : List (Fin k)} {m : Fin k} (hm : IsLowestFree filled m) :
    lowestFree filled = some m := by
  obtain ⟨free, below⟩ := hm
  refine List.find?_eq_some_iff_getElem.mpr ⟨by simpa using free, m.val, by simp, by simp, fun j hj => ?_⟩
  simpa using below _ (by simpa [Fin.lt_def] using hj)

/-- The first of the free record slots is the lowest. -/
theorem freeRecordSlots_head {s : State} {k : Fin 48} (hk : IsLowestFree s.records.list k) : (freeRecordSlots s)[0]? = some k := by
  have lowest := lowestFree_append_take s 0
  rw [List.take_zero, List.append_nil] at lowest
  rw [← lowest, lowestFree_of_isLowestFree hk]

section Words

variable (u : State) (h : Fin 12) (cut : Bool) (actual : Nat)

theorem le_length_periodRecordWords : 36 ≤ (periodRecordWords u h cut actual).length := by
  simp only [periodRecordWords, List.length_append, length_words32, length_wordsD, List.length_cons, List.length_nil]
  omega

theorem periodRecordWords_head (hi : 0 < (periodRecordWords u h cut actual).length) :
    (periodRecordWords u h cut actual)[0] = word h.val := by
  simp [periodRecordWords]

theorem periodRecordWords_trim (hi : 33 < (periodRecordWords u h cut actual).length) :
    (periodRecordWords u h cut actual)[33] = intWord (u.head h).trim := by
  simp [periodRecordWords, words32, wordsD]

end Words

/-- Where the mark cuts one head alone its record takes the lowest free slot, with the head and its trim in their places (R136). -/
theorem PeriodRecordsHanded.single {u t : State} {h : Fin 12} {actual : Nat} (hut : PeriodRecordsHanded u t [h] true actual)
    {k : Fin 48} (hk : IsLowestFree u.records.list k) : t.records.list = u.records.list ++ [k] ∧
      t.peekWord (recordAddr k 4) = word h.val ∧ t.peekWord (recordAddr k 37) = intWord (u.head h).trim := by
  obtain ⟨handed, -, list, -⟩ := hut
  have first := freeRecordSlots_head hk
  obtain ⟨-, -, -, -, -, body, -⟩ := (handed 0 h rfl).1 k first
  have taken : (freeRecordSlots u).take 1 = [k] := by
    rw [List.take_one, List.head?_eq_getElem?, first]
    rfl
  have fits := le_length_periodRecordWords u h true actual
  refine ⟨by rw [list]; exact congrArg _ taken, ?_, ?_⟩
  · exact (body 0 (by omega)).trans (periodRecordWords_head ..)
  · exact (body 33 (by omega)).trans (periodRecordWords_trim ..)

/-! ## CALIBRATION_COMPLETE -/

section Complete

variable {s : State} {h : Fin 12} {f : Frame} {c : Calibration} (hc : CalibrationTick s h f c)
include hc

/-- What the rest of the tick event keeps past the completion. -/
theorem CalibrationTick.frame : (s.atMark.completeCalibration h).stage = .marked ∧
    (s.atMark.completeCalibration h).link.tickOpen = some s.link.nextMark ∧
    (s.atMark.completeCalibration h).run = s.run ∧ (s.atMark.completeCalibration h).port = s.port ∧
    (s.clock.tick ≠ 31 → (s.atMark.completeCalibration h).clock = s.clock.step ∧
      (s.atMark.completeCalibration h).period = s.period ∧ (s.atMark.completeCalibration h).live = s.live) := by
  have stage : s.atMark.stage = .marked := by rw [atMark_eq hc.closing]; rfl
  have link : s.atMark.link = s.beforeMark.link.marked := by rw [atMark_eq hc.closing]; rfl
  have kept : s.atMark = s.beforeMark.markStage := rfl
  refine ⟨by simpa using stage, ?_, by simp [State.atMark, State.finishClose], by simp [State.atMark, State.finishClose],
    fun hclock => ?_⟩
  · have tick : s.atMark.link.tickOpen = some s.link.nextMark := by
      rw [link, ← beforeMark_nextMark hc.closing]
      rfl
    simpa using tick
  · have within := beforeMark_within hc.closing hclock
    have frame := tickClosed_frame s
    have period : s.tickClosed.period = s.period := by rw [frame]
    have live : s.tickClosed.live = s.live := by rw [frame]
    refine ⟨?_, ?_, ?_⟩
    · simp [kept, within]
    · simp [kept, within, period]
    · simp [kept, within, live]

/-- Where the mark disables head h alone, within a second, its record is the one handed over, with the trim it had (R62, R68). -/
theorem CalibrationTick.cut (hclock : s.clock.tick ≠ 31) (hdisabled : s.peekWord (0x0100 + 16 * h.val) = 0)
    (hothers : ∀ g, g ≠ h → s.peekWord (0x0100 + 16 * g.val) ≠ 0) {k : Fin 48} (hk : IsLowestFree s.records.list k) :
    let t := s.atMark.completeCalibration h
    (t.head h).state = .off ∧ t.records.list = s.records.list ++ [k] ∧ t.peekWord (recordAddr k 4) = word h.val ∧
      t.peekWord (recordAddr k 37) = intWord (s.head h).trim := by
  obtain ⟨active, trim, -⟩ := hc.beforeMark
  have setting : ∀ g : Fin 12, s.beforeMark.peekWord (0x0100 + 16 * g.val) = s.peekWord (0x0100 + 16 * g.val) := fun g =>
    beforeMark_setting s (by omega)
  have disabled : DisabledAtMark s.beforeMark h := ⟨by rw [active]; simp, (setting h).trans hdisabled⟩
  have opened : (s.beforeMark.channel h).isOpen = true := by
    have channel : s.beforeMark.channel h = s.tickClosed.channel h := by rw [beforeMark_within hc.closing hclock]; rfl
    rw [channel, hc.closed.2.2.2]
    exact hc.opened
  have cuts : cutAtMark s.beforeMark = [h] := by
    have only : ∀ g ∈ allHeads, (decide (DisabledAtMark s.beforeMark g) && (s.beforeMark.channel g).isOpen) = decide (g = h) := by
      intro g _
      by_cases hg : g = h
      · subst hg
        simp [disabled, opened]
      · have enabled : ¬DisabledAtMark s.beforeMark g := fun hd => hothers g hg ((setting g).symm.trans hd.2)
        simp [enabled, hg]
    have single : ∀ h : Fin 12, allHeads.filter (fun g => decide (g = h)) = [h] := by decide
    rw [cutAtMark, List.filter_congr only, single]
  have records : s.beforeMark.records = s.records := by
    rw [beforeMark_within hc.closing hclock, tickClosed_frame]
  have handed := (completed_handing s.beforeMark h).records
  rw [cuts] at handed
  obtain ⟨list, first, shown⟩ := handed.single (by rwa [records])
  rw [records] at list
  rw [trim] at shown
  rw [← atMark_eq hc.closing] at list first shown
  refine ⟨?_, list, first, shown⟩
  rw [(completeCalibration_own s.atMark h).1, atMark_eq hc.closing, marked_head, markedHead, if_pos disabled]

variable (hcount : c.count = 127)
include hcount

/-- The trim that the completion sets, if it sets one (R72). -/
theorem CalibrationTick.trim : calibratedTrim s.atMark h =
    let diff : Int := (c.expected : Int) - rawLevel ((c.sum + BitVec.ofNat 72 f.aEnergy).toNat / 128)
    if -500 ≤ diff ∧ diff ≤ 500 then some diff else none := by
  have fed := (hc.marked hcount).1
  have full : 128 ≤ (c.fed f).count := by simp [Calibration.fed, hcount]
  simp only [calibratedTrim, fed, full, true_and]
  rfl

theorem CalibrationTick.answered : ((s.atMark.completeCalibration h).head h).trim =
      (calibratedTrim s.atMark h).getD (s.head h).trim ∧
    (s.atMark.completeCalibration h).calibration h = none ∧
    HoldsAnswer (s.atMark.completeCalibration h) c.slot (s.slot c.slot).postMark
      (if (calibratedTrim s.atMark h).isSome then .done else .outOfRange) 0
      [word (rawLevel ((c.sum + BitVec.ofNat 72 f.aEnergy).toNat / 128)), intWord (s.head h).trim,
        intWord ((calibratedTrim s.atMark h).getD (s.head h).trim), 128] := by
  obtain ⟨fed, due, trim⟩ := hc.marked hcount
  obtain ⟨head, -, calibration⟩ := completeCalibration_own s.atMark h
  have full : (c.fed f).count = 128 := by simp [Calibration.fed, hcount]
  have holds := completeCalibration_holds s.atMark h fed (by rw [full])
  have marks : PostMarksKept s s.atMark := by
    rw [atMark_eq hc.closing]
    exact (beforeMark_postMarks s).trans (marked_postMarks _)
  have slot : (c.fed f).slot = c.slot := rfl
  rw [slot, marks.mark, trim, full] at holds
  refine ⟨by rw [head, trim], by rw [calibration, due]; rfl, holds⟩

end Complete

/-- Settles O25: the tick's frame makes the calibration due, the mark keeps it, and its completion sets the trim and answers. -/
theorem calibrationCompleteSetsTrim : Obligations.CalibrationCompleteSetsTrim := by
  intro s h f c closing active buffer fault good opened calibration hcount m diff
  have tick : CalibrationTick s h f c := ⟨closing, active, buffer, fault, good, opened, calibration⟩
  have trim : calibratedTrim s.atMark h = if -500 ≤ diff ∧ diff ≤ 500 then some diff else none := tick.trim hcount
  obtain ⟨stage, link, run, port, within⟩ := tick.frame
  obtain ⟨set, none, answer⟩ := tick.answered hcount
  refine ⟨_, tick.exec_calibrationComplete hcount, none, stage, link, run, port, within, fun hrange => ?_, fun hrange => ?_,
    fun hclock hdisabled hothers k hk => tick.cut hclock hdisabled hothers hk⟩
  · rw [trim, if_pos hrange] at set answer
    exact ⟨set, answer⟩
  · rw [trim, if_neg hrange] at set answer
    exact ⟨set, answer⟩

end Sys2Proof.Machine
end

section
/-! PROOFS. Every step keeps the store in its one canonical form (R76, R77): what each request writes to it, then each command. -/

namespace Sys2Proof.Machine

open Sys2Proof

/-! ## What the requests write -/

theorem serve_writes (s : State) (isKind : Word → Bool) {work : State → Fin 8 → State}
    (hwork : ∀ t n, PartWrites t.store (work t n).store) : PartWrites s.store (s.serve isKind work).store := by
  unfold State.serve
  dsimp only
  split
  · exact .refl _
  · next n _ _ =>
    split
    · split
      · exact answer_writes (s.take n) n .cancelled 0 []
      · exact hwork (s.take n) n
    · exact .refl _

theorem PartWrites.setRun {m : Mem} {t : State} (h : PartWrites m t.store) (r : RunState) :
    PartWrites m { t with run := r }.store := h

/-- Work that ends with an answer (R167). -/
theorem PartWrites.answer {m : Mem} {t : State} (h : PartWrites m t.store) (n : Fin 8) (c : AnswerCode) (d : Nat) (r : List Word) :
    PartWrites m (t.answer n c d r).store :=
  h.trans (answer_writes t n c d r)

theorem abandonTick_writes (s : State) : PartWrites s.store s.abandonTick.store := by
  simpa using PartWrites.refl s.store

theorem parkTrace_writes (s : State) : PartWrites s.store s.parkTrace.store := truncateCapture_writes s _

theorem cutForStop_writes (s : State) : PartWrites s.store s.cutForStop.store := by
  unfold State.cutForStop
  split
  · exact endPeriod_writes ..
  · exact completeAdoption_writes ..

theorem stopMeasuring_writes (s : State) {trace : State → State} (htrace : ∀ t, PartWrites t.store (trace t).store) :
    PartWrites s.store (s.stopMeasuring trace).store := by
  have traced := (abandonTick_writes s).trans (htrace s.abandonTick)
  unfold State.stopMeasuring
  generalize trace s.abandonTick = t at traced
  have cut := (cutForStop_writes t).trans (applySetting_writes t.cutForStop)
  exact ((traced.trans cut).trans (stopHeads_writes _)).trans (writeClosedPages_writes _ _)

theorem recordOnRequest_writes (s : State) (n : Fin 8) (kind : RecordKind) (body : List Word) (m : Fin 48) :
    PartWrites s.store (s.recordOnRequest n kind body m).store :=
  (postRecord_writes s kind body m).answer ..

section Works

variable (s : State) (n : Fin 8)

theorem workStart_writes : PartWrites s.store (s.workStart n).store := by
  unfold State.workStart
  dsimp only
  split
  · exact answer_writes ..
  · split
    · exact answer_writes ..
    · have started : PartWrites s.store (State.startHeads { s.adopt with run := .measuring }).store := by
        simpa using PartWrites.refl s.store
      exact started.answer ..

theorem workStop_writes : PartWrites s.store (s.workStop n).store := by
  unfold State.workStop
  dsimp only
  split
  · exact ((stopMeasuring_writes s disarm_writes).setRun .stopped).answer ..
  · exact ((disarm_writes s).setRun .stopped).answer ..
  · exact answer_writes ..

theorem workPark_writes : PartWrites s.store (s.workPark n).store := by
  unfold State.workPark
  dsimp only
  split
  · exact ((stopMeasuring_writes s parkTrace_writes).setRun .parked).answer ..
  · exact answer_writes ..

theorem workUnpark_writes : PartWrites s.store (s.workUnpark n).store := by
  unfold State.workUnpark
  split
  · have started : PartWrites s.store (State.startHeads { s with run := .measuring }).store := by
      simpa using PartWrites.refl s.store
    exact started.answer ..
  · exact answer_writes ..

theorem workSetClock_writes : PartWrites s.store (s.workSetClock n).store := by
  unfold State.workSetClock
  dsimp only
  split
  · exact answer_writes ..
  · split
    · exact answer_writes ..
    · split
      · split
        · exact answer_writes ..
        · exact .refl _
      · exact answer_writes { s with clock := _ } ..

theorem workAdopt_writes : PartWrites s.store (s.workAdopt n).store := by
  unfold State.workAdopt
  split
  · exact answer_writes ..
  · split
    · exact answer_writes ..
    · split
      · exact .refl _
      · exact answer_writes s.adopt ..

theorem workCalibrate_writes : PartWrites s.store (s.workCalibrate n).store := by
  unfold State.workCalibrate
  dsimp only
  split
  · exact answer_writes ..
  · split
    · exact answer_writes ..
    · split
      · exact answer_writes ..
      · split
        · exact answer_writes ..
        · exact .refl _

theorem workLoadTrim_writes : PartWrites s.store (s.workLoadTrim n).store := by
  unfold State.workLoadTrim
  dsimp only
  split
  · exact answer_writes ..
  · next h _ =>
    split
    · exact answer_writes ..
    · split
      · exact answer_writes ..
      · have trimmed : PartWrites s.store (s.setTrim h (s.requestWord n 3).toInt).store := by simpa using PartWrites.refl s.store
        exact trimmed.answer ..

theorem workSnapshot_writes : PartWrites s.store (s.workSnapshot n).store := by
  unfold State.workSnapshot
  dsimp only
  split
  · exact answer_writes ..
  · split
    · exact answer_writes ..
    · split
      · exact answer_writes ..
      · exact recordOnRequest_writes ..

theorem workDump_writes : PartWrites s.store (s.workDump n).store := by
  unfold State.workDump
  split
  · exact answer_writes ..
  · split
    · exact answer_writes ..
    · split
      · exact answer_writes ..
      · split
        · exact answer_writes ..
        · exact recordOnRequest_writes ..

theorem workArm_writes : PartWrites s.store (s.workArm n).store := by
  unfold State.workArm
  split
  · exact answer_writes ..
  · split
    · exact answer_writes ..
    · exact answer_writes { s with trace := _ } ..

theorem workDisarm_writes : PartWrites s.store (s.workDisarm n).store := by
  unfold State.workDisarm
  dsimp only
  split
  · exact (disarm_writes s).answer ..
  · exact (disarm_writes s).answer ..

theorem workTraceNow_writes : PartWrites s.store (s.workTraceNow n).store := by
  unfold State.workTraceNow
  dsimp only
  split
  · exact answer_writes ..
  · split
    · exact answer_writes ..
    · split
      · exact answer_writes ..
      · have triggered : PartWrites s.store (s.trigger (s.requestTrigger (s.param n 2) (s.param n 3))).store := by
          simpa using PartWrites.refl s.store
        exact triggered.answer ..

theorem workZero_writes : PartWrites s.store (s.workZero n).store := by
  unfold State.workZero
  dsimp only
  split
  · exact answer_writes ..
  · have zeroed : PartWrites s.store
        (allHeads.foldl (fun t h => if selects (s.param n 2) h then t.setHead h (t.head h).zeroed else t) s).store :=
      PartWrites.fold _ (fun t h => by
        split
        · exact .refl _
        · exact .refl _) _ _
    exact zeroed.answer ..

end Works

/-! ## Every command -/

/-- What the part writes keeps the canonical form (R77). -/
theorem StoreCanonical.writes {s t : State} (hs : StoreCanonical s) (h : PartWrites s.store t.store) : StoreCanonical t := h.wf hs

section Canonical

variable {s : State} (hs : StoreCanonical s)
include hs

theorem StoreCanonical.endStarting (st : Stamp) : StoreCanonical { s.writeClosedPages st with run := .stopped } :=
  (writeClosedPages_writes s st).wf hs

theorem StoreCanonical.finishClose : StoreCanonical s.finishClose := hs.writes (finishClose_writes s)

theorem StoreCanonical.finishTick : StoreCanonical s.finishTick := hs.writes (finishTick_writes s)

theorem StoreCanonical.serve (isKind : Word → Bool) {work : State → Fin 8 → State}
    (hwork : ∀ t n, PartWrites t.store (work t n).store) : StoreCanonical (s.serve isKind work) :=
  hs.writes (serve_writes s isKind hwork)

/-- A RESTART clears all but the areas it keeps (R96). -/
theorem StoreCanonical.writeWctl (a0 : Bool) (data : Word) : StoreCanonical (s.writeWctl a0 data) := by
  have written : StoreCanonical (s.writeControl a0 data) := hs
  unfold State.writeWctl
  dsimp only
  split
  · exact wf_restrict _ _ written
  · exact written

/-- A host write stores one word or none (R84). -/
theorem StoreCanonical.writeWordAt (a : Nat) (v : Word) : StoreCanonical (s.writeWordAt a v) := by
  have stored : StoreCanonical (s.pokeWords a [v]) := wf_writeWords _ _ _ hs
  unfold State.writeWordAt
  split
  · exact stored
  · split
    · exact hs
    · exact stored
  · split
    · split
      · exact hs
      · exact stored
    · split
      · exact hs
      · exact hs
  · exact hs

theorem StoreCanonical.wdatWrite (data : Word) : StoreCanonical (s.wdatWrite data) := by
  unfold State.wdatWrite
  split
  · exact hs
  · split
    · exact hs
    · unfold State.writeAt
      dsimp only
      split
      · exact hs.writeWordAt _ data
      · split
        · exact hs
        · exact hs.writeWordAt (s.port.accessAddr.toNat - 1) _

theorem StoreCanonical.wdatRead : StoreCanonical s.wdatRead := by
  have store : s.wdatRead.store = s.store := by simp
  unfold StoreCanonical
  rwa [store]

theorem StoreCanonical.receiveAll (chars : List PairChar) : StoreCanonical (s.receiveAll chars) := by
  have store : (s.receiveAll chars).store = s.store := by simp
  unfold StoreCanonical
  rwa [store]

end Canonical

/-- Every next state of this outcome has its store in canonical form. -/
def LandsCanonical (o : Host.Outcome State Fault Refusal) : Prop := ∀ t, o = .next t → StoreCanonical t

theorem LandsCanonical.next {t : State} (ht : StoreCanonical t) : LandsCanonical (.next t) := by
  rintro _ ⟨⟩
  exact ht

theorem LandsCanonical.ite {p : Prop} [Decidable p] {o o' : Host.Outcome State Fault Refusal} (ho : LandsCanonical o)
    (ho' : LandsCanonical o') : LandsCanonical (if p then o else o') := by
  split
  · exact ho
  · exact ho'

theorem exec_landsCanonical {s : State} (hs : StoreCanonical s) (c : Instr) : LandsCanonical (exec c s) := by
  have begun := beginTick_canonical hs
  have closed := hs.finishClose
  have finished := hs.finishTick
  cases c with
  | pinReset pin =>
    cases pin with
    | low => exact .next finished
    | high wide => exact .next wf_reset
  | endOfStarting => exact .ite (.next (finished.endStarting _)) (.next finished)
  | restart data => exact .ite (.next finished) (.next (finished.writeWctl ..))
  | registerWrite reg a0 data =>
    cases reg with
    | wadr => exact .ite (.next finished) (.next finished)
    | wctl => exact .ite (.next finished) (.next (finished.writeWctl ..))
  | ntcWrite a0 data => exact .ite (.next closed) (.next (closed.writes (by simpa using .refl _)))
  | wdatRead => exact .next closed.wdatRead
  | wdatWrite data => exact .next (closed.wdatWrite data)
  | tickEvent => exact .next begun.finishTick
  | frame chars => exact .next (finished.receiveAll chars)
  | joinComplete h => exact .ite (.next (begun.writes (closeHead_writes _ h))) (.next hs)
  | headLost h => exact .ite (.next (begun.writes (closeHead_writes _ h))) (.next hs)
  | calibrationComplete h =>
    exact .ite (.next (StoreCanonical.writes (atMark_canonical hs) (completeCalibration_writes _ h))) (.next hs)
  | captureComplete => exact .ite (.next (begun.writes ((closeTick_writes _).trans (captureStage_writes _)))) (.next hs)
  | secondClose => exact .ite (.next begun.finishClose) (.next hs)
  | periodEnd => exact .ite (.next (begun.finishClose.writes (periodStage_writes _))) (.next hs)
  | start => exact .next (finished.serve _ workStart_writes)
  | stop => exact .next ((hs.writes (finishBeforeMark_writes s)).serve _ workStop_writes)
  | park => exact .next ((hs.writes (finishBeforeMark_writes s)).serve _ workPark_writes)
  | unpark => exact .next (finished.serve _ workUnpark_writes)
  | setClock => exact .next (closed.serve _ workSetClock_writes)
  | adoptLimits => exact .next (closed.serve _ workAdopt_writes)
  | calibrate => exact .next (closed.serve _ workCalibrate_writes)
  | loadTrim => exact .next (closed.serve _ workLoadTrim_writes)
  | snapshot => exact .next (hs.serve _ workSnapshot_writes)
  | dumpHistogram => exact .next (hs.serve _ workDump_writes)
  | armTrace => exact .next (closed.serve _ workArm_writes)
  | disarmTrace => exact .next (closed.serve _ workDisarm_writes)
  | traceNow => exact .next (closed.serve _ workTraceNow_writes)
  | zeroHeadCounters => exact .next (closed.serve _ workZero_writes)
  | unknownKindRequest => exact .next (closed.serve _ fun t n => answer_writes t n _ _ _)

/-- Settles O54: the part writes runs of words, the host one word, a RESTART clears areas, and each keeps the canonical form. -/
theorem stepKeepsStoreCanonical : Obligations.StepKeepsStoreCanonical := by
  intro s t hs ht
  unfold step at ht
  split at ht
  · exact LandsCanonical.next hs t ht
  · next c rest _ =>
    have dequeued : StoreCanonical { s with pending := rest } := hs
    exact exec_landsCanonical dequeued c t ht

end Sys2Proof.Machine
end

section
/-! PROOFS. Every step keeps the arrival lists without duplicates and a capture within its slot (R90, R149, R155, R157, R159): the
invariant as one predicate per shelf, one lemma per operation in the order of the model, and the step at the end. -/

namespace Sys2Proof.Machine

open Sys2Proof

/-! ## The trace unit by itself -/

/-- A capture can still be written into its slot, which is not listed, in a tick event that stands at this stage (R155, R159). -/
structure CaptureInOrder (stage : TickStage) (listed : List (Fin 2)) (c : Capture) : Prop where
  slot : c.slot ∉ listed
  samples : c.captured + c.postCounter ≤ 440
  counter : c.postCounter = 0 → stage = .closed
  pre : c.preCount ≤ 64
  scope : c.scope.length ≤ 4
  lengths : ∀ x ∈ c.scope, x.pre.length = c.preCount ∧ x.post.length = c.captured

/-- The trace settings stand in their ranges (R149, R150). -/
structure SettingsInRange (x : TraceSettings) : Prop where
  pre : x.pre ≤ 64
  postPositive : 1 ≤ x.post
  post : x.post ≤ 440

/-- The trace unit's list, settings and capture are in order, in a tick event that stands at this stage. -/
structure TraceInOrder (stage : TickStage) (u : TraceUnit) : Prop where
  list : u.list.Nodup
  settings : SettingsInRange u.settings
  capture : ∀ c, u.mode = .capturing c → CaptureInOrder stage u.list c

section Trace

variable {stage : TickStage} {listed : List (Fin 2)} {c : Capture}

/-- A retrigger leaves a post sample to take unless the capture has all of its samples (R157). -/
theorem CaptureInOrder.retriggered (hc : CaptureInOrder stage listed c) {post : Nat} (hpost : 1 ≤ post) :
    CaptureInOrder stage listed (c.retriggered post) :=
  { hc with
    samples := by
      have := hc.samples
      simp only [Capture.retriggered]
      omega
    counter := fun hzero => by
      have := hc.samples
      simp only [Capture.retriggered] at hzero
      exact hc.counter (by omega) }

/-- A head that leaves ACTIVE keeps its samples in the capture (R156). -/
theorem CaptureInOrder.departing (hc : CaptureInOrder stage listed c) (left : Nat → Bool) :
    CaptureInOrder stage listed (c.departing left) :=
  { hc with
    scope := by
      simp only [Capture.departing, List.length_map]
      exact hc.scope
    lengths := fun x hx => by
      obtain ⟨y, hy, rfl⟩ := List.mem_map.mp hx
      exact hc.lengths y hy }

/-- A tick close takes one post sample of every scope head off the counter, which is not 0 before (R155). -/
theorem CaptureInOrder.sampled (hc : CaptureInOrder stage listed c) (hstage : stage ≠ .closed) (sample : ScopeHead → Level) :
    CaptureInOrder .closed listed { c with
      scope := c.scope.map (fun x => x.sampled (sample x)), postCounter := c.postCounter - 1, captured := c.captured + 1 } :=
  { hc with
    samples := by
      have := hc.samples
      have : c.postCounter ≠ 0 := fun hzero => hstage (hc.counter hzero)
      dsimp only
      omega
    counter := fun _ => rfl
    scope := by
      dsimp only
      rw [List.length_map]
      exact hc.scope
    lengths := fun x hx => by
      obtain ⟨y, hy, rfl⟩ := List.mem_map.mp hx
      obtain ⟨before, after⟩ := hc.lengths y hy
      exact ⟨before, by simp [ScopeHead.sampled, after]⟩ }

theorem length_preSamples (pre : Nat) (history : List Level) : (preSamples pre history).length = pre := by
  simp only [preSamples, List.length_append, List.length_replicate, List.length_drop]
  omega

/-- A capture's scope is one head, or the members of a receptor, at most four (R100, R154). -/
theorem length_scopeHeads (s : State) (x : Trigger) : (scopeHeads s x).length ≤ 4 := by
  unfold scopeHeads
  split
  · simp [members]
  · simp

theorem newCapture_inOrder {s : State} (hsettings : SettingsInRange s.trace.settings) {n : Fin 2} (hn : n ∉ s.trace.list)
    (x : Trigger) : CaptureInOrder s.stage s.trace.list (newCapture s x n) where
  slot := hn
  samples := by simpa [newCapture] using hsettings.post
  counter hzero := absurd hzero (Nat.one_le_iff_ne_zero.mp hsettings.postPositive)
  pre := hsettings.pre
  scope := by simpa [newCapture] using length_scopeHeads s x
  lengths y hy := by
    obtain ⟨h, -, rfl⟩ := List.mem_map.mp hy
    exact ⟨length_preSamples _ _, rfl⟩

variable {u : TraceUnit} (hu : TraceInOrder stage u)
include hu

theorem TraceInOrder.setMode {m : TraceMode} (hm : ∀ c, m = .capturing c → CaptureInOrder stage u.list c) :
    TraceInOrder stage { u with mode := m } :=
  { hu with capture := hm }

/-- Only while a tick has just closed can a capture have no sample left to take (R155, R159). -/
theorem TraceInOrder.atStage (hstage : stage ≠ .closed) (x : TickStage) : TraceInOrder x u :=
  { hu with
    capture := fun c hc => { hu.capture c hc with counter := fun hzero => absurd ((hu.capture c hc).counter hzero) hstage } }

theorem TraceInOrder.departing (left : Nat → Bool) : TraceInOrder stage { u with mode := u.mode.departing left } :=
  hu.setMode fun c hc => by
    cases hm : u.mode with
    | capturing d =>
      rw [hm] at hc
      obtain rfl := TraceMode.capturing.inj hc
      exact (hu.capture d hm).departing left
    | armed => simp [hm, TraceMode.departing] at hc
    | disarmed => simp [hm, TraceMode.departing] at hc

/-- A released slot leaves the list (R90, R161). -/
theorem TraceInOrder.erase (n : Fin 2) : TraceInOrder stage { u with list := u.list.erase n } :=
  { hu with
    list := hu.list.erase n
    capture := fun c hc => { hu.capture c hc with slot := fun hin => (hu.capture c hc).slot (List.mem_of_mem_erase hin) } }

end Trace

/-- A slot that is not listed joins the list at its end (R90). -/
theorem nodup_append_slot {k : Nat} {listed : List (Fin k)} (hl : listed.Nodup) {n : Fin k} (hn : n ∉ listed) :
    (listed ++ [n]).Nodup :=
  List.concat_eq_append ▸ hl.concat hn

theorem not_mem_of_lowestFree {k : Nat} {filled : List (Fin k)} {n : Fin k} (hn : lowestFree filled = some n) : n ∉ filled := by
  simpa using List.find?_some hn

/-! ## The invariant -/

/-- The arrival lists and the trace unit are in order. -/
structure Shelved (s : State) : Prop where
  events : s.events.list.Nodup
  records : s.records.list.Nodup
  trace : TraceInOrder s.stage s.trace

theorem shelvesInOrder_iff {s : State} : ShelvesInOrder s ↔ Shelved s := by
  constructor
  · rintro ⟨events, records, list, pre, postPositive, post, fits⟩
    refine ⟨events, records, list, ⟨pre, postPositive, post⟩, fun c hc => ?_⟩
    obtain ⟨slot, samples, counter, pre, scope, lengths⟩ := fits c hc
    exact ⟨slot, samples, counter, pre, scope, lengths⟩
  · rintro ⟨events, records, list, ⟨pre, postPositive, post⟩, capture⟩
    refine ⟨events, records, list, pre, postPositive, post, fun c hc => ?_⟩
    obtain ⟨slot, samples, counter, pre, scope, lengths⟩ := capture c hc
    exact ⟨slot, samples, counter, pre, scope, lengths⟩

namespace Shelved

variable {s : State}

/-- The shelves look at no other part of the state. -/
theorem of_eq {t : State} (hs : Shelved s) (events : t.events = s.events := by simp) (records : t.records = s.records := by simp)
    (trace : t.trace = s.trace := by simp) (stage : t.stage = s.stage := by simp) : Shelved t where
  events := by rw [events]; exact hs.events
  records := by rw [records]; exact hs.records
  trace := by rw [trace, stage]; exact hs.trace

/-- What changes only which heads of a capture have left ACTIVE. -/
theorem of_departing {t : State} (hs : Shelved s) {left : Nat → Bool}
    (trace : t.trace = { s.trace with mode := s.trace.mode.departing left }) (events : t.events = s.events := by simp)
    (records : t.records = s.records := by simp) (stage : t.stage = s.stage := by simp) : Shelved t where
  events := by rw [events]; exact hs.events
  records := by rw [records]; exact hs.records
  trace := by rw [trace, stage]; exact hs.trace.departing left

theorem setStage (hs : Shelved s) (hstage : s.stage ≠ .closed) (x : TickStage) : Shelved { s with stage := x } :=
  { hs with trace := hs.trace.atStage hstage x }

theorem setRun (hs : Shelved s) (r : RunState) : Shelved { s with run := r } := hs.of_eq

theorem raise (hs : Shelved s) (c : NoticeClass) : Shelved (s.raise c) := hs.of_eq

theorem answer (hs : Shelved s) (n : Fin 8) (c : AnswerCode) (d : Nat) (r : List Word) : Shelved (s.answer n c d r) := hs.of_eq

theorem endService (hs : Shelved s) : Shelved s.endService := hs.of_eq

/-! ## Shelves -/

theorem postRecord (hs : Shelved s) (kind : RecordKind) (body : List Word) {n : Fin 48} (hn : n ∉ s.records.list) :
    Shelved (s.postRecord kind body n) :=
  { hs with records := nodup_append_slot hs.records hn }

theorem handPeriodRecord (hs : Shelved s) (h : Fin 12) (body : Nat → List Word) : Shelved (s.handPeriodRecord h body) := by
  unfold State.handPeriodRecord
  split
  · exact { hs with }
  · next n hn =>
    have posted := hs.postRecord .period (body s.records.lost[h]) (not_mem_of_lowestFree hn)
    exact { posted with }

theorem postEvent (hs : Shelved s) (e : EventData) : Shelved (s.postEvent e) := by
  unfold State.postEvent
  split
  · exact { hs with }
  · next n hn => exact { hs with events := nodup_append_slot hs.events (not_mem_of_lowestFree hn) }

/-- A release takes a slot from its list at most (R88, R89). -/
theorem release (hs : Shelved s) (r : Release) : Shelved (s.release r) := by
  cases r with
  | answer n => exact hs.of_eq (by simp [State.release]) (by simp [State.release]) (by simp [State.release])
  | event n =>
    have freed : Shelved { s with events := { s.events with list := s.events.list.erase n } } :=
      { hs with events := hs.events.erase n }
    unfold State.release State.releaseEvent
    dsimp only
    split
    · exact { freed with }
    · exact freed
  | record n =>
    have freed : Shelved { s with records := { s.records with list := s.records.list.erase n } } :=
      { hs with records := hs.records.erase n }
    unfold State.release State.releaseRecord
    dsimp only
    split
    · exact { freed with }
    · exact freed
  | trace n =>
    have freed : Shelved { s with trace := { s.trace with list := s.trace.list.erase n } } :=
      { hs with trace := hs.trace.erase n }
    unfold State.release State.releaseTrace
    dsimp only
    split
    · exact { freed with }
    · exact freed

/-! ## Trace unit -/

theorem setTraceMode (hs : Shelved s) {m : TraceMode} (hm : ∀ c, m = .capturing c → CaptureInOrder s.stage s.trace.list c) :
    Shelved (s.setTraceMode m) :=
  { hs with trace := hs.trace.setMode hm }

theorem missTrigger (hs : Shelved s) : Shelved s.missTrigger :=
  { hs with trace := { hs.trace with } }

/-- A trigger starts a capture in a slot that is not listed, or retriggers the one in progress (R153, R154, R157, R158). -/
theorem trigger (hs : Shelved s) (x : Trigger) : Shelved (s.trigger x) := by
  unfold State.trigger
  split
  · exact hs
  · exact hs.missTrigger
  · next n hstarted =>
    have free : lowestFree s.trace.list = some n := by
      unfold State.triggerOutcome at hstarted
      split at hstarted
      · split at hstarted
        · cases hstarted
        · split at hstarted
          · next m hm =>
            obtain rfl := TriggerOutcome.started.inj hstarted
            exact hm
          · cases hstarted
        · split at hstarted <;> cases hstarted
      · cases hstarted
    refine hs.setTraceMode fun c hc => ?_
    obtain rfl := TraceMode.capturing.inj hc
    exact newCapture_inOrder hs.trace.settings (not_mem_of_lowestFree free) x
  · split
    · next c hc =>
      refine hs.setTraceMode fun d hd => ?_
      obtain rfl := TraceMode.capturing.inj hd
      exact (hs.trace.capture c hc).retriggered hs.trace.settings.postPositive
    · exact hs

/-- The samples of a tick close bring the tick event to where a counter may have come to 0 (R155). -/
theorem takeSamples (hs : Shelved s) (hstage : s.stage ≠ .closed) : Shelved { s.takeSamples with stage := .closed } := by
  have trace : TraceInOrder .closed s.takeSamples.trace := by
    by_cases hcapturing : ∃ c, s.trace.mode = .capturing c
    · obtain ⟨c, hc⟩ := hcapturing
      rw [takeSamples_items, takeSamples_of_capturing hc]
      refine (hs.trace.atStage hstage .closed).setMode fun d hd => ?_
      obtain rfl := TraceMode.capturing.inj hd
      exact (hs.trace.capture c hc).sampled hstage fun x => s.tickSample x.head
    · rw [takeSamples_of_idle fun c hc => hcapturing ⟨c, hc⟩]
      exact hs.trace.atStage hstage .closed
  exact ⟨by simpa using hs.events, by simpa using hs.records, trace⟩

/-- A capture that completes is listed and is no longer in progress, so that any stage may follow (R159, R160). -/
theorem completeCapture (hs : Shelved s) {c : Capture} (hc : s.trace.mode = .capturing c) (truncated : Bool) {m : TraceMode}
    (hm : ∀ d, m ≠ .capturing d) (x : TickStage) : Shelved { s.completeCapture c truncated m with stage := x } where
  events := by simpa using hs.events
  records := by simpa using hs.records
  trace := by
    have trace := completeCapture_trace s c truncated m
    generalize s.completeCapture c truncated m = t at trace
    dsimp only
    rw [trace]
    exact ⟨nodup_append_slot hs.trace.list (hs.trace.capture c hc).slot, hs.trace.settings, fun d hd => absurd hd (hm d)⟩

/-- Past the place of its completion a capture in progress has samples to take (R159). -/
theorem completeIfDue (hs : Shelved s) : Shelved { s.completeIfDue with stage := .captured } := by
  have after : ∀ d, s.modeAfterCapture ≠ .capturing d := fun d => by
    unfold State.modeAfterCapture
    split <;> simp
  unfold State.completeIfDue
  split
  · next c hc =>
    split
    · exact hs.completeCapture hc false after .captured
    · next hcounter =>
      refine { hs with trace := { hs.trace with capture := fun d hd => ?_ } }
      obtain rfl : c = d := TraceMode.capturing.inj (hc.symm.trans hd)
      exact { hs.trace.capture c hc with counter := fun hzero => absurd hzero hcounter }
  · next hidle => exact { hs with trace := { hs.trace with capture := fun d hd => absurd hd (hidle d) } }

/-- Where the trace unit has been stopped no capture is in progress (R151, R160). -/
theorem stopTrace (hs : Shelved s) {t : State} (ht : TraceStopped s t) : Shelved t := by
  have list : t.trace.list.Nodup := by
    by_cases hcapturing : ∃ c, s.trace.mode = .capturing c
    · obtain ⟨c, hc⟩ := hcapturing
      rw [(ht.truncated c hc).list]
      exact nodup_append_slot hs.trace.list (hs.trace.capture c hc).slot
    · rw [ht.kept fun c hc => hcapturing ⟨c, hc⟩]
      exact hs.trace.list
  have trace : TraceInOrder t.stage t.trace :=
    ⟨list, by rw [ht.settings]; exact hs.trace.settings, fun c hc => absurd hc (ht.idle c)⟩
  have events : t.events = s.events := by rw [ht.frame]
  have records : t.records = s.records := by rw [ht.frame]
  exact ⟨by rw [events]; exact hs.events, by rw [records]; exact hs.records, trace⟩

theorem disarm (hs : Shelved s) : Shelved s.disarm := hs.stopTrace (disarm_stops s)

/-! ## Channels and heads -/

theorem setChannel (hs : Shelved s) (h : Fin 12) (x : Channel) : Shelved (s.setChannel h x) := hs.of_eq

theorem closeChannel (hs : Shelved s) (h : Fin 12) (cut : Bool) (actual : Nat) : Shelved (s.closeChannel h cut actual) :=
  (hs.handPeriodRecord h _).setChannel h _

theorem completeCalibration (hs : Shelved s) (h : Fin 12) : Shelved (s.completeCalibration h) := hs.of_eq

theorem settleHead (hs : Shelved s) (h : Fin 12) : Shelved (s.settleHead h) := hs.of_departing (settleHead_trace s h)

theorem leaveAtMark (hs : Shelved s) (h : Fin 12) : Shelved (s.leaveAtMark h) := by
  unfold State.leaveAtMark
  split
  · exact hs.of_departing (forgetActive_trace s h)
  · have aborted : Shelved (s.abortCalibration h .headLost) := hs.of_eq
    exact aborted.of_departing (forgetActive_trace _ h)

theorem disableAtMark (hs : Shelved s) (h : Fin 12) : Shelved (s.disableAtMark h) := by
  have left : Shelved (if (s.head h).state = .active then s.leaveAtMark h else s) := by
    split
    · exact hs.leaveAtMark h
    · exact hs
  unfold State.disableAtMark
  generalize (if (s.head h).state = .active then s.leaveAtMark h else s) = t at left
  have off : Shelved (t.setHead h ((t.head h).restarted .off)) := left.of_eq
  dsimp only
  split
  · exact (off.closeChannel h true _).setChannel h _
  · exact off

theorem markHead (hs : Shelved s) (h : Fin 12) : Shelved (s.markHead h) := by
  unfold State.markHead
  split
  · split
    · exact hs.of_eq
    · exact hs
  · split
    · exact hs
    · exact hs.disableAtMark h

theorem stopHeads (hs : Shelved s) : Shelved s.stopHeads :=
  List.foldlRecOn _ _ hs fun t ht h _ => ht.of_departing (stopHead_trace t h)

/-! ## Evaluator and periods -/

theorem raiseRule (hs : Shelved s) (kind : TriggerKind) (n : Fin 24) (best : Nat × Nat) (flags : CompareFlags) (closed : Clock) :
    Shelved (s.raiseRule kind n best flags closed) := by
  have posted := hs.postEvent (s.ruleEvent kind n best flags closed)
  unfold State.raiseRule
  dsimp only
  split
  · exact posted.trigger _
  · exact posted

theorem setRule (hs : Shelved s) (n : Fin 24) (x : RuleState) : Shelved (s.setRule n x) := hs.of_eq

theorem evalInstant (hs : Shelved s) (n : Fin 24) (m : Metric) (closed : Clock) : Shelved (s.evalInstant n m closed) := by
  unfold State.evalInstant
  dsimp only
  split
  · split
    · exact hs
    · split
      · exact (hs.setRule n _).raiseRule ..
      · exact hs.setRule n _
  · exact hs

theorem evalCertain (hs : Shelved s) (n : Fin 24) (closed : Clock) : Shelved (s.evalCertain n closed) := by
  unfold State.evalCertain
  dsimp only
  split
  · split
    · exact hs
    · split
      · exact (hs.setRule n _).raiseRule ..
      · exact hs
  · exact hs

theorem evalAtSecond (hs : Shelved s) (closed : Clock) (n : Fin 24) : Shelved (State.evalAtSecond closed s n) := by
  unfold State.evalAtSecond
  split
  · split
    · exact hs.evalInstant ..
    · exact hs.evalInstant ..
    · split
      · exact hs.evalCertain ..
      · exact hs
    · exact hs
  · exact hs

theorem evalSecond (hs : Shelved s) (closed : Clock) : Shelved (s.evalSecond closed) :=
  List.foldlRecOn _ _ hs fun _ ht n _ => ht.evalAtSecond closed n

theorem evalAtPeriod (hs : Shelved s) (pre : State) (actual : Nat) (closed : Clock) (n : Fin 24) :
    Shelved (State.evalAtPeriod pre actual closed s n) := by
  unfold State.evalAtPeriod
  dsimp only
  split
  · split
    · exact hs
    · split
      · split
        · exact hs
        · split
          · exact (hs.setRule n _).raiseRule ..
          · exact hs.setRule n _
      · exact hs
  · exact hs

theorem evalPeriod (hs : Shelved s) (pre : State) (actual : Nat) (closed : Clock) : Shelved (s.evalPeriod pre actual closed) :=
  List.foldlRecOn _ _ hs fun _ ht n _ => ht.evalAtPeriod pre actual closed n

theorem closeChannels (hs : Shelved s) (cut : Bool) (actual : Nat) : Shelved (s.closeChannels cut actual) :=
  List.foldlRecOn _ _ hs fun _ ht h _ => by
    split
    · exact ht.closeChannel h cut actual
    · exact ht

theorem completeAdoption (hs : Shelved s) (kind : EndKind) : Shelved (s.completeAdoption kind) := hs.of_eq

theorem endPeriod (hs : Shelved s) (kind : EndKind) (actual : Nat) (closed : Clock) : Shelved (s.endPeriod kind actual closed) := by
  have ended := hs.closeChannels (decide (kind = .cut)) actual
  unfold State.endPeriod
  generalize s.closeChannels (decide (kind = .cut)) actual = t at ended
  have judged : Shelved (if kind = .aligned then t.evalPeriod s actual closed else t) := by
    split
    · exact ended.evalPeriod ..
    · exact ended
  dsimp only
  generalize (if kind = .aligned then t.evalPeriod s actual closed else t) = u at judged
  have cleared : Shelved { u.clearLatches with period := { u.clearLatches.period with isOpen := false } } := judged.of_eq
  exact cleared.completeAdoption kind

theorem beginPeriod (hs : Shelved s) (fresh : Bool) : Shelved (s.beginPeriod fresh) := hs.of_eq

theorem setClock (hs : Shelved s) (c : Clock) : Shelved { s with clock := c } := hs.of_eq

theorem replaceStep (hs : Shelved s) (x : ClockSetting) : Shelved (s.replaceStep x) := by
  have ended := hs.endPeriod .cut (lengthThrough s.period s.clock.second) s.clock
  unfold State.replaceStep
  dsimp only
  generalize s.endPeriod .cut (lengthThrough s.period s.clock.second) s.clock = t at ended
  have set : Shelved { t with clock := Clock.setTo x.day x.second x.weekday, clockSetting := none } := ended.of_eq
  exact (set.beginPeriod false).answer ..

/-! ## The tick event -/

theorem beginTick (hs : Shelved s) : Shelved s.beginTick := by
  unfold State.beginTick
  split
  · next hidle =>
    have between : s.stage ≠ .closed := by rw [hidle]; simp
    split
    · split
      · split
        · have ended : Shelved s.endCollection := hs.of_eq
          exact ended.setStage (by simpa using between) _
        · exact hs.setStage between _
      · exact hs.setClock _
    · exact hs
  · exact hs

theorem closeHead (hs : Shelved s) (h : Fin 12) : Shelved (s.closeHead h) := by
  unfold State.closeHead
  split
  · next todo hclosing => exact (hs.settleHead h).setStage (by simp [hclosing]) _
  · exact hs

theorem closeTick (hs : Shelved s) : Shelved s.closeTick := by
  unfold State.closeTick
  split
  · next todo hclosing =>
    have settled : Shelved (todo.foldl State.settleHead s) := List.foldlRecOn _ _ hs fun _ ht h _ => ht.settleHead h
    have stage : (todo.foldl State.settleHead s).stage = s.stage := foldl_keep State.stage _ (fun t h => by simp) todo s
    exact settled.takeSamples (by rw [stage, hclosing]; simp)
  · exact hs

theorem captureStage (hs : Shelved s) : Shelved s.captureStage := by
  unfold State.captureStage
  split
  · exact hs.completeIfDue
  · exact hs

theorem closeSecond (hs : Shelved s) : Shelved s.closeSecond := by
  have pages : Shelved (s.examineNote.writePages { day := s.clock.day, second := s.clock.second }) := hs.of_eq
  have judged := pages.evalSecond s.clock
  unfold State.closeSecond
  dsimp only
  generalize (s.examineNote.writePages { day := s.clock.day, second := s.clock.second }).evalSecond s.clock = t at judged
  exact judged.of_eq

theorem secondStage (hs : Shelved s) : Shelved s.secondStage := by
  have second := hs.closeSecond
  have stage : s.closeSecond.stage = s.stage := by simp
  unfold State.secondStage
  dsimp only
  generalize s.closeSecond = t at second stage
  split
  · next hcaptured =>
    split
    · have between : t.stage ≠ .closed := by rw [stage, hcaptured]; simp
      split
      · next x _ => exact (second.replaceStep x).setStage (by simpa using between) _
      · exact second.setStage between _
    · exact hs.setStage (by rw [hcaptured]; simp) _
  · exact hs

theorem periodStage (hs : Shelved s) : Shelved s.periodStage := by
  unfold State.periodStage
  split
  · next hsecond => exact hs.setStage (by rw [hsecond]; simp) _
  · next hsecond =>
    have stepped := hs.setClock s.clock.step
    have stage : ({ s with clock := s.clock.step } : State).stage ≠ .closed := by simp [hsecond]
    dsimp only
    generalize ({ s with clock := s.clock.step } : State) = t at stepped stage
    split
    · exact (stepped.beginPeriod true).setStage (by simpa using stage) .stepped
    · split
      · exact ((stepped.endPeriod ..).beginPeriod false).setStage (by simpa using stage) .stepped
      · exact stepped.setStage stage .stepped
  · exact hs

theorem markStage (hs : Shelved s) : Shelved s.markStage := by
  have marked : Shelved (allHeads.foldl State.markHead s) := List.foldlRecOn _ _ hs fun _ ht h _ => ht.markHead h
  have stage : (allHeads.foldl State.markHead s).stage = s.stage := foldl_keep State.stage _ (fun t h => by simp) _ s
  unfold State.markStage
  generalize allHeads.foldl State.markHead s = t at marked stage
  split
  · next hstepped => exact (marked.setStage (by rw [stage, hstepped]; simp) .marked).of_eq
  · exact hs

theorem calibrationStage (hs : Shelved s) : Shelved s.calibrationStage := by
  have completed : Shelved (allHeads.foldl State.completeCalibration s) :=
    List.foldlRecOn _ _ hs fun _ ht h _ => ht.completeCalibration h
  have stage : (allHeads.foldl State.completeCalibration s).stage = s.stage :=
    foldl_keep State.stage _ (fun t h => by simp) _ s
  unfold State.calibrationStage
  generalize allHeads.foldl State.completeCalibration s = t at completed stage
  split
  · next hmarked => exact completed.setStage (by rw [stage, hmarked]; simp) .idle
  · exact hs

theorem finishClose (hs : Shelved s) : Shelved s.finishClose := hs.closeTick.captureStage.secondStage

theorem finishTick (hs : Shelved s) : Shelved s.finishTick := hs.finishClose.periodStage.markStage.calibrationStage

theorem finishBeforeMark (hs : Shelved s) : Shelved s.finishBeforeMark := hs.finishClose.periodStage.calibrationStage

/-! ## Resets and port -/

theorem pinReset (s : State) (wide : Bool) : Shelved (s.pinReset wide) :=
  ⟨List.nodup_nil, List.nodup_nil, List.nodup_nil, ⟨Nat.zero_le _, Nat.le_refl _, (by decide : 1 ≤ 440)⟩, nofun⟩

theorem restartPart (s : State) : Shelved s.restartPart := (pinReset s true).of_eq rfl rfl rfl rfl

theorem writeWctl (hs : Shelved s) (a0 : Bool) (data : Word) : Shelved (s.writeWctl a0 data) := by
  have written : Shelved (s.writeControl a0 data) := hs.of_eq
  unfold State.writeWctl
  dsimp only
  split
  · exact restartPart _
  · exact written

theorem releaseUnlessPeek (hs : Shelved s) (r : Option Release) : Shelved (s.releaseUnlessPeek r) := by
  unfold State.releaseUnlessPeek
  split
  · exact hs
  · split
    · exact hs
    · exact hs.release _

theorem readAt (hs : Shelved s) (a : Nat) : Shelved (s.readAt a) := by
  unfold State.readAt
  split
  · have driven : Shelved (s.drive (.word (s.hostWord a))) := hs.of_eq
    exact driven.releaseUnlessPeek _
  · split
    · exact hs.of_eq
    · have driven : Shelved { s.drive (.byte (((s.oddSource (a - 1)).1 >>> 8).setWidth 8)) with
          port := { (s.drive (.byte (((s.oddSource (a - 1)).1 >>> 8).setWidth 8))).port with readLatch := none } } := hs.of_eq
      exact driven.releaseUnlessPeek _

theorem wdatRead (hs : Shelved s) : Shelved s.wdatRead := by
  unfold State.wdatRead
  split
  · exact hs.of_eq
  · split
    · exact hs.of_eq
    · exact (hs.readAt s.port.accessAddr.toNat).of_eq

/-! ## Requests -/

theorem serve (hs : Shelved s) (isKind : Word → Bool) {work : State → Fin 8 → State}
    (hwork : ∀ n, Shelved (s.take n) → Shelved (work (s.take n) n)) : Shelved (s.serve isKind work) := by
  unfold State.serve
  dsimp only
  split
  · exact hs
  · next n _ _ =>
    have taken : Shelved (s.take n) := hs.of_eq
    split
    · split
      · exact (taken.answer ..).endService
      · exact (hwork n taken).endService
    · exact hs

theorem workStart (hs : Shelved s) (n : Fin 8) : Shelved (s.workStart n) := by
  unfold State.workStart
  dsimp only
  split
  · exact hs.answer ..
  · split
    · exact hs.answer ..
    · have started : Shelved (State.startHeads { s.adopt with run := .measuring }) := hs.of_eq
      exact started.answer ..

theorem cutForStop (hs : Shelved s) : Shelved s.cutForStop := by
  unfold State.cutForStop
  split
  · exact hs.endPeriod ..
  · exact hs.completeAdoption _

/-- No tick has just closed where STOP and PARK stand, so that the tick can be abandoned (R172, R173, R178). -/
theorem stopMeasuring (hs : Shelved s) (hstage : s.stage ≠ .closed) {trace : State → State}
    (htrace : TraceStopped s.abandonTick (trace s.abandonTick)) : Shelved (s.stopMeasuring trace) := by
  have abandoned : Shelved s.abandonTick := (hs.setStage hstage .idle).of_eq
  have stopped := abandoned.stopTrace htrace
  unfold State.stopMeasuring
  generalize trace s.abandonTick = t at stopped
  have applied : Shelved t.cutForStop.applySetting := stopped.cutForStop.of_eq
  exact applied.stopHeads.of_eq

theorem workStop (hs : Shelved s) (hstage : s.stage ≠ .closed) (n : Fin 8) : Shelved (s.workStop n) := by
  unfold State.workStop
  dsimp only
  split
  · exact ((hs.stopMeasuring hstage (disarm_stops _)).setRun .stopped).answer ..
  · exact (hs.disarm.setRun .stopped).answer ..
  · exact hs.answer ..

theorem workPark (hs : Shelved s) (hstage : s.stage ≠ .closed) (n : Fin 8) : Shelved (s.workPark n) := by
  unfold State.workPark
  dsimp only
  split
  · exact ((hs.stopMeasuring hstage (parkTrace_stops _)).setRun .parked).answer ..
  · exact hs.answer ..

theorem workUnpark (hs : Shelved s) (n : Fin 8) : Shelved (s.workUnpark n) := by
  unfold State.workUnpark
  split
  · have started : Shelved (State.startHeads { s with run := .measuring }) := hs.of_eq
    exact started.answer ..
  · exact hs.answer ..

theorem workSetClock (hs : Shelved s) (n : Fin 8) : Shelved (s.workSetClock n) := by
  unfold State.workSetClock
  dsimp only
  split
  · exact hs.answer ..
  · split
    · exact hs.answer ..
    · split
      · split
        · exact hs.answer ..
        · exact hs.of_eq
      · exact (hs.setClock _).answer ..

theorem workAdopt (hs : Shelved s) (n : Fin 8) : Shelved (s.workAdopt n) := by
  unfold State.workAdopt
  split
  · exact hs.answer ..
  · split
    · exact hs.answer ..
    · split
      · exact hs.of_eq
      · have adopted : Shelved s.adopt := hs.of_eq
        exact adopted.answer ..

theorem workCalibrate (hs : Shelved s) (n : Fin 8) : Shelved (s.workCalibrate n) := by
  unfold State.workCalibrate
  dsimp only
  split
  · exact hs.answer ..
  · split
    · exact hs.answer ..
    · split
      · exact hs.answer ..
      · split
        · exact hs.answer ..
        · exact hs.of_eq

theorem workLoadTrim (hs : Shelved s) (n : Fin 8) : Shelved (s.workLoadTrim n) := by
  unfold State.workLoadTrim
  dsimp only
  split
  · exact hs.answer ..
  · next h _ =>
    split
    · exact hs.answer ..
    · split
      · exact hs.answer ..
      · have trimmed : Shelved (s.setTrim h (s.requestWord n 3).toInt) := hs.of_eq
        exact trimmed.answer ..

theorem recordOnRequest (hs : Shelved s) (n : Fin 8) (kind : RecordKind) (body : List Word) {m : Fin 48}
    (hm : lowestFree s.records.list = some m) : Shelved (s.recordOnRequest n kind body m) :=
  (hs.postRecord kind body (not_mem_of_lowestFree hm)).answer ..

theorem workSnapshot (hs : Shelved s) (n : Fin 8) : Shelved (s.workSnapshot n) := by
  unfold State.workSnapshot
  dsimp only
  split
  · exact hs.answer ..
  · split
    · exact hs.answer ..
    · split
      · exact hs.answer ..
      · next m hm => exact hs.recordOnRequest n .snapshot _ hm

theorem workDump (hs : Shelved s) (n : Fin 8) : Shelved (s.workDump n) := by
  unfold State.workDump
  split
  · exact hs.answer ..
  · split
    · exact hs.answer ..
    · split
      · exact hs.answer ..
      · split
        · exact hs.answer ..
        · next m hm => exact hs.recordOnRequest n .histogram _ hm

/-- R150's clamps are what keeps the trace settings in range. -/
theorem armSettings_inRange {n : Fin 8} {x : TraceSettings} (hx : s.armSettings n = .ok x) :
    SettingsInRange x := by
  unfold State.armSettings at hx
  dsimp only at hx
  split at hx
  · cases hx
  · split at hx
    · cases hx
    · split at hx
      · cases hx
      · obtain rfl := Except.ok.inj hx
        exact ⟨Nat.min_le_right _ _, Nat.le_max_left _ _, by dsimp only; omega⟩

theorem workArm (hs : Shelved s) (n : Fin 8) : Shelved (s.workArm n) := by
  unfold State.workArm
  split
  · exact hs.answer ..
  · split
    · exact hs.answer ..
    · next x hx =>
      have armed : Shelved { s with trace := { s.trace with mode := .armed, settings := x } } :=
        { hs with trace := ⟨hs.trace.list, armSettings_inRange hx, nofun⟩ }
      exact armed.answer ..

theorem workDisarm (hs : Shelved s) (n : Fin 8) : Shelved (s.workDisarm n) := by
  unfold State.workDisarm
  dsimp only
  split
  · exact hs.disarm.answer ..
  · exact hs.disarm.answer ..

theorem workTraceNow (hs : Shelved s) (n : Fin 8) : Shelved (s.workTraceNow n) := by
  unfold State.workTraceNow
  dsimp only
  split
  · exact hs.answer ..
  · split
    · exact hs.answer ..
    · split
      · exact hs.answer ..
      · exact (hs.trigger _).answer ..

theorem workZero (hs : Shelved s) (n : Fin 8) : Shelved (s.workZero n) := by
  unfold State.workZero
  dsimp only
  split
  · exact hs.answer ..
  · have zeroed : Shelved (allHeads.foldl (fun t h => if selects (s.param n 2) h then t.setHead h (t.head h).zeroed else t) s) :=
      List.foldlRecOn _ _ hs fun _ ht h _ => by
        split
        · exact ht.of_eq
        · exact ht
    exact zeroed.answer ..

end Shelved

/-! ## Every command -/

/-- Every next state of this outcome has its shelves in order. -/
def LandsShelved (o : Host.Outcome State Fault Refusal) : Prop := ∀ t, o = .next t → Shelved t

theorem LandsShelved.next {t : State} (ht : Shelved t) : LandsShelved (.next t) := by
  rintro _ ⟨⟩
  exact ht

theorem LandsShelved.ite {p : Prop} [Decidable p] {o o' : Host.Outcome State Fault Refusal} (ho : LandsShelved o)
    (ho' : LandsShelved o') : LandsShelved (if p then o else o') := by
  split
  · exact ho
  · exact ho'

/-- Where STOP and PARK stand no tick has just closed (R178). -/
theorem take_finishBeforeMark_stage (s : State) (n : Fin 8) : (s.finishBeforeMark.take n).stage ≠ .closed := by
  rw [take_stage, finishBeforeMark_stage]
  split <;> simp

theorem exec_landsShelved {s : State} (hs : Shelved s) (c : Instr) : LandsShelved (exec c s) := by
  have begun := hs.beginTick
  have closed := hs.finishClose
  have finished := hs.finishTick
  cases c with
  | pinReset pin =>
    cases pin with
    | low => exact .next { finished with }
    | high wide => exact .next (.pinReset s wide)
  | endOfStarting => exact .ite (.next (finished.of_eq)) (.next finished)
  | restart data => exact .ite (.next finished) (.next (finished.writeWctl ..))
  | registerWrite reg a0 data =>
    cases reg with
    | wadr => exact .ite (.next finished) (.next finished.of_eq)
    | wctl => exact .ite (.next finished) (.next (finished.writeWctl ..))
  | ntcWrite a0 data => exact .ite (.next closed) (.next closed.of_eq)
  | wdatRead => exact .next closed.wdatRead
  | wdatWrite data => exact .next closed.of_eq
  | tickEvent => exact .next begun.finishTick
  | frame chars => exact .next finished.of_eq
  | joinComplete h => exact .ite (.next (begun.closeHead h)) (.next hs)
  | headLost h => exact .ite (.next (begun.closeHead h)) (.next hs)
  | calibrationComplete h =>
    exact .ite (.next (begun.finishClose.periodStage.markStage.completeCalibration h)) (.next hs)
  | captureComplete => exact .ite (.next begun.closeTick.captureStage) (.next hs)
  | secondClose => exact .ite (.next begun.finishClose) (.next hs)
  | periodEnd => exact .ite (.next begun.finishClose.periodStage) (.next hs)
  | start => exact .next (finished.serve _ fun n ht => ht.workStart n)
  | stop => exact .next (hs.finishBeforeMark.serve _ fun n ht => ht.workStop (take_finishBeforeMark_stage s n) n)
  | park => exact .next (hs.finishBeforeMark.serve _ fun n ht => ht.workPark (take_finishBeforeMark_stage s n) n)
  | unpark => exact .next (finished.serve _ fun n ht => ht.workUnpark n)
  | setClock => exact .next (closed.serve _ fun n ht => ht.workSetClock n)
  | adoptLimits => exact .next (closed.serve _ fun n ht => ht.workAdopt n)
  | calibrate => exact .next (closed.serve _ fun n ht => ht.workCalibrate n)
  | loadTrim => exact .next (closed.serve _ fun n ht => ht.workLoadTrim n)
  | snapshot => exact .next (hs.serve _ fun n ht => ht.workSnapshot n)
  | dumpHistogram => exact .next (hs.serve _ fun n ht => ht.workDump n)
  | armTrace => exact .next (closed.serve _ fun n ht => ht.workArm n)
  | disarmTrace => exact .next (closed.serve _ fun n ht => ht.workDisarm n)
  | traceNow => exact .next (closed.serve _ fun n ht => ht.workTraceNow n)
  | zeroHeadCounters => exact .next (closed.serve _ fun n ht => ht.workZero n)
  | unknownKindRequest => exact .next (closed.serve _ fun n ht => ht.answer n _ _ _)

/-- Settles O58: the shelves and the capture in order are inductive as they stand. -/
theorem stepKeepsShelvesInOrder : Obligations.StepKeepsShelvesInOrder := by
  intro s t hs ht
  have hs := shelvesInOrder_iff.mp hs
  rw [shelvesInOrder_iff]
  unfold step at ht
  split at ht
  · exact LandsShelved.next hs t ht
  · next c rest _ =>
    have dequeued : Shelved { s with pending := rest } := { hs with }
    exact exec_landsShelved dequeued c t ht

end Sys2Proof.Machine
end

section
/-! PROOFS. The port registers (R78, R79, R81, R94, R95, R181): what a write of one byte or of the whole makes of a register, the
fields of WCTL and the classes of NTC as they are read and written. -/

namespace Sys2Proof.Machine

open Sys2Proof

/-! ## Bytes of a word -/

/-- The bits of a number made of a high part and a low byte. -/
theorem testBit_bytes (hi lo i : Nat) : (hi * 256 + lo % 256).testBit i = if i < 8 then lo.testBit i else hi.testBit (i - 8) := by
  have bits := Nat.testBit_two_pow_mul_add hi (b := lo % 256) (i := 8) (by omega) i
  rw [Nat.mul_comm, bits]
  split
  · next hi => rw [show 256 = 2 ^ 8 from rfl, Nat.testBit_mod_two_pow, decide_eq_true hi, Bool.true_and]
  · rfl

theorem getLsbD_ofNat_bytes {hi lo i : Nat} (hi16 : i < 16) : (BitVec.ofNat 16 (hi * 256 + lo % 256)).getLsbD i =
    if i < 8 then lo.testBit i else hi.testBit (i - 8) := by
  rw [BitVec.getLsbD_ofNat, decide_eq_true hi16, Bool.true_and, testBit_bytes]

theorem getLsbD_lowMask {i : Nat} (hi : i < 16) : (0x00FF : Word).getLsbD i = decide (i < 8) :=
  (by decide : ∀ i : Fin 16, (0x00FF : Word).getLsbD i.val = decide (i.val < 8)) ⟨i, hi⟩

theorem getLsbD_highMask {i : Nat} (hi : i < 16) : (0xFF00 : Word).getLsbD i = !decide (i < 8) :=
  (by decide : ∀ i : Fin 16, (0xFF00 : Word).getLsbD i.val = !decide (i.val < 8)) ⟨i, hi⟩

section Lanes

variable (data old : Word)

theorem mergeLanes_wide (a0 : Bool) : mergeLanes true a0 data old = data := rfl

/-- In 8-bit mode a write with A0 low replaces the low byte (R78). -/
theorem mergeLanes_low : mergeLanes false false data old = BitVec.ofNat 16 (old.toNat / 256 * 256 + data.toNat % 256) := by
  have lanes : mergeLanes false false data old = (old &&& (0xFF00 : Word)) ||| (data &&& (0x00FF : Word)) := rfl
  refine BitVec.eq_of_getLsbD_eq fun i hi => ?_
  rw [lanes, getLsbD_ofNat_bytes hi, BitVec.getLsbD_or, BitVec.getLsbD_and, BitVec.getLsbD_and, getLsbD_lowMask hi,
    getLsbD_highMask hi]
  split
  · next hlow => simp [hlow, BitVec.testBit_toNat]
  · next hhigh =>
    rw [show 256 = 2 ^ 8 from rfl, Nat.testBit_div_two_pow, BitVec.testBit_toNat, Nat.sub_add_cancel (Nat.not_lt.mp hhigh)]
    simp [hhigh]

/-- In 8-bit mode a write with A0 high replaces the high byte (R78). -/
theorem mergeLanes_high : mergeLanes false true data old = BitVec.ofNat 16 (data.toNat % 256 * 256 + old.toNat % 256) := by
  have lanes : mergeLanes false true data old = (old &&& (0x00FF : Word)) ||| data <<< 8 := rfl
  refine BitVec.eq_of_getLsbD_eq fun i hi => ?_
  rw [lanes, getLsbD_ofNat_bytes hi, BitVec.getLsbD_or, BitVec.getLsbD_and, BitVec.getLsbD_shiftLeft, getLsbD_lowMask hi]
  split
  · next hlow => simp [hlow, BitVec.testBit_toNat]
  · next hhigh =>
    rw [show 256 = 2 ^ 8 from rfl, Nat.testBit_mod_two_pow, BitVec.testBit_toNat, decide_eq_true (by omega : i - 8 < 8)]
    simp [hhigh, hi]

/-- The 16-bit register holds its bit 0 at 0 (R79). -/
theorem and_evenMask : data &&& 0xFFFE = data - BitVec.ofNat 16 (data.toNat % 2) := by
  have even : data &&& (0xFFFE : Word) = (data >>> 1) <<< 1 := by
    refine BitVec.eq_of_getLsbD_eq fun i hi => ?_
    have mask := (by decide : ∀ i : Fin 16, (0xFFFE : Word).getLsbD i.val = !decide (i.val < 1)) ⟨i, hi⟩
    simp only [BitVec.getLsbD_and, BitVec.getLsbD_shiftLeft, BitVec.getLsbD_ushiftRight, mask, hi, decide_true, Bool.true_and]
    cases i with
    | zero => simp
    | succ i => simp [Nat.add_comm]
  rw [even]
  refine BitVec.eq_of_toNat_eq ?_
  have := data.isLt
  simp only [BitVec.toNat_shiftLeft, BitVec.toNat_ushiftRight, Nat.shiftLeft_eq, Nat.shiftRight_eq_div_pow, BitVec.toNat_sub,
    BitVec.toNat_ofNat]
  omega

end Lanes

/-- A register read drives the whole word, or the byte that A0 selects (R78). -/
theorem laneData_byte (a0 : Bool) (v : Word) :
    laneData false a0 v = .byte (BitVec.ofNat 8 (if a0 then v.toNat / 256 else v.toNat)) := by
  have := v.isLt
  cases a0 with
  | false => exact congrArg PortData.byte (BitVec.eq_of_toNat_eq (by simp))
  | true =>
    refine congrArg PortData.byte (BitVec.eq_of_toNat_eq ?_)
    simp [Nat.shiftRight_eq_div_pow]

/-! ## WCTL -/

theorem code_ofCode {n : Nat} (hn : n < 4) : (StepMode.ofCode n).code = n := by
  interval_cases n <;> rfl

theorem ofCode_code (m : StepMode) : StepMode.ofCode m.code = m := by
  cases m <;> rfl

theorem stepMode_code_lt (m : StepMode) : m.code < 4 := by
  cases m <;> decide

theorem runState_code_lt (r : RunState) : r.code < 4 := by
  cases r <;> decide

section Wctl

variable (s : State)

theorem wctlValue_toNat : s.wctlValue.toNat =
    s.port.step.code + 4 * s.port.peek.toNat + 16 * s.run.code + 256 * s.notices.mask.toNat := by
  have step := stepMode_code_lt s.port.step
  have run := runState_code_lt s.run
  have mask := s.notices.mask.isLt
  have peek := Bool.toNat_le s.port.peek
  have four : (if s.port.peek then 4 else 0) = 4 * s.port.peek.toNat := by cases s.port.peek <;> rfl
  rw [State.wctlValue, word, BitVec.toNat_ofNat, four]
  omega

theorem wctlValue_mask {c : Nat} : s.wctlValue.toNat.testBit (8 + c) = s.notices.mask.getLsbD c := by
  have step := stepMode_code_lt s.port.step
  have run := runState_code_lt s.run
  have peek := Bool.toNat_le s.port.peek
  have bytes : s.wctlValue.toNat = s.notices.mask.toNat * 256 +
      (s.port.step.code + 4 * s.port.peek.toNat + 16 * s.run.code) % 256 := by
    rw [wctlValue_toNat]
    omega
  rw [bytes, testBit_bytes, if_neg (by omega), Nat.add_sub_cancel_left, BitVec.testBit_toNat]

theorem wctlValue_peek : s.wctlValue.getLsbD 2 = s.port.peek := by
  have step := stepMode_code_lt s.port.step
  rw [← BitVec.testBit_toNat, Nat.testBit_eq_decide_div_mod_eq, wctlValue_toNat]
  cases s.port.peek with
  | false => exact decide_eq_false (by simp only [Bool.toNat_false]; omega)
  | true => exact decide_eq_true (by simp only [Bool.toNat_true]; omega)

variable (a0 : Bool) (data : Word)

theorem writeControl_step : (s.writeControl a0 data).port.step.code = (mergeLanes s.port.wide a0 data s.wctlValue).toNat % 4 :=
  code_ofCode (Nat.mod_lt _ (by decide))

theorem writeControl_peek : (s.writeControl a0 data).port.peek = (mergeLanes s.port.wide a0 data s.wctlValue).getLsbD 2 := rfl

theorem writeControl_mask_lsb {c : Nat} (hc : c < 7) : (s.writeControl a0 data).notices.mask.getLsbD c =
    (mergeLanes s.port.wide a0 data s.wctlValue).getLsbD (8 + c) := by
  simp [State.writeControl, hc]

/-- A write that reaches the low byte sets step mode and PEEK (R81). -/
theorem writeControl_reached (hlow : s.port.wide = true ∨ a0 = false) :
    (s.writeControl a0 data).port.step.code = data.toNat % 4 ∧ (s.writeControl a0 data).port.peek = data.getLsbD 2 := by
  rw [writeControl_step, writeControl_peek]
  cases hwide : s.port.wide with
  | true => exact ⟨rfl, rfl⟩
  | false =>
    obtain rfl : a0 = false := hlow.resolve_left (by simp [hwide])
    rw [mergeLanes_low, BitVec.toNat_ofNat, getLsbD_ofNat_bytes (by omega)]
    exact ⟨by omega, BitVec.testBit_toNat data⟩

/-- A write of the high byte alone leaves step mode and PEEK as they are (R81). -/
theorem writeControl_unreached (hwide : s.port.wide = false) :
    (s.writeControl true data).port.step = s.port.step ∧ (s.writeControl true data).port.peek = s.port.peek := by
  have step := stepMode_code_lt s.port.step
  have code : (s.writeControl true data).port.step.code = s.port.step.code := by
    rw [writeControl_step, hwide, mergeLanes_high, BitVec.toNat_ofNat, wctlValue_toNat]
    omega
  refine ⟨?_, ?_⟩
  · rw [← ofCode_code (s.writeControl true data).port.step, code, ofCode_code]
  · rw [writeControl_peek, hwide, mergeLanes_high, getLsbD_ofNat_bytes (by omega), if_pos (by omega), BitVec.testBit_toNat,
      wctlValue_peek]

/-- The mask takes the written bits of the high byte, and is kept by a write of the low byte alone (R81). -/
theorem writeControl_mask {c : Nat} (hc : c < 7) : (s.writeControl a0 data).notices.mask.getLsbD c =
    if s.port.wide then data.getLsbD (8 + c) else if a0 then data.getLsbD c else s.notices.mask.getLsbD c := by
  rw [writeControl_mask_lsb s a0 data hc]
  cases hwide : s.port.wide with
  | true => rfl
  | false =>
    cases a0 with
    | false =>
      rw [mergeLanes_low, getLsbD_ofNat_bytes (by omega), if_neg (by omega), show 256 = 2 ^ 8 from rfl, Nat.testBit_div_two_pow,
        Nat.add_sub_cancel_left, Nat.add_comm, wctlValue_mask]
      rfl
    | true =>
      rw [mergeLanes_high, getLsbD_ofNat_bytes (by omega), if_neg (by omega), Nat.add_sub_cancel_left, show 256 = 2 ^ 8 from rfl,
        Nat.testBit_mod_two_pow, decide_eq_true (by omega : c < 8), BitVec.testBit_toNat]
      rfl

end Wctl

/-! ## Register writes -/

section Write

variable {s : State}

theorem exec_writeWadr (hs : Ready s) (a0 : Bool) (data : Word) :
    exec (.registerWrite .wadr a0 data) s = .next (s.writeWadr a0 data) := by
  simp [exec, execRegisterWrite, finishTick_of_ready hs, hs.2]

theorem exec_writeWctl (hs : Ready s) (a0 : Bool) (data : Word) :
    exec (.registerWrite .wctl a0 data) s = .next (s.writeWctl a0 data) := by
  simp [exec, execRegisterWrite, finishTick_of_ready hs, hs.2]

/-- A write of WCTL that carries no 1 to its RESTART field sets the fields alone (R81). -/
theorem writeWctl_of_plain {a0 : Bool} {data : Word}
    (hplain : restartBit data = false ∨ (s.port.wide = false ∧ a0 = true)) : s.writeWctl a0 data = s.writeControl a0 data := by
  refine if_neg ?_
  rcases hplain with hbit | ⟨hwide, rfl⟩
  · rw [show data.getLsbD 3 = false from hbit, Bool.and_false, Bool.false_and]
    exact Bool.false_ne_true
  · simp [writesLow, hwide]

end Write

/-- Settles O7: the register after a write is made of its bytes, and what is read is made of the fields. -/
theorem registerWriteSetsItsFields : Obligations.RegisterWriteSetsItsFields := by
  refine ⟨fun s a0 data hs => ?_, fun s a0 data hs hplain => ?_, fun s reg a0 hlow => ?_⟩
  · refine ⟨_, exec_writeWadr hs a0 data, rfl, fun hlow => if_neg (by simp [hlow]), fun hwide => ?_, fun hwide ha => ?_,
      fun hwide ha => ?_⟩
    · simp only [State.writeWadr, hwide, mergeLanes_wide, if_true, and_evenMask]
    · subst ha
      simp [State.writeWadr, hwide, mergeLanes_low]
    · subst ha
      simp [State.writeWadr, hwide, mergeLanes_high]
  · refine ⟨_, exec_writeWctl hs a0 data, ?_⟩
    rw [writeWctl_of_plain hplain]
    refine ⟨rfl, writeControl_reached s a0 data, fun hwide ha => ?_, fun c hc => writeControl_mask s a0 data hc⟩
    subst ha
    exact writeControl_unreached s data hwide
  · have wadr : s.readWadr = s.port.wadr := if_neg (by simp [hlow])
    have wctl : s.readWctl = s.wctlValue := if_neg (by simp [hlow])
    refine ⟨wadr, by rw [wctl, wctlValue_toNat], fun hwide => ?_, fun hwide => ?_⟩
    · cases reg <;> simp [State.readRegister, laneData, hwide]
    · cases reg <;> rw [State.readRegister, hwide, laneData_byte]

/-! ## NTC -/

/-- A class is shown on NOTICE# when it is pending and not masked (R94). -/
def Notices.shows (n : Notices) (c : Nat) : Bool := n.pending.getLsbD c && !n.mask.getLsbD c

theorem exists_class_number {i : Nat} (hi : i < 7) : ∃ c : NoticeClass, c.number = i := by
  interval_cases i
  exacts [⟨.head, rfl⟩, ⟨.event, rfl⟩, ⟨.record, rfl⟩, ⟨.trace, rfl⟩, ⟨.answer, rfl⟩, ⟨.link, rfl⟩, ⟨.port, rfl⟩]

theorem class_number_lt (c : NoticeClass) : c.number < 7 := by
  cases c <;> decide

/-- The top class is the lowest-numbered class that is shown, or 7 where none is (R94). -/
theorem top_cases (n : Notices) : (n.top = 7 ∧ ∀ c < 7, n.shows c = false) ∨
    (n.top < 7 ∧ n.shows n.top = true ∧ ∀ c < n.top, n.shows c = false) := by
  have top : n.top = ((List.range 7).find? n.shows).getD 7 := rfl
  cases hfound : (List.range 7).find? n.shows with
  | none =>
    rw [top, hfound]
    exact .inl ⟨rfl, fun c hc => by simpa using List.find?_eq_none.mp hfound c (List.mem_range.mpr hc)⟩
  | some c =>
    obtain ⟨shown, hc, below⟩ := List.find?_range_eq_some.mp hfound
    rw [top, hfound]
    exact .inr ⟨List.mem_range.mp hc, shown, fun d hd => by simpa using below d hd⟩

section Ntc

variable (s : State)

theorem top_le (n : Notices) : n.top ≤ 7 := by
  rcases top_cases n with ⟨none, -⟩ | ⟨some, -⟩ <;> omega

variable {s} (hlow : s.resetLow = false)
include hlow

theorem readNtc_toNat : s.readNtc.toNat = s.notices.top * 256 + s.notices.pending.toNat % 256 := by
  have pending := s.notices.pending.isLt
  have top := top_le s.notices
  rw [State.readNtc, if_neg (by simp [hlow]), word, BitVec.toNat_ofNat]
  omega

/-- Bits 6..0 of NTC are the pending flags, and bit 7 reads 0 (R95). -/
theorem readNtc_pending {i : Nat} (hi : i < 8) : s.readNtc.getLsbD i = s.notices.pending.getLsbD i := by
  rw [← BitVec.testBit_toNat, readNtc_toNat hlow, testBit_bytes, if_pos hi, BitVec.testBit_toNat]

theorem readNtc_top : s.readNtc.toNat / 256 = s.notices.top := by
  rw [readNtc_toNat hlow]
  omega

theorem noticeLow_iff : s.noticeLow = true ↔ ∃ c : NoticeClass, s.notices.shows c.number = true := by
  rw [State.noticeLow, hlow, Bool.not_false, Bool.true_and, decide_eq_true_eq]
  rcases top_cases s.notices with ⟨none, quiet⟩ | ⟨some, shown, -⟩
  · exact ⟨fun hne => absurd none hne, fun ⟨c, hc⟩ => by simp [quiet c.number (class_number_lt c)] at hc⟩
  · obtain ⟨c, hc⟩ := exists_class_number some
    exact ⟨fun _ => ⟨c, by rwa [hc]⟩, fun _ => by omega⟩

end Ntc

/-- A write of NTC clears the classes written as 1 where it reaches the low byte (R95). -/
theorem writeNtc_eq (s : State) (a0 : Bool) (data : Word) : s.writeNtc a0 data = { s with notices := { s.notices with
    pending := (s.writeNtc a0 data).notices.pending } } := by
  unfold State.writeNtc
  split <;> rfl

theorem isPending_writeNtc (s : State) (a0 : Bool) (data : Word) (c : NoticeClass) : (s.writeNtc a0 data).isPending c =
    (s.isPending c && !((s.port.wide || !a0) && data.getLsbD c.number)) := by
  have width := class_number_lt c
  have reached : writesLow s.port.wide a0 = (s.port.wide || !a0) := rfl
  rw [State.writeNtc, reached]
  split
  · next hlow => simp [State.isPending, hlow, width]
  · next hlow => simp [Bool.not_eq_true _ ▸ hlow]

theorem exec_ntcWrite {s : State} (hs : Settled s) (hrun : s.run ≠ .starting) (a0 : Bool) (data : Word) :
    exec (.ntcWrite a0 data) s = .next (s.writeNtc a0 data) := by
  simp [exec, execNtcWrite, finishClose_of_settled hs, hs.2, hrun]

/-- Settles O8: the write by its lanes, NOTICE# and NTC by the top class. -/
theorem ntcWriteClearsWrittenClasses : Obligations.NtcWriteClearsWrittenClasses := by
  intro s a0 data hs hrun
  refine ⟨_, exec_ntcWrite hs hrun a0 data, writeNtc_eq s a0 data, isPending_writeNtc s a0 data, ?_⟩
  have low : (s.writeNtc a0 data).resetLow = false := by simpa using hs.2
  have mask : (s.writeNtc a0 data).notices.mask = s.notices.mask := by rw [writeNtc_eq]
  have wide : (s.writeNtc a0 data).port.wide = s.port.wide := by simp
  generalize s.writeNtc a0 data = t at low mask wide
  have shown : ∀ c : NoticeClass, (t.isPending c = true ∧ s.notices.mask.getLsbD c.number = false) ↔
      t.notices.shows c.number = true := fun c => by
    simp [Notices.shows, State.isPending, mask]
  dsimp only
  simp only [shown, readNtc_top low]
  refine ⟨noticeLow_iff low, fun c => readNtc_pending low (Nat.lt_succ_of_lt (class_number_lt c)), ?_, fun c hc => ?_,
    fun hne => ?_, top_le t.notices, fun b => ⟨fun hwide => ?_, fun hwide => ?_⟩⟩
  · rw [readNtc_pending low (by decide)]
    exact BitVec.getLsbD_of_ge _ _ (by decide)
  · rcases top_cases t.notices with ⟨-, quiet⟩ | ⟨-, -, below⟩
    · simp [quiet c.number (class_number_lt c)] at hc
    · exact Nat.not_lt.mp fun hlt => by simp [below _ hlt] at hc
  · rcases top_cases t.notices with ⟨none, -⟩ | ⟨some, shows, -⟩
    · exact absurd none hne
    · obtain ⟨c, hc⟩ := exists_class_number some
      exact ⟨c, by rwa [hc], hc⟩
  · rw [State.readNotices, laneData, if_pos (wide.trans hwide)]
  · rw [State.readNotices, wide, hwide, laneData_byte, readNtc_top low]

end Sys2Proof.Machine
end

section
/-! PROOFS. The resets and STARTING (R39, R52, R69, R75, R96 to R98): the reset values of the blocks, the writes of WCTL that restart
the part, and the states in which the part serves nothing. -/

namespace Sys2Proof.Machine

open Sys2Proof

/-! ## Reset values -/

/-- The store, clock, queue, trims, port width and mask are what resets differ in; every other block takes one value (R96, R98). -/
theorem blocksReset_of_resetValues (pending : List Instr) (clock : Clock) (store : Mem) (wide : Bool) (out : PortData)
    (mask : BitVec 7) {heads : Vector Head 12} (hheads : ∀ h : Fin 12, heads[h] = Head.reset heads[h].trim) :
    BlocksReset { State.reset with
      pending := pending, clock := clock, heads := heads, store := store, port := { Port.reset wide with readOut := out },
      notices := { pending := 0, mask := mask } } := by
  have channel : ∀ h, State.reset.channel h = Channel.reset := channel_reset
  have record : ∀ h, State.reset.calRecord h = Calibration.reset := fun h => Vector.getElem_replicate _
  have rule : ∀ n, State.reset.rule n = RuleState.clear := fun n => Vector.getElem_replicate _
  have lost : ∀ h : Fin 12, State.reset.records.lost[h] = 0 := fun h => Vector.getElem_replicate _
  refine ⟨rfl, rfl, rfl, rfl, rfl, rfl, rfl, buffer_reset, rfl, rfl, rfl, hheads, fun h => ?_, fun h => ?_, setWord_empty, rfl,
    rule, rfl, rfl, rfl, lost, rfl, slot_reset, rfl, rfl, rfl, rfl, rfl, rfl, rfl, rfl, rfl, rfl, rfl⟩
  · have reset := channel h
    refine ⟨?_, ?_, ?_, ?_, ?_, ?_, ?_, ?_, ?_, ?_, ?_, ?_⟩
    all_goals exact congrArg _ reset
  · have reset := record h
    exact ⟨congrArg Calibration.inProgress reset, congrArg Calibration.count reset, congrArg Calibration.sum reset⟩

theorem pinReset_blocks (s : State) (wide : Bool) : BlocksReset (s.pinReset wide) :=
  blocksReset_of_resetValues s.pending Clock.zero [] wide .none 0x7F fun h => by
    rw [show State.reset.heads[h] = Head.reset 0 from head_reset h]
    rfl

theorem restartPart_blocks (s : State) : BlocksReset s.restartPart :=
  blocksReset_of_resetValues s.pending s.clock (s.store.restrict keptByRestart) s.port.wide s.port.readOut s.notices.mask
    fun h => by simp [Head.reset]

theorem reset_blocks : BlocksReset State.reset := pinReset_blocks State.reset true

/-- With every class masked NOTICE# is high and the top class is 7 (R94). -/
theorem notices_of_masked {t : State} (hlow : t.resetLow = false) (hn : t.notices = { pending := 0, mask := 0x7F }) :
    t.readNtc = 0x0700 ∧ t.noticeLow = false := by
  have top : t.notices.top = 7 := by
    rw [hn]
    rfl
  refine ⟨BitVec.eq_of_toNat_eq ?_, by simp [State.noticeLow, top]⟩
  rw [readNtc_toNat hlow, top, hn]
  rfl

theorem readWctl_of_masked {t : State} (hlow : t.resetLow = false) (hrun : t.run = .starting) (hstep : t.port.step = .stay)
    (hpeek : t.port.peek = false) (hn : t.notices = { pending := 0, mask := 0x7F }) : t.readWctl = 0x7F00 := by
  refine BitVec.eq_of_toNat_eq ?_
  rw [State.readWctl, if_neg (by simp [hlow]), wctlValue_toNat, hrun, hstep, hpeek, hn]
  rfl

/-- Settles O2: the values that a pin reset gives are those of State.reset but for the queue and the port width. -/
theorem pinResetResetsEveryBlock : Obligations.PinResetResetsEveryBlock := by
  have trim : ∀ h, (State.reset.head h).trim = 0 := fun h => by rw [head_reset]; rfl
  refine ⟨fun s wide => ?_, reset_blocks, rfl, trim, fun _ => rfl, readWctl_of_masked rfl rfl rfl rfl rfl,
    (notices_of_masked rfl rfl).1⟩
  obtain ⟨ntc, quiet⟩ := notices_of_masked (t := s.pinReset wide) rfl rfl
  exact ⟨s.pinReset wide, rfl, pinReset_blocks s wide, rfl, trim, fun _ => rfl, readWctl_of_masked rfl rfl rfl rfl rfl, ntc, rfl,
    quiet, rfl, rfl, rfl⟩

/-! ## RESTART -/

/-- The write that RESTART stands for carries the RESTART bit already (R96). -/
theorem or_restartBit {data : Word} (hbit : restartBit data = true) : data ||| 0x0008 = data := by
  refine BitVec.eq_of_getLsbD_eq fun i hi => ?_
  have bit := (by decide : ∀ i : Fin 16, (0x0008 : Word).getLsbD i.val = decide (i.val = 3)) ⟨i, hi⟩
  rw [BitVec.getLsbD_or, bit]
  by_cases h3 : i = 3
  · subst h3
    rw [show data.getLsbD 3 = true from hbit, Bool.true_or]
  · rw [decide_eq_false h3, Bool.or_false]

theorem exec_restart {s : State} (hs : Ready s) (data : Word) :
    exec (.restart data) s = .next (s.writeWctl false (data ||| 0x0008)) := by
  simp [exec, execRestart, finishTick_of_ready hs, hs.2]

/-- Out of STARTING a write of the low byte of WCTL with the RESTART bit restarts the part (R81, R96). -/
theorem writeWctl_of_restart {s : State} (hrun : s.run ≠ .starting) {data : Word} (hbit : restartBit data = true) :
    s.writeWctl false data = (s.writeControl false data).restartPart := by
  refine if_pos ?_
  rw [show data.getLsbD 3 = true from hbit, decide_eq_true hrun]
  simp [writesLow]

theorem head_restartPart (s : State) (h : Fin 12) : s.restartPart.head h = Head.reset (s.head h).trim := by
  simp [State.head, State.restartPart]

/-- The areas that a RESTART keeps are the head settings and the staged limit set (R96). -/
theorem keptByRestart_iff (a : Nat) :
    keptByRestart a = true ↔ (0x0100 ≤ a ∧ a < 0x01C0) ∨ (0x0200 ≤ a ∧ a < 0x0400) := by
  unfold keptByRestart
  simp only [Bool.or_eq_true, Bool.and_eq_true, decide_eq_true_eq]
  exact Iff.rfl

/-- Settles O6: the write of WCTL sets the mask first, then the part restarts from the state with that mask. -/
theorem restartKeepsClockTrimsAndSettings : Obligations.RestartKeepsClockTrimsAndSettings := by
  intro s data hs hrun hbit
  have mask := fun {c : Nat} (hc : c < 7) => writeControl_mask s false data hc
  have store := fun a => read_restrict s.store keptByRestart a
  have trims : ∀ h, ((s.writeControl false data).restartPart.head h).trim = (s.head h).trim := fun h => by
    rw [head_restartPart]
    rfl
  refine ⟨(s.writeControl false data).restartPart, ?_, ?_, restartPart_blocks _, rfl, trims, rfl, rfl, fun hwide c hc => ?_,
    fun hwide => ?_, rfl, fun a ha => ?_, fun a ha => ?_⟩
  · rw [exec_restart hs, or_restartBit hbit, writeWctl_of_restart hrun hbit]
  · rw [exec_writeWctl hs, writeWctl_of_restart hrun hbit]
  · exact (mask hc).trans (if_pos hwide)
  · refine BitVec.eq_of_getLsbD_eq fun c hc => (mask hc).trans ?_
    rw [hwide]
    rfl
  · exact (store a).trans (if_pos ((keptByRestart_iff a).mpr ha))
  · exact (store a).trans (if_neg fun hkept => ha ((keptByRestart_iff a).mp hkept))

/-! ## Where nothing is served -/

section Unserved

variable {s : State}

/-- Where the tick timer does not run no tick event begins (R40). -/
theorem beginTick_of_stopped (htimer : s.timerRuns = false) : s.beginTick = s := by
  unfold State.beginTick
  split
  · rw [htimer]
    rfl
  · rfl

/-- Where the engine cannot take a request it takes none (R165). -/
theorem serve_of_unready (hengine : s.engineReady = false) (isKind : Word → Bool) (work : State → Fin 8 → State) :
    s.serve isKind work = s := by
  unfold State.serve
  split
  · rfl
  · rw [hengine]
    rfl

variable (hidle : s.stage = .idle)
include hidle

/-- Outside a tick event the parts of one do nothing. -/
theorem stages_of_idle : s.closeTick = s ∧ s.captureStage = s ∧ s.finishClose = s ∧ s.periodStage = s ∧ s.markStage = s := by
  refine ⟨?_, ?_, finishClose_of_closeDone (by simp [closeDone, hidle]), ?_, ?_⟩
  · simp [State.closeTick, hidle]
  · simp [State.captureStage, hidle]
  · simp [State.periodStage, hidle]
  · simp [State.markStage, hidle]

theorem exec_request_of_unready (hengine : s.engineReady = false) {c : Instr} (hc : c ∈ requestCommands) :
    exec c s = .next s := by
  obtain ⟨-, -, closed, -, -⟩ := stages_of_idle hidle
  have finished := finishTick_of_idle hidle
  have before := finishBeforeMark_of_done (.inl hidle)
  have unserved := serve_of_unready hengine
  simp only [requestCommands, List.mem_cons, List.not_mem_nil, or_false] at hc
  rcases hc with rfl | rfl | rfl | rfl | rfl | rfl | rfl | rfl | rfl | rfl | rfl | rfl | rfl | rfl | rfl
  case inl => simp only [exec, execStart, finished, unserved]
  case inr.inl => simp only [exec, execStop, before, unserved]
  case inr.inr.inl => simp only [exec, execPark, before, unserved]
  case inr.inr.inr.inl => simp only [exec, execUnpark, finished, unserved]
  all_goals simp only [exec, execSetClock, execAdoptLimits, execCalibrate, execLoadTrim, execSnapshot, execDumpHistogram,
    execArmTrace, execDisarmTrace, execTraceNow, execZeroHeadCounters, execUnknownKindRequest, closed, unserved]

theorem exec_tickEvent_of_stopped (htimer : s.timerRuns = false) : exec .tickEvent s = .next s := by
  have begun := beginTick_of_stopped htimer
  simp only [exec, execTickEvent, begun, finishTick_of_idle hidle]

/-- Where no tick event begins its parts do not come due (R30, R31, R42, R47, R72, R159). -/
theorem exec_tickPart_of_stopped (htimer : s.timerRuns = false) {c : Instr}
    (hc : c ∈ [Instr.captureComplete, .secondClose, .periodEnd] ∨
      ∃ h, c = .joinComplete h ∨ c = .headLost h ∨ c = .calibrationComplete h) : exec c s = .next s := by
  have begun := beginTick_of_stopped htimer
  obtain ⟨tick, capture, closed, period, mark⟩ := stages_of_idle hidle
  simp only [List.mem_cons, List.not_mem_nil, or_false] at hc
  rcases hc with (rfl | rfl | rfl) | ⟨h, rfl | rfl | rfl⟩
  · simp only [exec, execCaptureComplete, begun, tick, capture, ite_self]
  · simp only [exec, execSecondClose, begun, closed, ite_self]
  · simp only [exec, execPeriodEnd, begun, closed, period, ite_self]
  · simp [exec, execJoinComplete, begun, State.joinDue, hidle]
  · simp [exec, execHeadLost, begun, State.lossDue, hidle]
  · simp [exec, execCalibrationComplete, begun, closed, period, mark, hidle]

/-- Nothing is heard while the receiver is off (R18, R98). -/
theorem exec_frame_of_off (hoff : s.receiverOn = false) (chars : List PairChar) : exec (.frame chars) s = .next s := by
  simp [exec, execFrame, finishTick_of_idle hidle, State.receiveAll, hoff]

end Unserved

/-! ## RESET# low -/

theorem exec_of_resetLow {s : State} (hlow : s.resetLow = true) (hidle : s.stage = .idle) {c : Instr}
    (hpin : ∀ p, c ≠ .pinReset p) (hread : c ≠ .wdatRead) : exec c s = .next s := by
  have timer : s.timerRuns = false := by simp [State.timerRuns, hlow]
  have engine : s.engineReady = false := by simp [State.engineReady, hlow]
  have off : s.receiverOn = false := by simp [State.receiverOn, hlow]
  obtain ⟨-, -, closed, -, -⟩ := stages_of_idle hidle
  have finished := finishTick_of_idle hidle
  have request := fun {c : Instr} => exec_request_of_unready hidle engine (c := c)
  have part := fun {c : Instr} => exec_tickPart_of_stopped hidle timer (c := c)
  cases c with
  | pinReset p => exact absurd rfl (hpin p)
  | wdatRead => exact absurd rfl hread
  | endOfStarting => simp [exec, execEndOfStarting, finished, hlow]
  | restart data => simp [exec, execRestart, finished, hlow]
  | registerWrite reg a0 data => simp [exec, execRegisterWrite, finished, hlow]
  | ntcWrite a0 data => simp [exec, execNtcWrite, closed, hlow]
  | wdatWrite data => simp [exec, execWdatWrite, closed, State.wdatWrite, hlow]
  | tickEvent => exact exec_tickEvent_of_stopped hidle timer
  | frame chars => exact exec_frame_of_off hidle off chars
  | joinComplete h => exact part (.inr ⟨h, .inl rfl⟩)
  | headLost h => exact part (.inr ⟨h, .inr (.inl rfl)⟩)
  | calibrationComplete h => exact part (.inr ⟨h, .inr (.inr rfl)⟩)
  | captureComplete => exact part (.inl (by simp))
  | secondClose => exact part (.inl (by simp))
  | periodEnd => exact part (.inl (by simp))
  | _ => exact request (by simp [requestCommands])

/-- Settles O3: with RESET# low the registers read 0, and every command but a read leaves the state as it is. -/
theorem nothingHappensWhileResetLow : Obligations.NothingHappensWhileResetLow := by
  refine ⟨fun s hs => ?_, fun s c hlow hidle hpin => ?_⟩
  · refine ⟨{ s with resetLow := true }, ?_, rfl, rfl, rfl, rfl, rfl, rfl⟩
    simp only [exec, execPinReset, finishTick_of_ready hs]
  · by_cases hread : c = .wdatRead
    · subst hread
      obtain ⟨-, -, closed, -, -⟩ := stages_of_idle hidle
      refine ⟨s.drive s.zeroData, ?_, rfl, fun hne => absurd rfl hne, fun _ => rfl⟩
      simp [exec, execWdatRead, closed, State.wdatRead, hlow]
    · exact ⟨s, exec_of_resetLow hlow hidle hpin hread, rfl, fun _ => rfl, fun h => absurd h hread⟩

/-! ## STARTING -/

/-- The fields that the RESTART bit leaves alone (R81). -/
theorem or_restart_fields (data : Word) : (data ||| 0x0008).toNat % 4 = data.toNat % 4 ∧
    (data ||| 0x0008).getLsbD 2 = data.getLsbD 2 ∧ ∀ c < 7, (data ||| 0x0008).getLsbD (8 + c) = data.getLsbD (8 + c) := by
  have bit := fun {i : Nat} (hi : i < 16) =>
    (by decide : ∀ i : Fin 16, (0x0008 : Word).getLsbD i.val = decide (i.val = 3)) ⟨i, hi⟩
  have other := fun {i : Nat} (hi : i < 16) (h3 : i ≠ 3) => show (data ||| 0x0008).getLsbD i = data.getLsbD i by
    rw [BitVec.getLsbD_or, bit hi, decide_eq_false h3, Bool.or_false]
  refine ⟨?_, other (by omega) (by omega), fun c hc => other (by omega) (by omega)⟩
  refine Nat.eq_of_testBit_eq fun i => ?_
  rw [show 4 = 2 ^ 2 from rfl, Nat.testBit_mod_two_pow, Nat.testBit_mod_two_pow, BitVec.testBit_toNat, BitVec.testBit_toNat]
  by_cases hi : i < 2
  · rw [other (by omega) (by omega)]
  · rw [decide_eq_false hi, Bool.false_and, Bool.false_and]

/-- Settles O5: in STARTING neither the tick timer nor the receiver nor the engine runs, and a RESTART sets the fields alone. -/
theorem startingServesNothing : Obligations.StartingServesNothing := by
  intro s hs hrun
  obtain ⟨hidle, hhigh⟩ := id hs
  have timer : s.timerRuns = false := by simp [State.timerRuns, hrun]
  have engine : s.engineReady = false := by simp [State.engineReady, hrun]
  have off : s.receiverOn = false := by simp [State.receiverOn, hrun]
  obtain ⟨-, -, closed, -, -⟩ := stages_of_idle hidle
  refine ⟨?_, fun data => ?_, fun a0 data => ?_, exec_frame_of_off hidle off, exec_tickEvent_of_stopped hidle timer,
    fun c => exec_request_of_unready hidle engine, fun data => ?_⟩
  · have access : s.wdatRead = (s.drive s.zeroData).stepWadr := by simp [State.wdatRead, hhigh, hrun]
    simp only [exec, execWdatRead, closed, access]
    rfl
  · have access : s.wdatWrite data = s.stepWadr := by simp [State.wdatWrite, hhigh, hrun]
    simp only [exec, execWdatWrite, closed, access]
    rfl
  · simp [exec, execNtcWrite, closed, hrun]
  · have fields : s.writeWctl false (data ||| 0x0008) = s.writeControl false (data ||| 0x0008) := if_neg (by simp [hrun])
    obtain ⟨step, peek⟩ := writeControl_reached s false (data ||| 0x0008) (.inr rfl)
    obtain ⟨low, bit, high⟩ := or_restart_fields data
    refine ⟨_, (exec_restart hs data).trans (congrArg _ fields), rfl, step.trans low, peek.trans bit, fun c hc => ?_⟩
    rw [writeControl_mask _ _ _ hc, high c hc]
    rfl

/-- The parts of END_OF_STARTING that the control block and WCTL show. -/
theorem hostWord_control {s : State} (hlow : s.resetLow = false) (hrun : s.run ≠ .starting) {i : Nat} (hi : i < 23) :
    s.hostWord (2 * i) = s.controlHead.getD i 0 := by
  rw [State.hostWord, if_neg (by simp [hlow, hrun]), viewWord_control s (by omega), controlBlock_head s hi]

/-- Settles O4: the pages are written closed and the run state is set; identity and run state are read from the control block. -/
theorem endOfStartingOpensThePart : Obligations.EndOfStartingOpensThePart := by
  intro s hs hrun
  have pages := writeClosedPages_closed s { day := 0, second := 0 }
  have bytes := writeClosedPages_bytes s { day := 0, second := 0 }
  have frame : s.writeClosedPages { day := 0, second := 0 } =
      { s with store := (s.writeClosedPages { day := 0, second := 0 }).store } := by
    apply State.eq_of_fields <;> simp
  have opened : exec .endOfStarting s = .next { s.writeClosedPages { day := 0, second := 0 } with run := .stopped } := by
    simp [exec, execEndOfStarting, finishTick_of_ready hs, hrun, hs.2]
  generalize s.writeClosedPages { day := 0, second := 0 } = t at pages bytes frame opened
  have low : t.resetLow = false := by rw [frame]; exact hs.2
  have shows := fun {i : Nat} (hi : i < 23) =>
    hostWord_control (s := { t with run := .stopped }) low (by simp) hi
  refine ⟨_, opened, ?_, pages, bytes, shows (i := 0) (by decide), shows (i := 1) (by decide), shows (i := 2) (by decide), ?_⟩
  · rw [frame]
  · have step := stepMode_code_lt t.port.step
    have peek := Bool.toNat_le t.port.peek
    have wctl := wctlValue_toNat { t with run := .stopped }
    rw [State.readWctl, if_neg (by simp [low]), wctl]
    simp only [RunState.code]
    omega

end Sys2Proof.Machine
end

section
/-! PROOFS. WDAT accesses on the 16-bit port (R76, R80, R84 to R93): the address and its step, what a read returns and releases, and
the four outcomes of a write. -/

namespace Sys2Proof.Machine

open Sys2Proof

/-! ## An access and its step -/

section Access

variable {s : State}

theorem exec_wdatRead (hs : Settled s) : exec .wdatRead s = .next s.wdatRead := by
  simp only [exec, execWdatRead, finishClose_of_settled hs]

theorem exec_wdatWrite (hs : Settled s) (data : Word) : exec (.wdatWrite data) s = .next (s.wdatWrite data) := by
  simp only [exec, execWdatWrite, finishClose_of_settled hs]

theorem exec_wdatRead_served (hs : Settled s) (hrun : s.run ≠ .starting) :
    exec .wdatRead s = .next (s.readAt s.port.accessAddr.toNat).stepWadr := by
  rw [exec_wdatRead hs, State.wdatRead, if_neg (by simp [hs.2]), if_neg hrun]

theorem exec_wdatWrite_served (hs : Settled s) (hrun : s.run ≠ .starting) (data : Word) :
    exec (.wdatWrite data) s = .next (s.writeAt s.port.accessAddr.toNat data).stepWadr := by
  rw [exec_wdatWrite hs, State.wdatWrite, if_neg (by simp [hs.2]), if_neg hrun]

theorem hostWord_of_served (hlow : s.resetLow = false) (hrun : s.run ≠ .starting) (a : Nat) : s.hostWord a = s.viewWord a :=
  if_neg (by simp [hlow, hrun])

end Access

/-- The fields of the port that decide where an access is made and how WADR steps (R78, R80), with PEEK. -/
structure PortSettingsKept (p q : Port) : Prop where
  wide : q.wide = p.wide
  wadr : q.wadr = p.wadr
  step : q.step = p.step
  peek : q.peek = p.peek

theorem PortSettingsKept.addrAfter {p q : Port} (h : PortSettingsKept p q) : q.addrAfter = p.addrAfter := by
  unfold Port.addrAfter Port.stepSize
  rw [h.step, h.wadr, h.wide]

theorem readAt_settings (s : State) (a : Nat) : PortSettingsKept s.port (s.readAt a).port := by
  unfold State.readAt
  split
  · simp only [State.readWord, releaseUnlessPeek_frame]
    exact ⟨rfl, rfl, rfl, rfl⟩
  · split
    · exact ⟨rfl, rfl, rfl, rfl⟩
    · simp only [State.readOdd, releaseUnlessPeek_frame]
      exact ⟨rfl, rfl, rfl, rfl⟩

/-- A word write changes none of the port but its counts of refused writes (R84, R85). -/
theorem writeWordAt_port (s : State) (a : Nat) (v : Word) : (s.writeWordAt a v).port =
    { s.port with
      dropped := (s.writeWordAt a v).port.dropped, lastDropped := (s.writeWordAt a v).port.lastDropped
      mispost := (s.writeWordAt a v).port.mispost } := by
  unfold State.writeWordAt
  split
  · rfl
  · split <;> rfl
  · split <;> split <;> rfl
  · rfl

theorem writeWordAt_settings (s : State) (a : Nat) (v : Word) : PortSettingsKept s.port (s.writeWordAt a v).port := by
  rw [writeWordAt_port]
  exact ⟨rfl, rfl, rfl, rfl⟩

theorem writeAt_settings (s : State) (a : Nat) (data : Word) : PortSettingsKept s.port (s.writeAt a data).port := by
  unfold State.writeAt
  dsimp only
  split
  · exact writeWordAt_settings s a data
  · split
    · exact ⟨rfl, rfl, rfl, rfl⟩
    · obtain ⟨wide, wadr, step, peek⟩ := writeWordAt_settings s (a - 1) ((data.setWidth 8 : Byte) ++ s.heldLow (a - 1))
      exact ⟨wide, wadr, step, peek⟩

/-- A WDAT access takes the step of R80 and leaves the port's settings as they are. -/
theorem exec_access_steps {s : State} (hs : Settled s) {c : Instr} (hc : c = .wdatRead ∨ ∃ data, c = .wdatWrite data) :
    ∃ t : State, exec c s = .next t.stepWadr ∧ PortSettingsKept s.port t.port := by
  by_cases hrun : s.run = .starting
  · rcases hc with rfl | ⟨data, rfl⟩
    · refine ⟨s.drive s.zeroData, ?_, ⟨rfl, rfl, rfl, rfl⟩⟩
      rw [exec_wdatRead hs, State.wdatRead, if_neg (by simp [hs.2]), if_pos hrun]
    · refine ⟨s, ?_, ⟨rfl, rfl, rfl, rfl⟩⟩
      rw [exec_wdatWrite hs, State.wdatWrite, if_neg (by simp [hs.2]), if_pos hrun]
  · rcases hc with rfl | ⟨data, rfl⟩
    · exact ⟨_, exec_wdatRead_served hs hrun, readAt_settings s _⟩
    · exact ⟨_, exec_wdatWrite_served hs hrun data, writeAt_settings s _ data⟩

theorem exec_ntcWrite_port {s : State} (hs : Settled s) (a0 : Bool) (data : Word) :
    ∃ t, exec (.ntcWrite a0 data) s = .next t ∧ t.port = s.port := by
  by_cases hrun : s.run = .starting
  · exact ⟨s, by simp [exec, execNtcWrite, finishClose_of_settled hs, hrun], rfl⟩
  · exact ⟨_, exec_ntcWrite hs hrun a0 data, by simp⟩

/-- Settles O9: the access is made at the address of R80, and only the step writes WADR. -/
theorem wdatAccessStepsWadr : Obligations.WdatAccessStepsWadr := by
  refine ⟨fun s c hs hc => ?_, fun s a0 data => ⟨fun hs => exec_ntcWrite_port hs a0 data, fun hs hbit => ?_⟩⟩
  · obtain ⟨t, runs, kept⟩ := exec_access_steps hs hc
    have wadr : t.stepWadr.port.wadr = s.port.addrAfter := kept.addrAfter
    refine ⟨_, runs, kept.step, kept.peek, kept.wide, fun hup => ?_, fun hup => ?_, ?_⟩
    · rw [wadr, Port.accessAddr, Port.addrAfter, hup]
    · unfold Port.accessAddr
      split
      · next h => exact absurd h hup
      · rfl
    · rw [wadr]
      rfl
  · refine ⟨_, exec_writeWctl hs a0 data, ?_⟩
    rw [writeWctl_of_plain (.inl hbit)]
    rfl

/-! ## Classes that clear (R93) -/

/-- Between t and u class c clears where p holds, and nothing else of the notices changes. -/
structure ClassClears (t u : State) (c : NoticeClass) (p : Prop) : Prop where
  mask : u.notices.mask = t.notices.mask
  others : ∀ d, d ≠ c → u.isPending d = t.isPending d
  own : u.isPending c = true ↔ t.isPending c = true ∧ ¬p

section ClassClears

variable {t u : State} {c : NoticeClass} {p : Prop}

theorem ClassClears.of_clear (hu : u.notices = (t.unraise c).notices) (hp : p) : ClassClears t u c p := by
  have cleared : ∀ d, u.isPending d = (!decide (c = d) && t.isPending d) := fun d => by
    rw [← isPending_unraise]
    simp only [State.isPending, hu]
  refine ⟨by rw [hu]; rfl, fun d hd => ?_, ?_⟩
  · rw [cleared, decide_eq_false (Ne.symm hd), Bool.not_false, Bool.true_and]
  · simp [cleared, hp]

theorem ClassClears.of_keep (hu : u.notices = t.notices) (hp : ¬p) : ClassClears t u c p := by
  have kept : ∀ d, u.isPending d = t.isPending d := fun d => by simp only [State.isPending, hu]
  exact ⟨by rw [hu], fun d _ => kept d, by simp [kept, hp]⟩

end ClassClears

/-! ## Releases -/

section Release

variable (s : State)

theorem releaseEvent_eq (n : Fin 32) : s.releaseEvent n =
    { s with events := { s.events with list := s.events.list.erase n }, notices := (s.releaseEvent n).notices } := by
  unfold State.releaseEvent
  dsimp only
  split <;> rfl

theorem releaseEvent_clears (n : Fin 32) : ClassClears s (s.releaseEvent n) .event (s.events.list.erase n = []) := by
  unfold State.releaseEvent
  dsimp only
  split
  · next h => exact .of_clear rfl h
  · next h => exact .of_keep rfl h

theorem releaseRecord_eq (n : Fin 48) : s.releaseRecord n =
    { s with records := { s.records with list := s.records.list.erase n }, notices := (s.releaseRecord n).notices } := by
  unfold State.releaseRecord
  dsimp only
  split <;> rfl

theorem releaseRecord_clears (n : Fin 48) : ClassClears s (s.releaseRecord n) .record (s.records.list.erase n = []) := by
  unfold State.releaseRecord
  dsimp only
  split
  · next h => exact .of_clear rfl h
  · next h => exact .of_keep rfl h

theorem releaseTrace_eq (n : Fin 2) : s.releaseTrace n =
    { s with trace := { s.trace with list := s.trace.list.erase n }, notices := (s.releaseTrace n).notices } := by
  unfold State.releaseTrace
  dsimp only
  split <;> rfl

theorem releaseTrace_clears (n : Fin 2) : ClassClears s (s.releaseTrace n) .trace (s.trace.list.erase n = []) := by
  unfold State.releaseTrace
  dsimp only
  split
  · next h => exact .of_clear rfl h
  · next h => exact .of_keep rfl h

theorem releaseAnswer_eq (n : Fin 8) : s.releaseAnswer n =
    { s.setSlot n { s.slot n with state := .free } with notices := (s.releaseAnswer n).notices } := by
  unfold State.releaseAnswer
  dsimp only
  split <;> rfl

theorem any_answered_iff : s.requests.slots.toList.any (fun x => decide (x.state = .answered)) = true ↔
    ∃ m, (s.slot m).state = .answered := by
  simp only [List.any_eq_true, decide_eq_true_eq, Vector.mem_toList_iff, Vector.mem_iff_getElem]
  exact ⟨fun ⟨_, ⟨i, hi, rfl⟩, h⟩ => ⟨⟨i, hi⟩, h⟩, fun ⟨m, h⟩ => ⟨_, ⟨m.val, m.isLt, rfl⟩, h⟩⟩

/-- ANSWER clears when no other slot is ANSWERED (R88, R93). -/
theorem releaseAnswer_clears (n : Fin 8) : ClassClears s (s.releaseAnswer n) .answer
    (¬∃ m, m ≠ n ∧ (s.slot m).state = .answered) := by
  have left : (∃ m, ((s.setSlot n { s.slot n with state := .free }).slot m).state = .answered) ↔
      ∃ m, m ≠ n ∧ (s.slot m).state = .answered := by
    refine exists_congr fun m => ?_
    rw [slot_setSlot]
    split
    · next h => simp [h]
    · next h => simp [Ne.symm h]
  unfold State.releaseAnswer
  dsimp only
  split
  · next h => exact .of_keep rfl (not_not.mpr (left.mp ((any_answered_iff _).mp h)))
  · next h => exact .of_clear rfl fun hex => h ((any_answered_iff _).mpr (left.mpr hex))

end Release

/-! ## Reads that release -/

theorem find?_of_unique {α : Type} {p : α → Bool} {l : List α} {a : α} (ha : a ∈ l) (hp : p a = true)
    (hunique : ∀ b ∈ l, p b = true → b = a) : l.find? p = some a := by
  cases hfound : l.find? p with
  | none => exact absurd hp (List.find?_eq_none.mp hfound a ha)
  | some b => rw [hunique b (List.mem_of_find?_eq_some hfound) (List.find?_some hfound)]

section ReleasingRead

variable {s : State} (hs : Settled s) (hrun : s.run ≠ .starting) (hwide : s.port.wide = true)
include hs hrun hwide

/-- A 16-bit read with PEEK clear drives its word, then releases what stands there (R88, R89, R91). -/
theorem exec_wdatRead_releases (hpeek : s.port.peek = false) {r : Release} (hr : s.releaseAt s.port.accessAddr.toNat = some r) :
    exec .wdatRead s = .next (((s.drive (.word (s.viewWord s.port.accessAddr.toNat))).release r).stepWadr) := by
  have word := hostWord_of_served hs.2 hrun s.port.accessAddr.toNat
  have peek : ¬(s.drive (.word (s.viewWord s.port.accessAddr.toNat))).port.peek = true := by
    simpa [State.drive] using hpeek
  rw [exec_wdatRead_served hs hrun, State.readAt, if_pos hwide, State.readWord, word, hr, State.releaseUnlessPeek, if_neg peek]

end ReleasingRead

/-- What a read of the go word of slot n releases (R88). -/
theorem releaseAt_goWord (s : State) (n : Fin 8) : s.releaseAt (requestAddr n 31) =
    if (s.slot n).state = .answered then some (.answer n) else none := by
  rw [State.releaseAt, areaOf_request n (by decide)]
  simp

theorem viewWord_goWord (s : State) (n : Fin 8) : s.viewWord (requestAddr n 31) = s.goWord n := by
  rw [State.viewWord, areaOf_request n (by decide)]
  exact if_pos rfl

/-- Settles O10: a read of a go word is plain unless the slot is ANSWERED and PEEK clear. -/
theorem goWordReadFreesAnsweredSlot : Obligations.GoWordReadFreesAnsweredSlot := by
  intro s n hs hrun hwide haddr
  have released := releaseAt_goWord s n
  by_cases hplain : (s.slot n).state ≠ .answered ∨ s.port.peek = true
  · have runs := exec_wdatRead_plain hs hrun hwide (by
      rw [haddr, released]
      exact hplain.symm.imp_right fun h => if_neg h)
    rw [haddr, viewWord_goWord] at runs
    refine ⟨_, runs, rfl, fun _ => rfl, fun hanswered hpeek => ?_⟩
    rcases hplain with h | h
    · exact absurd hanswered h
    · rw [hpeek] at h
      cases h
  · obtain ⟨hanswered, hpeek⟩ := not_or.mp hplain
    have hanswered := not_not.mp hanswered
    have runs := exec_wdatRead_releases hs hrun hwide (Bool.not_eq_true _ ▸ hpeek)
      (r := .answer n) (by rw [haddr, released, if_pos hanswered])
    rw [haddr, viewWord_goWord] at runs
    have frame := releaseAnswer_eq (s.drive (.word (s.goWord n))) n
    obtain ⟨mask, others, own⟩ := releaseAnswer_clears (s.drive (.word (s.goWord n))) n
    refine ⟨_, runs, ?_, fun h => absurd h hplain, fun _ _ => ⟨?_, ?_, fun m hm => ?_, ?_, ?_, mask, others, ?_⟩⟩
    all_goals simp only [State.release]
    · rw [frame]
      rfl
    · rw [frame]
      rfl
    · rw [frame]
      exact slot_setSlot_same s n _
    · rw [frame]
      exact (slot_setSlot s n m _).trans (if_neg (Ne.symm hm))
    · rw [frame]
      rfl
    · rw [frame]
      rfl
    · exact own.trans (and_congr_right fun _ => not_not)

/-! ## Closing words -/

section Closing

variable {s : State}

theorem areaOf_events {a : Nat} (hlow : 0x0C00 ≤ a) (hhigh : a < 0x1000) : areaOf a = .events := by
  simp (disch := omega) only [areaOf, if_neg, if_pos]

theorem areaOf_traces {a : Nat} (hlow : 0x1000 ≤ a) (hhigh : a < 0x3000) : areaOf a = .traces := by
  simp (disch := omega) only [areaOf, if_neg, if_pos]

theorem areaOf_records {a : Nat} (hlow : 0x3000 ≤ a) (hhigh : a < 0xF000) : areaOf a = .records := by
  simp (disch := omega) only [areaOf, if_neg, if_pos]

theorem viewWord_shelf (s : State) {a : Nat} (hlow : 0x0C00 ≤ a) (hhigh : a < 0xF000) : s.viewWord a = s.peekWord a :=
  viewWord_stored s (.inr (.inr (.inr ⟨hlow, hhigh⟩)))

theorem eventClosing_bounds (n : Fin 32) : 0x0C00 ≤ eventAddr n 15 ∧ eventAddr n 15 < 0x1000 := by
  simp only [eventAddr, Config.eventBase]
  omega

theorem releaseAt_eventClosing {n : Fin 32} (hn : n ∈ s.events.list) : s.releaseAt (eventAddr n 15) = some (.event n) := by
  obtain ⟨low, high⟩ := eventClosing_bounds n
  rw [State.releaseAt, areaOf_events low high]
  refine congrArg (Option.map Release.event) (find?_of_unique hn (by simp) fun m _ hm => Fin.ext ?_)
  rw [decide_eq_true_eq] at hm
  simp only [eventAddr] at hm
  omega

/-- The closing word of a listed record stands in the record's slot (R135). -/
theorem recordClosing_bounds (hreadable : RecordsReadable s) {n : Fin 48} (hn : n ∈ s.records.list) :
    recordAddr n 0 ≤ s.recordClosing n ∧ s.recordClosing n < recordAddr n 0 + 1024 := by
  obtain ⟨positive, fits⟩ := hreadable n hn
  simp only [State.recordClosing, recordAddr] at positive fits ⊢
  omega

theorem releaseAt_recordClosing (hreadable : RecordsReadable s) {n : Fin 48} (hn : n ∈ s.records.list) :
    s.releaseAt (s.recordClosing n) = some (.record n) := by
  obtain ⟨low, high⟩ := recordClosing_bounds hreadable hn
  obtain ⟨base, limit⟩ := recordAddr_bounds n
  rw [State.releaseAt, areaOf_records (by omega) (by omega)]
  refine congrArg (Option.map Release.record) (find?_of_unique hn (by simp) fun m hmem hm => Fin.ext ?_)
  obtain ⟨lowm, highm⟩ := recordClosing_bounds hreadable hmem
  rw [decide_eq_true_eq] at hm
  simp only [recordAddr] at low high lowm highm
  omega

/-- The closing word of a listed trace stands in the trace's slot (R159). -/
theorem traceClosing_bounds (hreadable : TracesReadable s) {n : Fin 2} (hn : n ∈ s.trace.list) :
    traceAddr n 0 ≤ s.traceClosing n ∧ s.traceClosing n < traceAddr n 0 + 4096 :=
  ⟨by rw [State.traceClosing, traceAddr_add]; exact Nat.le_add_right _ _, hreadable n hn⟩

theorem releaseAt_traceClosing (hreadable : TracesReadable s) {n : Fin 2} (hn : n ∈ s.trace.list) :
    s.releaseAt (s.traceClosing n) = some (.trace n) := by
  obtain ⟨low, high⟩ := traceClosing_bounds hreadable hn
  obtain ⟨base, limit⟩ := traceAddr_bounds n
  rw [State.releaseAt, areaOf_traces (by omega) (by omega)]
  refine congrArg (Option.map Release.trace) (find?_of_unique hn (by simp) fun m hmem hm => Fin.ext ?_)
  obtain ⟨lowm, highm⟩ := traceClosing_bounds hreadable hmem
  rw [decide_eq_true_eq] at hm
  simp only [traceAddr] at low high lowm highm
  omega

end Closing

/-- Settles O11: a closing word stands in its own slot alone, so that its read releases that slot. -/
theorem closingWordReadReleasesSlot : Obligations.ClosingWordReadReleasesSlot := by
  refine fun s hs hrun hwide hpeek => ⟨fun n hn haddr => ?_, fun hreadable n hn haddr => ?_, fun hreadable n hn haddr => ?_⟩
  all_goals have runs := fun {r} => exec_wdatRead_releases hs hrun hwide hpeek (r := r)
  all_goals rw [haddr] at runs
  · obtain ⟨low, high⟩ := eventClosing_bounds n
    have word := viewWord_shelf s low (by omega)
    have frame := releaseEvent_eq (s.drive (.word (s.peekWord (eventAddr n 15)))) n
    obtain ⟨mask, others, own⟩ := releaseEvent_clears (s.drive (.word (s.peekWord (eventAddr n 15)))) n
    rw [word] at runs
    exact ⟨_, runs (releaseAt_eventClosing hn), congrArg State.stepWadr frame, mask, others, own⟩
  · obtain ⟨low, high⟩ := recordClosing_bounds hreadable hn
    obtain ⟨base, limit⟩ := recordAddr_bounds n
    have word := viewWord_shelf s (a := s.recordClosing n) (by omega) (by omega)
    have frame := releaseRecord_eq (s.drive (.word (s.peekWord (s.recordClosing n)))) n
    obtain ⟨mask, others, own⟩ := releaseRecord_clears (s.drive (.word (s.peekWord (s.recordClosing n)))) n
    rw [word] at runs
    exact ⟨_, runs (releaseAt_recordClosing hreadable hn), congrArg State.stepWadr frame, mask, others, own⟩
  · obtain ⟨low, high⟩ := traceClosing_bounds hreadable hn
    obtain ⟨base, limit⟩ := traceAddr_bounds n
    have word := viewWord_shelf s (a := s.traceClosing n) (by omega) (by omega)
    have frame := releaseTrace_eq (s.drive (.word (s.peekWord (s.traceClosing n)))) n
    obtain ⟨mask, others, own⟩ := releaseTrace_clears (s.drive (.word (s.peekWord (s.traceClosing n)))) n
    rw [word] at runs
    exact ⟨_, runs (releaseAt_traceClosing hreadable hn), congrArg State.stepWadr frame, mask, others, own⟩

/-! ## Writes -/

theorem areaOf_headSettings {a : Nat} (hlow : 0x0100 ≤ a) (hhigh : a < 0x01C0) : areaOf a = .headSettings := by
  simp (disch := omega) only [areaOf, if_neg, if_pos]

theorem areaOf_staged {a : Nat} (hlow : 0x0200 ≤ a) (hhigh : a < 0x0400) : areaOf a = .staged := by
  simp (disch := omega) only [areaOf, if_neg, if_pos]

section Write

variable {s : State} {a : Nat} {v : Word}

theorem writeWordAt_stored (hstores : WriteStores s a) : s.writeWordAt a v = s.pokeWords a [v] := by
  unfold State.writeWordAt
  rcases hstores with ⟨hlow, hhigh⟩ | ⟨hlow, hhigh, hadoption⟩ | ⟨n, w, hw, rfl, hfree⟩
  · rw [areaOf_headSettings hlow hhigh]
  · rw [areaOf_staged hlow hhigh, hadoption]
    rfl
  · rw [areaOf_request n (by omega)]
    dsimp only
    rw [if_pos hfree, if_neg (by omega)]

theorem writeWordAt_goWord (n : Fin 8) : s.writeWordAt (requestAddr n 31) v =
    if (s.slot n).state = .free then s.postRequest n v else s.mispostWrite := by
  rw [State.writeWordAt, areaOf_request n (by decide)]
  simp only [if_true]

/-- A write to an area that the part owns is dropped (R84). -/
theorem writeWordAt_owned (howned : a < 0x0100 ∨ (0x01C0 ≤ a ∧ a < 0x0200) ∨ (0x0400 ≤ a ∧ a < 0x0A00) ∨ 0x0C00 ≤ a) :
    s.writeWordAt a v = s.dropWrite a := by
  have band : a < 0x0100 ∨ (0x01C0 ≤ a ∧ a < 0x0200) ∨ (0x0400 ≤ a ∧ a < 0x0600) ∨ (0x0600 ≤ a ∧ a < 0x0780) ∨
      (0x0780 ≤ a ∧ a < 0x0800) ∨ (0x0800 ≤ a ∧ a < 0x09E0) ∨ (0x09E0 ≤ a ∧ a < 0x0A00) ∨ (0x0C00 ≤ a ∧ a < 0x1000) ∨
      (0x1000 ≤ a ∧ a < 0x3000) ∨ (0x3000 ≤ a ∧ a < 0xF000) ∨ 0xF000 ≤ a := by omega
  rcases band with h | h | h | h | h | h | h | h | h | h | h
  all_goals simp (disch := omega) only [State.writeWordAt, areaOf, if_neg, if_pos]

theorem writeWordAt_dropped (heven : a % 2 = 0) (hstores : ¬WriteStores s a) (hgo : ∀ n, ¬WriteHitsGoWord a n) :
    s.writeWordAt a v = s.dropWrite a := by
  obtain ⟨hsettings, hstored⟩ := not_or.mp hstores
  obtain ⟨hstaged, hrequest⟩ := not_or.mp hstored
  by_cases hadoption : 0x0200 ≤ a ∧ a < 0x0400
  · have pending : s.adoption.isSome = true := Option.isSome_iff_ne_none.mpr fun h => hstaged ⟨hadoption.1, hadoption.2, h⟩
    unfold State.writeWordAt
    rw [areaOf_staged hadoption.1 hadoption.2]
    exact if_pos pending
  · by_cases hslot : 0x0A00 ≤ a ∧ a < 0x0C00
    · obtain ⟨n, w, hw, rfl⟩ := exists_requestAddr heven hslot.1 hslot.2
      have word : w ≠ 31 := fun h => hgo n (by rw [h])
      unfold State.writeWordAt
      rw [areaOf_request n hw]
      dsimp only
      rw [if_neg fun hfree => hrequest ⟨n, w, by omega, rfl, hfree⟩, if_neg word]
    · exact writeWordAt_owned (by omega)

end Write

theorem toNat_even {a : Word} (heven : a.getLsbD 0 = false) : a.toNat % 2 = 0 := by
  rw [← BitVec.testBit_toNat, Nat.testBit_zero, decide_eq_false_iff_not] at heven
  omega

/-- Settles O13: the area of the word and the state of its slot decide the outcome. -/
theorem hostWriteHasOneOfFourOutcomes : Obligations.HostWriteHasOneOfFourOutcomes := by
  intro s data hs hrun hwide heven
  have even := toNat_even heven
  have bound := s.port.accessAddr.isLt
  have addr : word s.port.accessAddr.toNat = s.port.accessAddr := BitVec.ofNat_toNat ..
  have runs := exec_wdatWrite_served hs hrun data
  rw [State.writeAt, if_pos hwide] at runs
  dsimp only
  generalize s.port.accessAddr.toNat = a at even bound addr runs
  refine ⟨_, runs, fun hstores => ?_, fun n hgo hfree => ?_, fun n hgo hfree => ?_, fun hstores hgo => ?_⟩
  · rw [writeWordAt_stored hstores]
    have written : (s.pokeWords a [data]).peekWord a = data :=
      readWord_writeWords s.store a 0 [data] (by simp) (by simp [Config.storeBytes]; omega)
    refine ⟨rfl, written, fun b hb => read_writeWords_outside s.store a b [data] ?_⟩
    have outside := hb (a, a + 2) (by simp)
    simp only [List.length_singleton]
    omega
  · subst hgo
    rw [writeWordAt_goWord, if_pos hfree]
    exact ⟨rfl, slot_setSlot_same s n _, fun m hm => (slot_setSlot s n m _).trans (if_neg (Ne.symm hm)), rfl, rfl⟩
  · subst hgo
    rw [writeWordAt_goWord, if_neg hfree]
    exact ⟨rfl, raise_raises { s with port := { s.port with mispost := saturate s.port.mispost } } .port⟩
  · rw [writeWordAt_dropped even hstores hgo]
    have dropped := raise_raises { s with port := { s.port with dropped := saturate s.port.dropped, lastDropped := word a } } .port
    rw [← addr]
    exact ⟨rfl, dropped⟩

end Sys2Proof.Machine
end

section
/-! PROOFS. The 8-bit port (R80, R82, R83, R91): each byte access set against the 16-bit access of its word. -/

namespace Sys2Proof.Machine

open Sys2Proof

/-! ## Releases beside the port -/

/-- What a read leaves of the state but for the port: released unless PEEK is set (R88, R89, R91). -/
def State.released (s : State) (peek : Bool) (r : Option Release) : State :=
  match r with
  | none => s
  | some x => if peek then s else s.release x

theorem released_of_kept (s : State) {peek : Bool} {r : Option Release} (h : r = none ∨ peek = true) : s.released peek r = s := by
  cases r with
  | none => rfl
  | some x => exact if_pos (h.resolve_left (by simp))

/-- A release looks at no part of the port. -/
theorem release_setPort (s : State) (p : Port) (r : Release) :
    State.release { s with port := p } r = { s.release r with port := p } := by
  cases r with
  | answer n =>
    have requests : State.requests (State.setSlot { s with port := p } n { s.slot n with state := .free }) =
        (s.setSlot n { s.slot n with state := .free }).requests := rfl
    have slot : State.slot { s with port := p } n = s.slot n := rfl
    simp only [State.release, State.releaseAnswer, slot, requests]
    split <;> rfl
  | event n =>
    simp only [State.release, State.releaseEvent]
    split <;> rfl
  | trace n =>
    simp only [State.release, State.releaseTrace]
    split <;> rfl
  | record n =>
    simp only [State.release, State.releaseRecord]
    split <;> rfl

theorem releaseUnlessPeek_setPort (s : State) (p : Port) (r : Option Release) :
    State.releaseUnlessPeek { s with port := p } r = { s.released p.peek r with port := p } := by
  cases r with
  | none => rfl
  | some x =>
    unfold State.releaseUnlessPeek State.released
    dsimp only
    split
    · rfl
    · exact release_setPort s p x

/-! ## Bytes of the word -/

theorem low_byte (v : Word) : v.setWidth 8 = BitVec.ofNat 8 v.toNat := BitVec.eq_of_toNat_eq (by simp)

theorem high_byte (v : Word) : (v >>> 8).setWidth 8 = BitVec.ofNat 8 (v.toNat / 256) :=
  BitVec.eq_of_toNat_eq (by simp [Nat.shiftRight_eq_div_pow])

theorem append_bytes (data : Word) (low : Byte) :
    ((data.setWidth 8 : Byte) ++ low : Word) = BitVec.ofNat 16 (data.toNat % 256 * 256 + low.toNat) := by
  have := low.isLt
  refine BitVec.eq_of_toNat_eq ?_
  rw [BitVec.toNat_append, Nat.shiftLeft_eq, Nat.mul_comm, ← Nat.two_pow_add_eq_or_of_lt this]
  simp
  omega

/-! ## Reads -/

section Reads

variable {s : State} (hs : Settled s) (hrun : s.run ≠ .starting)
include hs hrun

/-- A read on the 16-bit port, in the state with any port p (R88, R89). -/
theorem exec_wdatRead_word {p : Port} (hwide : p.wide = true) {a : Nat} (ha : p.accessAddr.toNat = a) :
    exec .wdatRead { s with port := p } = .next { s.released p.peek (s.releaseAt a) with
      port := { p with wadr := p.addrAfter, readOut := .word (State.viewWord { s with port := p } a) } } := by
  have served := exec_wdatRead_served (s := { s with port := p }) hs hrun
  have word := hostWord_of_served (s := { s with port := p }) hs.2 hrun a
  have driven := releaseUnlessPeek_setPort s { p with readOut := .word (State.viewWord { s with port := p } a) } (s.releaseAt a)
  have read : State.readWord { s with port := p } a =
      { s.released p.peek (s.releaseAt a) with port := { p with readOut := .word (State.viewWord { s with port := p } a) } } := by
    rw [State.readWord, word]
    exact driven
  rw [served, ha, State.readAt, if_pos hwide, read]
  rfl

/-- A read of an odd address on the 8-bit port, in the state with any port p: what the latch holds, or the word as it is (R83). -/
theorem exec_wdatRead_odd {p : Port} (hwide : p.wide = false) {a : Nat} (ha : p.accessAddr.toNat = a + 1) (heven : a % 2 = 0) :
    exec .wdatRead { s with port := p } =
      .next { s.released p.peek (State.oddSource { s with port := p } a).2 with
        port := { p with
          wadr := p.addrAfter, readLatch := none
          readOut := .byte (BitVec.ofNat 8 ((State.oddSource { s with port := p } a).1.toNat / 256)) } } := by
  have served := exec_wdatRead_served (s := { s with port := p }) hs hrun
  rw [served, ha, State.readAt, if_neg (by simp [hwide]), if_neg (by omega), Nat.add_sub_cancel, State.readOdd]
  dsimp only
  rw [high_byte]
  generalize State.oddSource { s with port := p } a = src
  have driven := releaseUnlessPeek_setPort s
    { p with readLatch := none, readOut := .byte (BitVec.ofNat 8 (src.1.toNat / 256)) } src.2
  exact congrArg (fun t : State => Host.Outcome.next t.stepWadr) driven

end Reads

/-! ## The word of a byte access -/

theorem wordAddr_toNat (w : Word) : (BitVec.ofNat 16 (w.toNat / 2 * 2)).toNat = w.toNat / 2 * 2 := by
  have := w.isLt
  rw [BitVec.toNat_ofNat]
  omega

section WordPort

variable {s : State} (hs : Settled s) (hrun : s.run ≠ .starting) {a : Nat} (ha : s.port.accessAddr.toNat / 2 * 2 = a)
include hs hrun ha

/-- The 16-bit read of the word, under any PEEK setting. -/
theorem exec_wdatRead_wordPort (peek : Bool) :
    exec .wdatRead { s.wordPort with port := { s.wordPort.port with peek := peek } } =
      .next { s.released peek (s.releaseAt a) with
        port := { s.wordPort.port with peek := peek, readOut := .word (s.viewWord a) } } :=
  exec_wdatRead_word hs hrun (p := { s.wordPort.port with peek := peek }) rfl ((wordAddr_toNat _).trans ha)

/-- The 16-bit write of the word. -/
theorem exec_wdatWrite_wordPort (v : Word) : exec (.wdatWrite v) s.wordPort = .next (s.wordPort.writeWordAt a v).stepWadr := by
  have addr : s.wordPort.port.accessAddr.toNat = a := (wordAddr_toNat _).trans ha
  rw [exec_wdatWrite_served (s := s.wordPort) hs hrun, addr]
  rfl

end WordPort

/-- A word write looks at none of the port's width, step mode and WADR. -/
theorem writeWordAt_wordPort (s : State) (a : Nat) (v : Word) : s.wordPort.writeWordAt a v =
    { s.writeWordAt a v with port := { (s.writeWordAt a v).port with
      wide := true, step := .stay, wadr := BitVec.ofNat 16 (s.port.accessAddr.toNat / 2 * 2) } } := by
  have adoption : s.wordPort.adoption = s.adoption := rfl
  have slot : ∀ n, s.wordPort.slot n = s.slot n := fun _ => rfl
  simp only [State.writeWordAt, adoption, slot]
  split
  · rfl
  · split <;> rfl
  · split <;> split <;> rfl
  · rfl

/-! ## Byte accesses -/

section Byte

variable {s : State} (hs : Settled s) (hrun : s.run ≠ .starting) (hwide : s.port.wide = false) {a : Nat}
include hs hrun hwide

/-- A write of an even address fills the write hold (R82). -/
theorem exec_wdatWrite_even (ha : s.port.accessAddr.toNat = a) (heven : a % 2 = 0) (data : Word) :
    exec (.wdatWrite data) s = .next { s with port := { s.port with
      wadr := s.port.addrAfter, writeHold := some { addr := a, low := data.setWidth 8 } } } := by
  rw [exec_wdatWrite_served hs hrun, ha, State.writeAt, if_neg (by simp [hwide]), if_pos heven]
  rfl

/-- A write of an odd address makes the word write and empties the write hold (R82). -/
theorem exec_wdatWrite_odd (ha : s.port.accessAddr.toNat = a + 1) (heven : a % 2 = 0) (data : Word) :
    exec (.wdatWrite data) s = .next (s.bytePort
      (s.wordPort.writeWordAt a ((data.setWidth 8 : Byte) ++ s.heldLow a)).stepWadr none s.port.readLatch) := by
  rw [exec_wdatWrite_served hs hrun, ha, State.writeAt, if_neg (by simp [hwide]), if_neg (by omega), Nat.add_sub_cancel,
    writeWordAt_wordPort]
  dsimp only
  generalize (data.setWidth 8 : Byte) ++ s.heldLow a = v
  have settings := (writeWordAt_settings s a v).addrAfter
  have port := writeWordAt_port s a v
  generalize s.writeWordAt a v = t at settings port
  have wide : false = t.port.wide := ((congrArg Port.wide port).trans hwide).symm
  have step : s.port.step = t.port.step := (congrArg Port.step port).symm
  have latch : s.port.readLatch = t.port.readLatch := (congrArg Port.readLatch port).symm
  simp only [State.bytePort, State.stepWadr, ← settings, step, latch, wide]
  rfl

/-- A read of an even address latches the word and what its read would release (R83). -/
theorem exec_wdatRead_even (ha : s.port.accessAddr.toNat = a) (heven : a % 2 = 0) :
    exec .wdatRead s = .next { s with port := { s.port with
      wadr := s.port.addrAfter, readOut := .byte (BitVec.ofNat 8 (s.viewWord a).toNat)
      readLatch := some { addr := a, value := s.viewWord a, release := s.releaseAt a } } } := by
  rw [exec_wdatRead_served hs hrun, ha, State.readAt, if_neg (by simp [hwide]), if_pos heven, State.readEven,
    hostWord_of_served hs.2 hrun, low_byte]
  rfl

end Byte

/-- A read of the odd address whose source is the word as the 16-bit read takes it does what that read does (R83, R91). -/
theorem exec_wdatRead_odd_bytePort {s : State} (hs : Settled s) (hrun : s.run ≠ .starting) {a : Nat} {q : Port}
    (ha : s.port.accessAddr.toNat / 2 * 2 = a) (haq : q.accessAddr.toNat = a + 1) (hq : q.wide = false)
    (hholds : q.writeHold = s.port.writeHold)
    (hcounts : q.dropped = s.port.dropped ∧ q.lastDropped = s.port.lastDropped ∧ q.mispost = s.port.mispost)
    (hsource : State.oddSource { s with port := q } a = (s.viewWord a, s.releaseAt a)) :
    ∃ t w, exec .wdatRead { s with port := q } = .next t ∧
      exec .wdatRead { s.wordPort with port := { s.wordPort.port with peek := q.peek } } = .next w ∧
      w.port.readOut = .word (s.viewWord a) ∧
      t = (State.bytePort { s with port := q } w s.port.writeHold none).drive
        (.byte (BitVec.ofNat 8 ((s.viewWord a).toNat / 256))) := by
  have runs := exec_wdatRead_odd hs hrun hq haq (by omega)
  rw [hsource] at runs
  obtain ⟨dropped, lastDropped, mispost⟩ := hcounts
  refine ⟨_, _, runs, exec_wdatRead_wordPort hs hrun ha q.peek, rfl, ?_⟩
  generalize s.released q.peek (s.releaseAt a) = u
  simp only [State.bytePort, State.drive, State.wordPort, ← hholds, ← hq, ← dropped, ← lastDropped, ← mispost]

theorem oddSource_of_latch {s : State} {l : ReadLatch} (hl : s.port.readLatch = some l) :
    s.oddSource l.addr = (l.value, l.release) := by
  simp only [State.oddSource, hl, if_true]

theorem oddSource_of_other {s : State} {a : Nat} (hl : ∀ l, s.port.readLatch = some l → l.addr ≠ a) :
    s.oddSource a = (s.hostWord a, s.releaseAt a) := by
  unfold State.oddSource
  split
  · next l h => exact if_neg (hl l h)
  · rfl

/-- Settles O14: each byte access is set against the 16-bit access of its word. -/
theorem bytePairAccessIsOneWordAccess : Obligations.BytePairAccessIsOneWordAccess := by
  intro s hs hrun hwide
  dsimp only
  refine ⟨fun heven => ⟨exec_wdatWrite_even hs hrun hwide rfl heven, ?_⟩, fun hodd => ?_⟩
  · generalize haddr : s.port.accessAddr.toNat = a at heven
    have word : s.port.accessAddr.toNat / 2 * 2 = a := by omega
    refine ⟨_, _, s.viewWord a, exec_wdatRead_even hs hrun hwide haddr heven, exec_wdatRead_wordPort hs hrun word s.port.peek,
      rfl, rfl, ⟨_, rfl, rfl, rfl⟩, fun mode peek wadr hnext => ?_⟩
    obtain ⟨t, w, reads, readsWord, _, ht⟩ := exec_wdatRead_odd_bytePort hs hrun word hnext hwide rfl ⟨rfl, rfl, rfl⟩
      (oddSource_of_latch (l := { addr := a, value := s.viewWord a, release := s.releaseAt a }) rfl)
    exact ⟨t, w, reads, readsWord, ht⟩
  · obtain ⟨a, haddr⟩ : ∃ a, s.port.accessAddr.toNat = a + 1 := ⟨s.port.accessAddr.toNat - 1, by omega⟩
    rw [haddr] at hodd ⊢
    have word : s.port.accessAddr.toNat / 2 * 2 = a := by omega
    rw [Nat.add_sub_cancel]
    refine ⟨fun data => ?_, fun hother => ?_, fun l hl hla => ?_⟩
    · refine ⟨_, _, _, s.viewWord a, exec_wdatWrite_odd hs hrun hwide haddr (by omega) data,
        exec_wdatRead_wordPort hs hrun word true, rfl, ?_, rfl⟩
      refine Eq.trans ?_ (exec_wdatWrite_wordPort hs hrun word _)
      rw [append_bytes, State.heldLow]
      cases s.port.writeHold with
      | none =>
        dsimp only
        rw [hostWord_of_served hs.2 hrun, low_byte]
      | some x =>
        dsimp only
        rw [hostWord_of_served hs.2 hrun, low_byte]
    · have source := oddSource_of_other hother
      rw [hostWord_of_served hs.2 hrun] at source
      obtain ⟨t, w, reads, readsWord, hword, ht⟩ := exec_wdatRead_odd_bytePort hs hrun word (q := s.port) haddr hwide rfl
        ⟨rfl, rfl, rfl⟩ source
      exact ⟨t, w, s.viewWord a, reads, readsWord, hword, ht⟩
    · subst hla
      have reads := exec_wdatRead_odd hs hrun (p := s.port) hwide haddr (by omega)
      have source := oddSource_of_latch hl
      rw [source] at reads
      exact ⟨_, reads, rfl, fun hkept => by rw [released_of_kept s hkept]⟩

end Sys2Proof.Machine
end
